-- ==== Sys2Proof/Word.lean ====
section
/-! DEFINITION. The plain types everything else is made of: bytes, addresses, samples, texts, the two
numberings of a seat, and the one update of a table entry. -/

namespace Sys2Proof

/-- One byte of a frame, a slot or a text. Texts hold printable ASCII codes (00, Numbers and text). -/
abbrev Byte := BitVec 8

/-- A room-link address, the first byte most significant (00, Keys and addresses). -/
abbrev Addr := BitVec 48

/-- A signed 16-bit audio sample (00, Samples). -/
abbrev Sample := BitVec 16

/-- A seat unit's serial (01 Table 1-8). -/
abbrev Serial := BitVec 32

/-- An access key, 0–15. -/
abbrev Key := Fin 16

/-- A logical seat, 0–63. -/
abbrev Seat := Fin 64

/-- A physical number, 0–63: A0–A31 are 0–31 and B0–B31 are 32–63. -/
abbrev Pos := Fin 64

/-- A text, one code per character. -/
abbrev Text := List Byte

/-- The 16 samples of one seat, or of the room, in one chain cycle. -/
abbrev Block := Vector Sample 16

/-- The two seat chains. -/
inductive Wing
  | a
  | b
  deriving DecidableEq, Repr

/-- Change entry `i` of a table by `f`. -/
def modify {α : Type} {n : Nat} (t : Vector α n) (i : Fin n) (f : α → α) : Vector α n :=
  t.set i (f t[i])

/-- Change every entry of a table by `f`. -/
def mapAll {α β : Type} {n : Nat} (t : Vector α n) (f : Fin n → α → β) : Vector β n :=
  Vector.ofFn fun i => f i t[i]

/-- The numbers `0` to `n - 1`, in increasing order. -/
abbrev numbers (n : Nat) : List (Fin n) := List.finRange n

/-- A counter that stops at 65535 (00, Counters), raised by `k`. -/
def satAdd (c k : Nat) : Nat := min 65535 (c + k)

end Sys2Proof
end

