-- ==== Sys2Proof/Syntax.lean ====
section
/-! DEFINITION. The commands: one constructor for each row of spec/opcode_table.json, in the table's order,
with the operands the command brings from outside. -/

namespace Sys2Proof

/-- The steps of the part. An operation of a REQUEST carries the operands its bytes hold (12 Table 12-3,
Table 12-9); `vals` are the value bytes of a WRITE. A frame or slot from a port carries its bytes as received. -/
inductive Instr
  | powerOn (carrierA carrierB : Bool)
  | resetInput (carrierA carrierB : Bool)
  | carrierGain (w : Wing)
  | carrierLoss (w : Wing)
  | chainCycle
  | upstreamSlot (p : Pos) (raw : List Byte)
  | wingEndMarker (w : Wing) (raw : List Byte)
  | statusWord (p : Pos) (card : Option Key) (serial : Serial)
  | button (p : Pos)
  | priority (p : Pos)
  | enumerationPassEnd (w : Wing)
  | commitTransfer
  | gapEnd (seat : Seat)
  | turnTimerAdvance (seat : Seat)
  | refusalFlashEnd (seat : Seat)
  | messageStep (seat : Seat)
  | screenWindowEnd (e : Fin 4)
  | clockTenth
  | closingComplete
  | holdover
  | linkUp
  | linkDown
  | frameDropped (raw : List Byte)
  | audioIn (raw : List Byte)
  | time (raw : List Byte)
  | request (raw : List Byte)
  | frameSent
  | requestTake
  | staggerExpiry
  | read (obj : Byte) (first count : BitVec 16)
  | readClear (obj part : Byte)
  | write (obj : Byte) (index : BitVec 16) (field : Byte) (vals : List Byte)
  | setFlags (obj : Byte) (index : BitVec 16) (field : Byte) (mask : BitVec 16)
  | clearFlags (obj : Byte) (index : BitVec 16) (field : Byte) (mask : BitVec 16)
  | toggleFlags (obj : Byte) (index : BitVec 16) (field : Byte) (mask : BitVec 16)
  | unlock (value : Byte)
  | bookingInsert (vals : List Byte)
  | bookingChange (number : BitVec 16) (field : Byte) (vals : List Byte)
  | bookingDelete (number : BitVec 16) (vals : List Byte)
  | rosterWrite (index : BitVec 16) (field : Byte) (vals : List Byte)
  | templateWrite (index : BitVec 16) (field : Byte) (vals : List Byte)
  | roomScreenWrite (index : BitVec 16) (field : Byte) (vals : List Byte)
  | stationWrite (index : BitVec 16) (field : Byte) (vals : List Byte)
  | groupsWrite (index : BitVec 16) (field : Byte) (vals : List Byte)
  | destinationsWrite (index : BitVec 16) (field : Byte) (vals : List Byte)
  | mixStagedWrite (index : BitVec 16) (field : Byte) (vals : List Byte)
  | floorModeWrite (index : BitVec 16) (vals : List Byte)
  | maxOpenWrite (index : BitVec 16) (vals : List Byte)
  | classOverrideWrite (index : BitVec 16) (vals : List Byte)
  | limitOverrideWrite (index : BitVec 16) (vals : List Byte)
  | muteWrite (index : BitVec 16) (vals : List Byte)
  | leadWrite (index : BitVec 16) (vals : List Byte)
  | switchWrite (index : BitVec 16) (vals : List Byte)
  | gapWarnWrite (index : BitVec 16) (field : Byte) (vals : List Byte)
  | detectorSettingsWrite (index : BitVec 16) (field : Byte) (vals : List Byte)
  | pageSelectionWrite (index : BitVec 16) (field : Byte) (vals : List Byte)
  | grant (seat force : Byte)
  | revoke (seat : Byte)
  | next
  | queuePlace (seat position : Byte)
  | clearQueue
  | closeAll
  | openAdhoc (duration : BitVec 16) (key chair mode maxOpen : Byte)
  | extend (minutes : Byte)
  | endSession
  | sendMessage (target : Byte) (text : List Byte)
  | commit
  | discard
  | save
  | saveComplete (success : Bool)
  | enumerate (wing : Byte)
  | halt
  | resume
  | restart
  | restartTakesEffect
  | powerLoss
  deriving DecidableEq, Repr

end Sys2Proof
end

