-- ==== Sys2Proof/Machine/Types.lean ====
section
/-! DEFINITION. The kinds of state the blocks hold: the named values of the manual and the records of its tables. -/

namespace Sys2Proof.Machine

/-! ## The table chain (01) -/

/-- 01 Table 1-5. -/
inductive WingState
  | down | enumerating | running | degraded
  deriving DecidableEq, Repr

/-- The cycle command of the header (01 section 1.1). -/
inductive CycleCommand
  | normal | assign | identify
  deriving DecidableEq, Repr

inductive Presence
  | absent | present
  deriving DecidableEq, Repr

/-- Why a position left PRESENT or was re-initialised (01 R13). -/
inductive LossCause
  | slot | noUnit | carrier | newUnit
  deriving DecidableEq, Repr

/-- What the cycle in progress has brought at a position (01 R2). -/
inductive SlotSeen
  | notTaken | bad | good
  deriving DecidableEq, Repr

/-- A press that the event field of an upstream slot carries (01 R18). -/
inductive Press
  | button | priority
  deriving DecidableEq, Repr

/-- One wing's port and scanner (01 R3, R4, R8, R14). `passCycle` 0 in ENUMERATING means that the pass's
first cycle begins at the next boundary. -/
structure WingPort where
  state     : WingState
  carrier   : Bool
  recorded  : Nat
  assigned  : Nat
  scanPos   : Nat
  command   : CycleCommand
  passCycle : Nat
  passCount : Option Nat
  reports   : Vector (Option Serial) 32
  deriving DecidableEq, Repr

/-- One position record of 01 Table 1-8, with what the cycle in progress brought. `answer` and `event` are what a good
slot of this cycle carries and the scanner has not taken yet: the status word, as card and serial, and the press
(01 R14, R18; log 30). -/
structure PosRec where
  presence    : Presence
  serial      : Option Serial
  loss        : Nat
  statusValid : Bool
  card        : Option Key
  slot        : SlotSeen
  block       : Block
  answer      : Option (Option Key × Serial)
  event       : Option Press
  deriving DecidableEq, Repr

/-! ## Level detection (07) -/

/-- 07 Table 7-1, with the two conditions at the last block taken (07 R139, R144). `fresh` says that the level state has
not been set to 0 since that block: only then are the conditions handed on (07 R141, R142; log 27). -/
structure LevelRec where
  envelope   : Nat
  peaks      : Vector Nat 8
  meter      : Nat
  idle       : Nat
  clips      : Nat
  voiceStart : Bool
  voiceIdle  : Bool
  fresh      : Bool
  deriving DecidableEq, Repr

/-! ## Seats (02) -/

/-- 02 Table 2-1. -/
inductive SeatClass
  | chair | delegate | observer | guest | vacant
  deriving DecidableEq, Repr

/-- Roles of a roster entry, in the order of 12 R198. -/
inductive Role
  | delegate | chair | observer | guest
  deriving DecidableEq, Repr

structure Participant where
  name  : Text
  key   : Key
  role  : Role
  limit : Option Nat
  deriving DecidableEq, Repr

/-- One seat record, held by physical number (02 Table 2-1, less the scanner's fields and the derived ones). -/
structure SeatRec where
  participant   : Option Participant
  classOverride : Option SeatClass
  seatMute      : Bool
  spoke         : Bool
  changed       : Bool
  turnCount     : Nat
  total         : Nat
  lastTurn      : Nat
  limitOverride : Option Nat
  deriving DecidableEq, Repr

/-- 02 R22. -/
structure SeatTable where
  recs        : Vector SeatRec 64
  chair       : Pos
  sessionMute : Bool
  wingAMute   : Bool
  wingBMute   : Bool
  deriving DecidableEq, Repr

/-- The seat table's answer to the floor controller (02 R30). -/
inductive Answer
  | notReady | listenOnly | notPermitted | admitted
  deriving DecidableEq, Repr

/-! ## Room calendar (03) -/

inductive SyncState
  | unsynced | synced | holdover
  deriving DecidableEq, Repr

/-- Room time: room minute, second and tenth. -/
structure RoomTime where
  minute : Nat
  second : Nat
  tenth  : Nat
  deriving DecidableEq, Repr

/-- 03 R43. -/
structure Clock where
  now    : RoomTime
  cycles : Nat
  sync   : SyncState
  age    : Nat
  deriving DecidableEq, Repr

inductive Mode
  | openFloor | queue | voice
  deriving DecidableEq, Repr

inductive LimitAction
  | warn | auto
  deriving DecidableEq, Repr

/-- 03 Table 3-2. `active` is the state field: ACTIVE when yes, WAITING when no. -/
structure Booking where
  number      : Nat
  start       : Nat
  duration    : Nat
  grace       : Nat
  key         : Key
  guestAdmit  : Bool
  chair       : Pos
  roster      : Option (Fin 8)
  mode        : Mode
  maxOpen     : Nat
  speakLimit  : Nat
  limitAction : LimitAction
  title       : Text
  roomSend    : Bool
  active      : Bool
  deriving DecidableEq, Repr

/-- One roster slot's entry (03 R50). -/
structure RosterEntry where
  position : Pos
  name     : Text
  key      : Key
  role     : Role
  limit    : Option Nat
  deriving DecidableEq, Repr

/-- 03 Table 3-4. -/
inductive Session
  | vacant | armed | inSession | grace | closing
  deriving DecidableEq, Repr

inductive EndCause
  | endTime | graceEnd | floorEmpty | endSession
  deriving DecidableEq, Repr

/-- The refusal reasons, in the order of 03 R65. -/
inductive Refuse
  | floorFull | queueFull | notReady | listenOnly | notPermitted | noSession | sessionEnding | halted
  deriving DecidableEq, Repr

structure Speaker where
  seat     : Seat
  physical : Pos
  turns    : Nat
  total    : Nat
  deriving DecidableEq, Repr

/-- 03 Table 3-5. -/
structure Report where
  number   : Nat
  title    : Text
  start    : RoomTime
  finish   : RoomTime
  cause    : EndCause
  speakers : List Speaker
  changed  : List Seat
  refusals : Vector Nat 8
  deriving DecidableEq, Repr

/-- 03 R51, R65, R66. -/
structure Calendar where
  bookings    : List Booking
  rosters     : Vector (Vector (Option RosterEntry) 64) 8
  session     : Session
  actualStart : RoomTime
  actualEnd   : RoomTime
  graceEnd    : Option Nat
  endCause    : Option EndCause
  stepPending : Bool
  tally       : Vector Nat 8
  lastReport  : Option Report
  deriving DecidableEq, Repr

/-! ## Floor control (04) -/

inductive Source
  | button | management | queue | voice
  deriving DecidableEq, Repr

/-- 04 Table 4-2, in its order. -/
inductive Reason
  | released | withdrawn | replaced | priority | revoked | cleared | mode | maxReduced | voiceIdle | limit
  | key | lost | sessionEnd | halted
  deriving DecidableEq, Repr

/-- The kind of request a seat refusal answers (04 R75). -/
inductive PressKind
  | button | priority | voice
  deriving DecidableEq, Repr

structure OpenEntry where
  seat   : Seat
  time   : RoomTime
  source : Source
  deriving DecidableEq, Repr

structure QueueEntry where
  seat   : Seat
  minute : Nat
  second : Nat
  source : Source
  deriving DecidableEq, Repr

/-- 04 Table 4-1, less the three CONFIG switches. -/
structure Floor where
  mode     : Mode
  maxOpen  : Nat
  openList : List OpenEntry
  queue    : List QueueEntry
  blocked  : Vector Bool 64
  seen     : Vector Bool 64
  deriving DecidableEq, Repr

/-! ## Microphone states (05) -/

inductive MicState
  | closed | opening | opened | closing
  deriving DecidableEq, Repr

/-- 05 R103. -/
inductive DuckClass
  | own | near | none
  deriving DecidableEq, Repr

/-- 05 R108, in the code order of 12 Table 12-6. -/
inductive Indicator
  | off | red | redSlow | redFast | green | refusal
  deriving DecidableEq, Repr

/-- 05 R98. `cycleOpen` and `cycleDuck` are the facts given to the mix engine for the cycle in progress (05 R103). -/
structure MicRec where
  state     : MicState
  gap       : Nat
  timer     : Nat
  cycles    : Nat
  warning   : Bool
  overMark  : Bool
  flash     : Nat
  queued    : Bool
  cycleOpen : Bool
  cycleDuck : DuckClass
  deriving DecidableEq, Repr

structure MicBlock where
  recs        : Vector MicRec 64
  speakLimit  : Nat
  limitAction : LimitAction
  deriving DecidableEq, Repr

/-! ## Mix engine (06) -/

/-- 06 Table 6-3. -/
structure MixTables where
  gin        : Vector Nat 64
  gout       : Vector Nat 64
  duckOwn    : Nat
  duckNear   : Nat
  returnGain : Nat
  sendGain   : Nat
  neighbours : Vector (Vector (Option Pos) 4) 64
  deriving DecidableEq, Repr

/-- 06 R124, R120–R122, with the tables, the mapping and the return block of the cycle in progress (06 R113, R115,
R131; log 46). -/
structure MixBlock where
  live        : MixTables
  staged      : MixTables
  image       : Option MixTables
  pending     : Bool
  due         : Bool
  outClips    : Vector Nat 64
  sendClips   : Nat
  roomSend    : Bool
  cycleLive   : MixTables
  cycleChair  : Pos
  cycleReturn : Block
  deriving DecidableEq, Repr

/-! ## Display composer (08) -/

inductive Page
  | message | session | armed | idle
  deriving DecidableEq, Repr

/-- A one-shot message (08 R157, R158). -/
structure Message where
  text    : Text
  step    : Nat
  counter : Nat
  deriving DecidableEq, Repr

structure Transfer where
  text : Text
  next : Nat
  deriving DecidableEq, Repr

/-- 08 R145. `carried` says that the downstream slot of the cycle in progress carried a chunk whose report
has not come yet (08 R154). -/
structure Delivery where
  known    : Option Text
  transfer : Option Transfer
  carried  : Bool
  deriving DecidableEq, Repr

/-- A room screen entry (08 R159, R160); `template` 0–3 stands for room template 16–19. -/
structure Screen where
  addr     : Option Addr
  template : Fin 4
  lastSent : Option Text
  pending  : Bool
  window   : Nat
  waiting  : Bool
  deriving DecidableEq, Repr

structure Display where
  templates : Vector Text 20
  messages  : Vector (Option Message) 64
  delivery  : Vector Delivery 64
  screens   : Vector Screen 4
  deriving DecidableEq, Repr

/-! ## Room link (09) -/

/-- The kinds of frame, in the code order of 12 Table 12-1 (codes from 0x01). -/
inductive FrameKind
  | audioIn | audioOut | time | request | reply | notice | screen
  deriving DecidableEq, Repr

/-- A frame the port has built. -/
structure Frame where
  dest    : Addr
  source  : Addr
  kind    : FrameKind
  payload : List Byte
  deriving DecidableEq, Repr

/-- 09 Table 9-4, in its order. -/
structure LinkCounters where
  runts          : Nat
  oversize       : Nat
  crcErrors      : Nat
  lengthErrors   : Nat
  addressMisses  : Nat
  kindRejects    : Nat
  timeRejects    : Nat
  lateBlocks     : Nat
  returnGaps     : Nat
  returnOverruns : Nat
  noticesDropped : Nat
  linkLosses     : Nat
  deriving DecidableEq, Repr

/-- An AUDIO_OUT frame that follows a begun queued frame, with the clips of its room send (06 R121, 09 R170). -/
structure HeldAudio where
  frame : Frame
  clips : Nat
  deriving DecidableEq, Repr

/-- 09, The port owns the following state. `begun` says that the sending of the head of the queue has begun; `held` are
the AUDIO_OUT frames that follow it; `line` are the frames put on the line in the cycle in progress, in their order
(09 R170, R171; log 23). -/
structure Link where
  station      : Addr
  groups       : Vector (Option Addr) 4
  noticeDest   : Option Addr
  audioDest    : Option Addr
  learnt       : Bool
  expected     : Nat
  buffer       : List Block
  outCounter   : Nat
  queue        : List Frame
  begun        : Bool
  held         : List HeldAudio
  line         : List Frame
  lastAdmitted : Fin 4
  up           : Bool
  counters     : LinkCounters
  deriving DecidableEq, Repr

/-! ## In-band management (10) -/

/-- 12 Table 12-4. -/
inductive Status
  | ok | clamped
  | badObject | badIndex | badValue | protectedKey | locked | busy | malformed | halted
  | floorFull | queueFull | empty | notHolding | notReady | listenOnly | notPermitted | noSession
  | sessionEnding | absent | overlap | full | duplicate | past | active | booked
  deriving DecidableEq, Repr

inductive FlagOp
  | set | clear | toggle
  deriving DecidableEq, Repr

/-- One operation of a request, its bytes split as 12 Table 12-3 splits them. -/
inductive Op
  | read (obj : Byte) (first count : BitVec 16)
  | write (obj : Byte) (index : BitVec 16) (field : Byte) (vals : List Byte)
  | flags (kind : FlagOp) (obj : Byte) (index : BitVec 16) (field : Byte) (mask : BitVec 16)
  | readClear (obj part : Byte)
  | action (code : Byte) (args : List Byte)
  | unlock (value : Byte)
  deriving DecidableEq, Repr

/-- A request handed on by the port (10 R175). -/
structure Request where
  source  : Addr
  group   : Bool
  payload : List Byte
  deriving DecidableEq, Repr

/-- What a READ or READ_CLEAR returned: the number of entries and their bytes (12 R199). -/
structure Returned where
  count : Nat
  bytes : List Byte
  deriving DecidableEq, Repr

/-- The well-formed request in hand (10 R176, R177, R180): its header, the operations still to execute, and
what the executed ones have left for the reply. -/
structure Hand where
  tag      : BitVec 16
  key      : Key
  silent   : Bool
  total    : Nat
  reads    : Nat
  ops      : List Op
  statuses : List Status
  returned : List Returned
  staged   : Bool
  deriving DecidableEq, Repr

/-- 10 Table 10-2. -/
inductive Engine
  | idle | executing | stagger | replyWait
  deriving DecidableEq, Repr

/-- How far an accepted RESTART has come (10 R188). -/
inductive RestartPhase
  | none
  | scheduled
  | due (silent : Bool)
  deriving DecidableEq, Repr

structure Mgmt where
  requests  : List Request
  engine    : Engine
  unlocked  : Bool
  stagger   : Nat
  dropped   : Nat
  malformed : Nat
  hand      : Option Hand
  reply     : Option Frame
  restart   : RestartPhase
  deriving DecidableEq, Repr

/-! ## Settings and the store (11) -/

/-- The CONFIG fields (12 Table 12-8). `replace` is full_policy: REPLACE when yes, REFUSE when no. -/
structure Settings where
  lead         : Nat
  replace      : Bool
  autoAdvance  : Bool
  clearQueue   : Bool
  sendIdle     : Bool
  autoCommit   : Bool
  openGap      : Nat
  closeGap     : Nat
  warnTime     : Nat
  kAtt         : Nat
  kRel         : Nat
  openThr      : Nat
  closeThr     : Nat
  hold         : Nat
  idlePage     : Fin 16
  armedPage    : Fin 16
  delegatePage : Fin 16
  chairPage    : Fin 16
  observerPage : Fin 16
  guestPage    : Fin 16
  deriving DecidableEq, Repr

/-- The contents of a store image (11 Table 11-1). -/
structure Image where
  cfg        : Settings
  bookings   : List Booking
  rosters    : Vector (Vector (Option RosterEntry) 64) 8
  templates  : Vector Text 20
  screens    : Vector (Option Addr × Fin 4) 4
  groups     : Vector (Option Addr) 4
  noticeDest : Option Addr
  audioDest  : Option Addr
  mix        : MixTables
  generation : Nat
  deriving DecidableEq, Repr

inductive SaveResult
  | saved | failed
  deriving DecidableEq, Repr

inductive SettingsSource
  | image | defaults
  deriving DecidableEq, Repr

/-- The two image areas of the store. -/
inductive Area
  | a | b
  deriving DecidableEq, Repr

/-- A save in progress: the area being written and the snapshot (11 R191). -/
structure Writing where
  area     : Area
  snapshot : Image
  deriving DecidableEq, Repr

/-- 11, The settings store owns. An area that is not valid is `none`. -/
structure Store where
  areaA        : Option Image
  areaB        : Option Image
  writing      : Option Writing
  lastResult   : Option SaveResult
  source       : SettingsSource
  storeInvalid : Bool
  halted       : Bool
  deriving DecidableEq, Repr

/-! ## Outputs (01 R19, 09 R170) -/

/-- The control part of a downstream slot of a NORMAL cycle. -/
structure Control where
  indicator : Indicator
  chunk     : Option (Nat × Text)
  enable    : Bool
  deriving DecidableEq, Repr

/-- A downstream slot: its samples and its control part, or none where the slot carries the pass's command (01 R19). -/
structure DownSlot where
  samples : Block
  control : Option Control
  deriving DecidableEq, Repr

structure Outputs where
  down     : Vector DownSlot 64
  audioOut : Option Frame
  deriving DecidableEq, Repr

/-- A boundary step already taken by its own command for the coming boundary (log 2). -/
inductive Early
  | mic (seat : Seat)
  | message (seat : Seat)
  | screen (e : Fin 4)
  | tenth
  | stagger
  deriving DecidableEq, Repr

end Sys2Proof.Machine
end

