-- ==== Sys2Proof/Machine/Bytes.lean ====
section
/-! DEFINITION. Byte order, check values, and the layouts of frames and chain slots (09 R162, 12). -/

namespace Sys2Proof.Machine

/-! ## Numbers: most significant byte first (12) -/

def be8 (n : Nat) : List Byte := [BitVec.ofNat 8 n]
def be16 (n : Nat) : List Byte := [BitVec.ofNat 8 (n / 256), BitVec.ofNat 8 n]
def be32 (n : Nat) : List Byte := be16 (n / 65536) ++ be16 n
def be48 (n : Nat) : List Byte := be16 (n / 4294967296) ++ be32 n

/-- The number a run of bytes holds, the first byte most significant. -/
def number (bs : List Byte) : Nat := bs.foldl (fun acc b => acc * 256 + b.toNat) 0

/-- The number in the `n` bytes from offset `at`. -/
def field (bs : List Byte) (pos n : Nat) : Nat := number ((bs.drop pos).take n)

def byteAt (bs : List Byte) (pos : Nat) : Byte := bs.getD pos 0

def addrBytes (a : Addr) : List Byte := be48 a.toNat

def boolByte (b : Bool) : List Byte := be8 (if b then 1 else 0)

/-- A text: its length byte and its characters (12). -/
def textBytes (t : Text) : List Byte := be8 t.length ++ t

/-- A sample, two bytes, and a block, sixteen samples. -/
def sampleBytes (x : Sample) : List Byte := be16 x.toNat

def blockBytes (b : Block) : List Byte := b.toList.flatMap sampleBytes

/-- The block in the 32 bytes from offset `at`. -/
def blockAt (bs : List Byte) (pos : Nat) : Block :=
  Vector.ofFn fun i => BitVec.ofNat 16 (field bs (pos + 2 * i.val) 2)

/-! ## Check values -/

/-- One bit of the 32-bit check, least significant bit first: generator 0x04C11DB7 reflected (09 R162). -/
def crc32Bit (c : BitVec 32) : BitVec 32 :=
  if c.getLsbD 0 then (c >>> 1) ^^^ 0xEDB88320#32 else c >>> 1

def crc32Byte (c : BitVec 32) (b : Byte) : BitVec 32 :=
  crc32Bit (crc32Bit (crc32Bit (crc32Bit (crc32Bit (crc32Bit (crc32Bit (crc32Bit
    (c ^^^ b.setWidth 32))))))))

/-- The frame check of 09 R162: register all ones at the start, the result inverted. -/
def crc32 (bs : List Byte) : BitVec 32 := ~~~ (bs.foldl crc32Byte 0xFFFFFFFF#32)

/-- The check as sent: least significant byte first (09 R162, 12). -/
def crc32Bytes (bs : List Byte) : List Byte := (be32 (crc32 bs).toNat).reverse

/-- One bit of the 16-bit chain check, most significant bit first: generator 0x1021 (12.4).
PRESUMED: the bit order and that the result is not inverted (log 40). -/
def crc16Bit (c : BitVec 16) : BitVec 16 :=
  if c.getLsbD 15 then (c <<< 1) ^^^ 0x1021#16 else c <<< 1

def crc16Byte (c : BitVec 16) (b : Byte) : BitVec 16 :=
  crc16Bit (crc16Bit (crc16Bit (crc16Bit (crc16Bit (crc16Bit (crc16Bit (crc16Bit
    (c ^^^ (b.setWidth 16 <<< 8)))))))))

/-- The check of a chain item: register all ones at the start (12.4). -/
def crc16 (bs : List Byte) : BitVec 16 := bs.foldl crc16Byte 0xFFFF#16

def crc16Bytes (bs : List Byte) : List Byte := be16 (crc16 bs).toNat

/-! ## Room-link frames (09 Table 9-1, 12 Table 12-1) -/

def FrameKind.code : FrameKind → Nat
  | .audioIn => 0x01
  | .audioOut => 0x02
  | .time => 0x03
  | .request => 0x04
  | .reply => 0x05
  | .notice => 0x06
  | .screen => 0x07

/-- Every byte of a frame before its check. -/
def headerBytes (dest source : Addr) (kind : Nat) (payload : List Byte) : List Byte :=
  addrBytes dest ++ addrBytes source ++ be8 kind ++ be8 0 ++ be16 payload.length ++ payload

/-- A whole frame of the link, from any sender. -/
def frameBytes (dest source : Addr) (kind : Nat) (payload : List Byte) : List Byte :=
  headerBytes dest source kind payload ++ crc32Bytes (headerBytes dest source kind payload)

/-- The bytes the port sends for a frame it has built; flags are sent as 0. -/
def Frame.bytes (f : Frame) : List Byte := frameBytes f.dest f.source f.kind.code f.payload

/-- The lowest bit of the first byte is set (09 R162). -/
def isGroup (a : Addr) : Bool := a.getLsbD 40

def broadcast : Addr := 0xFFFFFFFFFFFF#48

/-- The absent address, six zero bytes (12 R198). -/
def noAddr : Addr := 0

/-- An optional address from its six bytes, or to them (12 R198). -/
def optAddr (n : Nat) : Option Addr := if n = 0 then none else some (BitVec.ofNat 48 n)

def optAddrBytes (a : Option Addr) : List Byte := addrBytes (a.getD noAddr)

/-- The frame agrees with its CRC (09 R162). -/
def crcAgrees (raw : List Byte) : Bool :=
  raw.drop (raw.length - 4) = crc32Bytes (raw.take (raw.length - 4))

/-! ## Chain items (12 Table 12-6) -/

/-- An upstream slot, split. -/
structure UpSlot where
  block   : Block
  event   : Nat
  status  : Nat
  present : Bool
  key     : Nat
  serial  : Serial
  deriving DecidableEq, Repr

def UpSlot.body (u : UpSlot) : List Byte :=
  blockBytes u.block ++ be8 u.event ++ be8 u.status ++ boolByte u.present ++ be8 u.key ++ be32 u.serial.toNat

/-- An upstream slot as its unit sends it. -/
def UpSlot.bytes (u : UpSlot) : List Byte := u.body ++ crc16Bytes u.body

/-- A slot is good when it arrives in its place, 42 bytes long, and its check agrees (01 R2). A missing slot
is no bytes at all. A card presence byte other than 0 is read as card present (log 30). -/
def readUpSlot (raw : List Byte) : Option UpSlot :=
  if raw.length = 42 ∧ raw.drop 40 = crc16Bytes (raw.take 40) then
    some { block := blockAt raw 0, event := field raw 32 1, status := field raw 33 1,
           present := field raw 34 1 != 0, key := field raw 35 1, serial := BitVec.ofNat 32 (field raw 36 4) }
  else none

def markerBytes (count : Nat) : List Byte := be8 count ++ crc16Bytes (be8 count)

/-- The count of a good wing-end marker (01 R3). A marker whose count is above 63 is taken as bad (log 43). -/
def readMarker (raw : List Byte) : Option Nat :=
  if raw.length = 3 ∧ raw.drop 1 = crc16Bytes (raw.take 1) ∧ field raw 0 1 ≤ 63 then some (field raw 0 1) else none

def CycleCommand.code : CycleCommand → Nat
  | .normal => 0
  | .assign => 1
  | .identify => 2

/-- A cycle header as sent. -/
def headerItem (w : WingPort) : List Byte :=
  let body := be8 w.command.code ++ be8 w.scanPos
  body ++ crc16Bytes body

def Indicator.code : Indicator → Nat
  | .off => 0
  | .red => 1
  | .redSlow => 2
  | .redFast => 3
  | .green => 4
  | .refusal => 5

/-- A downstream slot of a NORMAL cycle as sent. The characters of a slot without a chunk are four zero bytes (log 44). -/
def downItem (samples : Block) (c : Control) : List Byte :=
  let chunk := match c.chunk with
    | some (i, t) => be8 i ++ t
    | none => be8 0xFF ++ [0, 0, 0, 0]
  let body := blockBytes samples ++ be8 c.indicator.code ++ chunk ++ boolByte c.enable
  body ++ crc16Bytes body

end Sys2Proof.Machine
end

