-- ==== Sys2Proof/Machine/Operands.lean ====
section
/-! DEFINITION. The operands of management: object, status and reason codes, the operations of a REQUEST payload,
and the values a WRITE carries (10 R176, 12 R198, 12 Tables 12-3 to 12-9). -/

namespace Sys2Proof.Machine

/-! ## Codes -/

def Status.code : Status → Nat
  | .ok => 0x00 | .clamped => 0x01
  | .badObject => 0x10 | .badIndex => 0x11 | .badValue => 0x12 | .protectedKey => 0x13 | .locked => 0x14
  | .busy => 0x15 | .malformed => 0x16 | .halted => 0x17
  | .floorFull => 0x20 | .queueFull => 0x21 | .empty => 0x22 | .notHolding => 0x23 | .notReady => 0x24
  | .listenOnly => 0x25 | .notPermitted => 0x26 | .noSession => 0x27 | .sessionEnding => 0x28
  | .absent => 0x29 | .overlap => 0x2A | .full => 0x2B | .duplicate => 0x2C | .past => 0x2D
  | .active => 0x2E | .booked => 0x2F

/-- OK and CLAMPED are successes (10 R177). -/
def Status.success : Status → Bool
  | .ok | .clamped => true
  | _ => false

/-- CLAMPED when a value was brought into range, OK otherwise. -/
def okOr (clamped : Bool) : Status := if clamped then .clamped else .ok

/-- The refusal reason as a status of a management action. -/
def Refuse.status : Refuse → Status
  | .floorFull => .floorFull | .queueFull => .queueFull | .notReady => .notReady | .listenOnly => .listenOnly
  | .notPermitted => .notPermitted | .noSession => .noSession | .sessionEnding => .sessionEnding | .halted => .halted

def Refuse.index : Refuse → Fin 8
  | .floorFull => 0 | .queueFull => 1 | .notReady => 2 | .listenOnly => 3
  | .notPermitted => 4 | .noSession => 5 | .sessionEnding => 6 | .halted => 7

def Reason.code : Reason → Nat
  | .released => 0x00 | .withdrawn => 0x01 | .replaced => 0x02 | .priority => 0x03 | .revoked => 0x04
  | .cleared => 0x05 | .mode => 0x06 | .maxReduced => 0x07 | .voiceIdle => 0x08 | .limit => 0x09
  | .key => 0x0A | .lost => 0x0B | .sessionEnd => 0x0C | .halted => 0x0D

def Source.code : Source → Nat
  | .button => 0 | .management => 1 | .queue => 2 | .voice => 3

def PressKind.code : PressKind → Nat
  | .button => 0 | .priority => 1 | .voice => 2

def Mode.code : Mode → Nat
  | .openFloor => 0 | .queue => 1 | .voice => 2

def Mode.ofCode : Nat → Option Mode
  | 0 => some .openFloor | 1 => some .queue | 2 => some .voice | _ => none

def LimitAction.code : LimitAction → Nat
  | .warn => 0 | .auto => 1

def LimitAction.ofCode : Nat → Option LimitAction
  | 0 => some .warn | 1 => some .auto | _ => none

def Role.code : Role → Nat
  | .delegate => 0 | .chair => 1 | .observer => 2 | .guest => 3

def Role.ofCode : Nat → Option Role
  | 0 => some .delegate | 1 => some .chair | 2 => some .observer | 3 => some .guest | _ => none

def SeatClass.code : SeatClass → Nat
  | .chair => 0 | .delegate => 1 | .observer => 2 | .guest => 3 | .vacant => 4

def SeatClass.ofCode : Nat → Option SeatClass
  | 0 => some .chair | 1 => some .delegate | 2 => some .observer | 3 => some .guest | 4 => some .vacant | _ => none

def EndCause.code : EndCause → Nat
  | .endTime => 0 | .graceEnd => 1 | .floorEmpty => 2 | .endSession => 3

def WingState.code : WingState → Nat
  | .down => 0 | .enumerating => 1 | .running => 2 | .degraded => 3

def Presence.code : Presence → Nat
  | .absent => 0 | .present => 1

def SyncState.code : SyncState → Nat
  | .unsynced => 0 | .synced => 1 | .holdover => 2

def Session.code : Session → Nat
  | .vacant => 0 | .armed => 1 | .inSession => 2 | .grace => 3 | .closing => 4

def MicState.code : MicState → Nat
  | .closed => 0 | .opening => 1 | .opened => 2 | .closing => 3

def Page.code : Page → Nat
  | .message => 0 | .session => 1 | .armed => 2 | .idle => 3

def Engine.code : Engine → Nat
  | .idle => 0 | .executing => 1 | .stagger => 2 | .replyWait => 3

/-! ## Numbers of seats, positions, keys -/

def seatOf (n : Nat) : Option Seat := if h : n < 64 then some ⟨n, h⟩ else none
def keyOf (n : Nat) : Option Key := if h : n < 16 then some ⟨n, h⟩ else none

/-- A character outside 0x20 to 0x7E is replaced by '?' as it is taken in (00, Numbers and text). -/
def printable (c : Byte) : Byte := if 0x20 ≤ c.toNat ∧ c.toNat ≤ 0x7E then c else 0x3F

def takeIn (t : Text) : Text := t.map printable

/-! ## Objects (12 Table 12-7) -/

inductive Object
  | ident | station | groups | destinations | config | bookings | rosters | templates | roomScreens | seats
  | mixStaged | mixLive | floor | session | clock | wings | counters | lastReport | store
  deriving DecidableEq, Repr

def Object.ofCode : Nat → Option Object
  | 0x01 => some .ident | 0x02 => some .station | 0x03 => some .groups | 0x04 => some .destinations
  | 0x05 => some .config | 0x06 => some .bookings | 0x07 => some .rosters | 0x08 => some .templates
  | 0x09 => some .roomScreens | 0x0A => some .seats | 0x0B => some .mixStaged | 0x0C => some .mixLive
  | 0x0D => some .floor | 0x0E => some .session | 0x0F => some .clock | 0x10 => some .wings
  | 0x11 => some .counters | 0x12 => some .lastReport | 0x13 => some .store
  | _ => none

/-- The read-only objects of 10 R181 check 2. -/
def Object.readOnly : Object → Bool
  | .ident | .mixLive | .session | .clock | .wings | .lastReport | .store => true
  | _ => false

/-- Objects whose writes need an UNLOCK (10 R181 check 4). -/
def Object.needsUnlock : Object → Bool
  | .station | .groups | .destinations => true
  | _ => false

/-- Objects whose WRITE is session-scoped, of a read-only field or of one they do not hold too (10 R182; log 47). -/
def Object.sessionScoped : Object → Bool
  | .seats | .floor => true
  | _ => false

/-! ## Actions (12 Table 12-9) -/

inductive Action
  | grant | revoke | next | queuePlace | clearQueue | closeAll | openAdhoc | extend | endSession | sendMessage
  | commit | discard | save | enumerate | halt | resume | restart
  deriving DecidableEq, Repr

def Action.code : Action → Byte
  | .grant => 0x01 | .revoke => 0x02 | .next => 0x03 | .queuePlace => 0x04 | .clearQueue => 0x05
  | .closeAll => 0x06 | .openAdhoc => 0x07 | .extend => 0x08 | .endSession => 0x09 | .sendMessage => 0x0A
  | .commit => 0x0B | .discard => 0x0C | .save => 0x0D | .enumerate => 0x0E | .halt => 0x0F
  | .resume => 0x10 | .restart => 0x11

def Action.ofCode : Nat → Option Action
  | 0x01 => some .grant | 0x02 => some .revoke | 0x03 => some .next | 0x04 => some .queuePlace
  | 0x05 => some .clearQueue | 0x06 => some .closeAll | 0x07 => some .openAdhoc | 0x08 => some .extend
  | 0x09 => some .endSession | 0x0A => some .sendMessage | 0x0B => some .commit | 0x0C => some .discard
  | 0x0D => some .save | 0x0E => some .enumerate | 0x0F => some .halt | 0x10 => some .resume
  | 0x11 => some .restart
  | _ => none

/-- Actions admitted under the session key (10 R182, Table 10-4). -/
def Action.sessionScoped : Action → Bool
  | .grant | .revoke | .next | .queuePlace | .clearQueue | .closeAll | .sendMessage | .extend | .endSession => true
  | _ => false

/-- The argument bytes of an action fit (10 R176, 12 Table 12-9). An action code that names none has no
required length. -/
def actionFits (code : Byte) (args : List Byte) : Bool :=
  match Action.ofCode code.toNat with
  | none => true
  | some .grant | some .queuePlace => args.length = 2
  | some .revoke | some .extend | some .enumerate => args.length = 1
  | some .openAdhoc => args.length = 6
  | some .sendMessage => 2 ≤ args.length && args.length = 2 + (byteAt args 1).toNat
  | some _ => args.length = 0

/-! ## The values of a WRITE (12 R198) -/

/-- One part of a value: a number of bytes, or a text with its length byte. -/
inductive Part
  | fixed (n : Nat)
  | text
  deriving DecidableEq, Repr

/-- Taking one value off the front of the bytes. -/
inductive Taken
  | value (v rest : List Byte)
  | short
  | textRuns
  deriving DecidableEq, Repr

/-- Take the parts of a value in turn. `done` holds the bytes taken so far. -/
def takeParts (done : List Byte) : List Part → List Byte → Taken
  | [], bs => .value done bs
  | .fixed n :: ps, bs => if bs.length < n then .short else takeParts (done ++ bs.take n) ps (bs.drop n)
  | .text :: ps, bs =>
    match bs with
    | [] => .short
    | len :: rest =>
      if rest.length < len.toNat then .textRuns
      else takeParts (done ++ len :: rest.take len.toNat) ps (rest.drop len.toNat)

/-- The parts of the value that a field of an object holds, or none for a field code the object does not hold.
The delete and the empty form are one byte (log 13). -/
def valueShape (o : Object) (index fld : Nat) : Option (List Part) :=
  match o with
  | .station | .groups | .destinations => if fld = 0 then some [.fixed 6] else none
  | .config =>
    if fld = 0 ∨ (2 ≤ fld ∧ fld ≤ 4) ∨ (7 ≤ fld ∧ fld ≤ 9) then some [.fixed 2]
    else if fld ≤ 15 then some [.fixed 1] else none
  | .bookings =>
    if fld = 0xFF then some [.fixed (if index = 0 then 19 else 17), .text]
    else if fld = 0xFE ∨ fld = 0x10 then some [.fixed 1] else none
  | .rosters =>
    if fld = 0xFF then some [.fixed 1, .text, .fixed 4] else if fld = 0xFE then some [.fixed 1] else none
  | .templates => if fld = 0 then some [.text] else none
  | .roomScreens => if fld = 0xFF then some [.fixed 7] else none
  | .seats =>
    if fld = 0 then some [.fixed 1]
    else if index = 64 then none
    else if fld = 1 then some [.fixed 1] else if fld = 2 then some [.fixed 2] else none
  | .mixStaged => if fld ≤ 5 then some [.fixed 2] else if fld = 6 then some [.fixed 4] else none
  | .floor => if fld ≤ 1 then some [.fixed 1] else none
  | _ => none

/-- Where the value after the one at `(index, fld)` goes: the next field of a single entry, the same field of the
next index otherwise (12 R198). -/
def nextTarget (o : Object) (index fld : Nat) : Nat × Nat :=
  match o with
  | .config | .floor => (index, fld + 1)
  | .seats => if index = 64 then (index, fld + 1) else (index + 1, fld)
  | _ => (index + 1, fld)

/-- One value of a WRITE with the index and field it goes to. -/
structure Value where
  index : Nat
  fld   : Nat
  bytes : List Byte
  deriving DecidableEq, Repr

inductive Split
  | values (vs : List Value)
  | badValue
  | textRuns
  deriving DecidableEq, Repr

/-- Split the bytes after the field byte into values; `fuel` bounds the number of values. -/
def splitFrom (o : Object) : Nat → Nat → Nat → List Byte → Split
  | 0, _, _, bs => if bs.isEmpty then .values [] else .badValue
  | fuel + 1, index, fld, bs =>
    if bs.isEmpty then .values []
    else match valueShape o index fld with
      | none => .badValue
      | some parts =>
        match takeParts [] parts bs with
        | .short => .badValue
        | .textRuns => .textRuns
        | .value v rest =>
          let (index', fld') := nextTarget o index fld
          match splitFrom o fuel index' fld' rest with
          | .values vs => .values (⟨index, fld, v⟩ :: vs)
          | .badValue => .badValue
          | .textRuns => .textRuns

/-- The values of a WRITE to an object (12 R198). -/
def splitValues (o : Object) (index fld : Nat) (bs : List Byte) : Split := splitFrom o bs.length index fld bs

/-! ## Requests (10 R176, 12 section 12.2) -/

/-- A text of a WRITE runs past the operation's arguments, which makes the request malformed (12 R198). -/
def textRunsPast (obj : Byte) (index : BitVec 16) (fld : Byte) (vals : List Byte) : Bool :=
  match Object.ofCode obj.toNat with
  | none => false
  | some o => splitValues o index.toNat fld.toNat vals == .textRuns

/-- The operation of a code and its arguments, or none where the code names none or the length does not match. -/
def opOfArgs (code : Nat) (args : List Byte) : Option Op :=
  match code with
  | 0x01 =>
    if args.length = 5 then
      some (.read (byteAt args 0) (BitVec.ofNat 16 (field args 1 2)) (BitVec.ofNat 16 (field args 3 2)))
    else none
  | 0x02 =>
    if 5 ≤ args.length then
      let index := BitVec.ofNat 16 (field args 1 2)
      if textRunsPast (byteAt args 0) index (byteAt args 3) (args.drop 4) then none
      else some (.write (byteAt args 0) index (byteAt args 3) (args.drop 4))
    else none
  | 0x03 => flagOp .set
  | 0x04 => flagOp .clear
  | 0x05 => flagOp .toggle
  | 0x06 => if args.length = 2 then some (.readClear (byteAt args 0) (byteAt args 1)) else none
  | 0x07 =>
    match args with
    | [] => none
    | a :: rest => if actionFits a rest then some (.action a rest) else none
  | 0x08 => if args.length = 1 then some (.unlock (byteAt args 0)) else none
  | _ => none
where
  flagOp (k : FlagOp) : Option Op :=
    if args.length = 6 then
      some (.flags k (byteAt args 0) (BitVec.ofNat 16 (field args 1 2)) (byteAt args 3)
        (BitVec.ofNat 16 (field args 4 2)))
    else none

/-- Take `n` operations off the payload; none where one is ill formed or bytes remain after the last. -/
def parseOps : Nat → List Byte → Option (List Op)
  | 0, bs => if bs.isEmpty then some [] else none
  | n + 1, code :: len :: rest =>
    if rest.length < len.toNat then none
    else
      match opOfArgs code.toNat (rest.take len.toNat), parseOps n (rest.drop len.toNat) with
      | some op, some ops => some (op :: ops)
      | _, _ => none
  | _ + 1, _ => none

def Op.isRead : Op → Bool
  | .read .. | .readClear .. => true
  | _ => false

/-- The request a well-formed payload carries, or none for a malformed one (10 R176). -/
def parseRequest (payload : List Byte) : Option Hand :=
  if payload.length < 5 then none
  else
    match keyOf (field payload 2 1) with
    | none => none
    | some key =>
      let mode := field payload 3 1
      let count := field payload 4 1
      if 1 < mode ∨ count = 0 ∨ 16 < count then none
      else
        match parseOps count (payload.drop 5) with
        | none => none
        | some ops =>
          some { tag := BitVec.ofNat 16 (field payload 0 2), key := key, silent := mode = 1, total := count,
                 reads := (ops.filter Op.isRead).length, ops := ops, statuses := [], returned := [],
                 staged := false }

/-- The tag a MALFORMED reply carries (10 R176). -/
def malformedTag (payload : List Byte) : BitVec 16 :=
  if 2 ≤ payload.length then BitVec.ofNat 16 (field payload 0 2) else 0

/-- The reply mode can be read and is SILENT (10 R176). -/
def malformedSilent (payload : List Byte) : Bool := 4 ≤ payload.length && field payload 3 1 = 1

/-! ## Operations as bytes -/

/-- The arguments of an operation as a request carries them (12 Table 12-3). -/
def Op.args : Op → List Byte
  | .read obj first count => obj :: be16 first.toNat ++ be16 count.toNat
  | .write obj index fld vals => obj :: be16 index.toNat ++ fld :: vals
  | .flags _ obj index fld mask => obj :: be16 index.toNat ++ fld :: be16 mask.toNat
  | .readClear obj part => [obj, part]
  | .action code args => code :: args
  | .unlock v => [v]

def Op.opCode : Op → Nat
  | .read .. => 0x01
  | .write .. => 0x02
  | .flags .set .. => 0x03
  | .flags .clear .. => 0x04
  | .flags .toggle .. => 0x05
  | .readClear .. => 0x06
  | .action .. => 0x07
  | .unlock .. => 0x08

def Op.bytes (o : Op) : List Byte := be8 o.opCode ++ be8 o.args.length ++ o.args

/-- An operation that a request can carry: its argument bytes fit one length byte and its own code's length. -/
def Op.wellFormed : Op → Bool
  | .write obj index fld vals => 1 ≤ vals.length && vals.length ≤ 251 && !textRunsPast obj index fld vals
  | .action code args => args.length ≤ 254 && actionFits code args
  | _ => true

/-- A request payload with its operations (12 section 12.2). -/
def requestPayload (tag : BitVec 16) (key : Key) (silent : Bool) (ops : List Op) : List Byte :=
  be16 tag.toNat ++ be8 key.val ++ boolByte silent ++ be8 ops.length ++ ops.flatMap Op.bytes

end Sys2Proof.Machine
end

