-- ==== Sys2Proof/Config.lean ====
section
/-! DEFINITION. What the part fixes and the manual gives no value for. Opaque: no proof can see a value. -/

namespace Sys2Proof

/-- The factory identity less the lowest bit of its first byte, which is 0 because it is an individual
address (09 R165). The value is set when the part is made. Log 20. -/
opaque Config.factoryBits : BitVec 47

/-- The design level of the part, a number returned by IDENT (10 R189). Log 20. -/
opaque Config.designLevel : BitVec 16

end Sys2Proof
end

