-- ==== Sys2Proof/Machine/Defaults.lean ====
section
/-! DEFINITION. Power-on values and factory defaults of every block, as its chapter gives them. -/

namespace Sys2Proof.Machine

/-- A text from its characters. -/
def text (s : String) : Text := s.toList.map fun c => BitVec.ofNat 8 c.toNat

/-- 16 zero samples. -/
def silence : Block := Vector.replicate 16 0

/-- The station address at power-on (09 R165): the factory identity, an individual address. -/
def factoryIdentity : Addr :=
  (Config.factoryBits.extractLsb' 40 7 ++ (0 : BitVec 1)) ++ Config.factoryBits.extractLsb' 0 40

/-- 01 R4. -/
def WingPort.powerOn (carrier : Bool) : WingPort where
  state := .down
  carrier := carrier
  recorded := 0
  assigned := 0
  scanPos := 0
  command := .normal
  passCycle := 0
  passCount := none
  reports := Vector.replicate 32 none

/-- 01 R4, Table 1-8. -/
def PosRec.powerOn : PosRec where
  presence := .absent
  serial := none
  loss := 0
  statusValid := false
  card := none
  slot := .notTaken
  block := silence
  answer := none
  event := none

/-- 07 Table 7-1. -/
def LevelRec.powerOn : LevelRec where
  envelope := 0
  peaks := Vector.replicate 8 0
  meter := 0
  idle := 0
  clips := 0
  voiceStart := false
  voiceIdle := false
  fresh := false

/-- 02 R23. -/
def SeatRec.powerOn : SeatRec where
  participant := none
  classOverride := none
  seatMute := false
  spoke := false
  changed := false
  turnCount := 0
  total := 0
  lastTurn := 0
  limitOverride := none

/-- 02 R23. -/
def SeatTable.powerOn : SeatTable where
  recs := Vector.replicate 64 SeatRec.powerOn
  chair := 0
  sessionMute := false
  wingAMute := false
  wingBMute := false

def RoomTime.zero : RoomTime := ⟨0, 0, 0⟩

/-- 03 R43. -/
def Clock.powerOn : Clock where
  now := RoomTime.zero
  cycles := 0
  sync := .unsynced
  age := 0

def emptyRosters : Vector (Vector (Option RosterEntry) 64) 8 :=
  Vector.replicate 8 (Vector.replicate 64 none)

/-- 03 R51, R65, R66 with the stored bookings and rosters. -/
def Calendar.powerOn (bookings : List Booking) (rosters : Vector (Vector (Option RosterEntry) 64) 8) : Calendar where
  bookings := bookings
  rosters := rosters
  session := .vacant
  actualStart := RoomTime.zero
  actualEnd := RoomTime.zero
  graceEnd := none
  endCause := none
  stepPending := false
  tally := Vector.replicate 8 0
  lastReport := none

/-- 04 Table 4-1. -/
def Floor.powerOn : Floor where
  mode := .openFloor
  maxOpen := 4
  openList := []
  queue := []
  blocked := Vector.replicate 64 false
  seen := Vector.replicate 64 false

/-- 05 R98. -/
def MicRec.powerOn : MicRec where
  state := .closed
  gap := 0
  timer := 0
  cycles := 0
  warning := false
  overMark := false
  flash := 0
  queued := false
  cycleOpen := false
  cycleDuck := .none

def MicBlock.powerOn : MicBlock where
  recs := Vector.replicate 64 MicRec.powerOn
  speakLimit := 0
  limitAction := .warn

/-- The position one above (towards the head) and one below `p` on the same wing, where they exist
(06 Table 6-3), in slots 0 and 1. The table names the positions and not their slots (log 49). -/
def defaultNeighbours (p : Pos) : Vector (Option Pos) 4 :=
  #v[if p.val % 32 = 0 then none else some (p - 1),
     if p.val % 32 = 31 then none else some (p + 1), none, none]

/-- 06 Table 6-3. -/
def MixTables.default : MixTables where
  gin := Vector.replicate 64 4096
  gout := Vector.replicate 64 4096
  duckOwn := 0
  duckNear := 1024
  returnGain := 4096
  sendGain := 4096
  neighbours := Vector.ofFn defaultNeighbours

/-- 06 R124 with the restored tables. -/
def MixBlock.powerOn (tables : MixTables) : MixBlock where
  live := tables
  staged := tables
  image := none
  pending := false
  due := false
  outClips := Vector.replicate 64 0
  sendClips := 0
  roomSend := false
  cycleLive := tables
  cycleChair := 0
  cycleReturn := silence

/-- 08 Table 8-3. -/
def defaultTemplate (i : Fin 20) : Text :=
  match i.val with
  | 0 => text "ROOM FREE|^C"
  | 1 => text "NEXT: ^B|STARTS SOON     ^C"
  | 2 => text "^N ^P|^T Q^Q ^M"
  | 3 => text "CHAIR ^N|^T Q^L END ^E"
  | 4 => text "^N|LISTEN ONLY    ^C"
  | 5 => text "GUEST ^N|^T Q^Q ^M"
  | 16 => text "^B|UNTIL ^E      NOW ^C|FLOOR: ^R|QUEUE: ^W"
  | _ => []

def defaultTemplates : Vector Text 20 := Vector.ofFn defaultTemplate

/-- 08 R145. -/
def Delivery.powerOn : Delivery where
  known := none
  transfer := none
  carried := false

/-- A room screen entry as a restore or an accepted write leaves it (08 R145, R159). -/
def Screen.fresh (addr : Option Addr) (template : Fin 4) : Screen where
  addr := addr
  template := template
  lastSent := none
  pending := false
  window := 0
  waiting := false

/-- Every room screen entry off (08 R145); its template is 16 (log 28). -/
def defaultScreens : Vector (Option Addr × Fin 4) 4 := Vector.replicate 4 (none, 0)

/-- 08 R145 with the restored templates and screen entries. -/
def Display.powerOn (templates : Vector Text 20) (screens : Vector (Option Addr × Fin 4) 4) : Display where
  templates := templates
  messages := Vector.replicate 64 none
  delivery := Vector.replicate 64 Delivery.powerOn
  screens := mapAll screens fun _ e => Screen.fresh e.1 e.2

/-- 09 R174. -/
def LinkCounters.zero : LinkCounters := ⟨0, 0, 0, 0, 0, 0, 0, 0, 0, 0, 0, 0⟩

/-- 09 R165, R166, R169, R170–R174 with the restored groups and destinations. -/
def Link.powerOn (groups : Vector (Option Addr) 4) (noticeDest audioDest : Option Addr) : Link where
  station := factoryIdentity
  groups := groups
  noticeDest := noticeDest
  audioDest := audioDest
  learnt := false
  expected := 0
  buffer := []
  outCounter := 0
  queue := []
  begun := false
  held := []
  line := []
  lastAdmitted := 3
  up := false
  counters := LinkCounters.zero

/-- 10 R175. -/
def Mgmt.powerOn : Mgmt where
  requests := []
  engine := .idle
  unlocked := false
  stagger := 0
  dropped := 0
  malformed := 0
  hand := none
  reply := none
  restart := .none

/-- The CONFIG defaults (03 R51, 04 Table 4-1, 05 R111, 06 Table 6-5, 07 Table 7-2, 08 Table 8-4). -/
def Settings.default : Settings where
  lead := 5
  replace := false
  autoAdvance := true
  clearQueue := false
  sendIdle := false
  autoCommit := false
  openGap := 2
  closeGap := 40
  warnTime := 30
  kAtt := 64
  kRel := 8
  openThr := 2000
  closeThr := 1000
  hold := 400
  idlePage := 0
  armedPage := 1
  delegatePage := 2
  chairPage := 3
  observerPage := 4
  guestPage := 5

/-- The factory defaults in the form of an image (11 R194 step 1). -/
def Image.factory : Image where
  cfg := Settings.default
  bookings := []
  rosters := emptyRosters
  templates := defaultTemplates
  screens := defaultScreens
  groups := Vector.replicate 4 none
  noticeDest := none
  audioDest := none
  mix := MixTables.default
  generation := 0

/-- 11 R193, R194: the store after power-on, by whether it found a current image. -/
def Store.powerOn (areaA areaB : Option Image) (found : Bool) : Store where
  areaA := areaA
  areaB := areaB
  writing := none
  lastResult := none
  source := if found then .image else .defaults
  storeInvalid := !found
  halted := false

/-- A downstream slot with a silent block, indicator off, no chunk and loudspeaker enable off (01 R12). -/
def DownSlot.silent : DownSlot := ⟨silence, some ⟨.off, none, false⟩⟩

def Outputs.powerOn : Outputs where
  down := Vector.replicate 64 DownSlot.silent
  audioOut := none

end Sys2Proof.Machine
end

