-- ==== Sys2Proof/Machine/State.lean ====
section
/-! DEFINITION. The state of the part, block by block, the reasons a step can stop (none), and the state after reset. -/

namespace Sys2Proof.Machine

/-- Everything the manual gives the part to hold, with the queue of commands that are waiting. -/
structure State where
  /-- The part has power (11 R192, POWER_LOSS). -/
  powered : Bool
  wingA   : WingPort
  wingB   : WingPort
  pos     : Vector PosRec 64
  level   : Vector LevelRec 64
  seats   : SeatTable
  clock   : Clock
  cal     : Calendar
  floor   : Floor
  mic     : MicBlock
  mix     : MixBlock
  disp    : Display
  link    : Link
  mgmt    : Mgmt
  cfg     : Settings
  store   : Store
  out     : Outputs
  /-- Boundary steps already taken by their own command (log 2). The model's own field. -/
  early   : List Early
  /-- Commands that are waiting, the front one first. -/
  pending : List Instr
  deriving DecidableEq, Repr

/-- The manual names nothing that stops the part, so a step never faults. -/
inductive Fault
  deriving DecidableEq, Repr

/-- Why a command is refused. Safe: the model stops where the part goes on. -/
inductive Refusal
  /-- Raised by the dispatcher for a command that has no meaning yet. No command is left without one. -/
  | notModelled (mnemonic : String)
  deriving DecidableEq, Repr

/-- What a step can answer. -/
abbrev Result := Host.Outcome State Fault Refusal

/-- Power-on values of every block (11 R194), from an image to restore, the two store areas and the carriers. -/
def State.fromImage (img : Image) (found : Bool) (areaA areaB : Option Image) (carrierA carrierB : Bool) : State where
  powered := true
  wingA := WingPort.powerOn carrierA
  wingB := WingPort.powerOn carrierB
  pos := Vector.replicate 64 PosRec.powerOn
  level := Vector.replicate 64 LevelRec.powerOn
  seats := SeatTable.powerOn
  clock := Clock.powerOn
  cal := Calendar.powerOn img.bookings img.rosters
  floor := Floor.powerOn
  mic := MicBlock.powerOn
  mix := MixBlock.powerOn img.mix
  disp := Display.powerOn img.templates img.screens
  link := Link.powerOn img.groups img.noticeDest img.audioDest
  mgmt := Mgmt.powerOn
  cfg := img.cfg
  store := Store.powerOn areaA areaB found
  out := Outputs.powerOn
  early := []
  pending := []

/-- The part after reset with a store that was never written and no carrier (11 R194; log 19, log 21). -/
def State.reset : State := State.fromImage Image.factory false none none false false

end Sys2Proof.Machine
end

