-- ==== Sys2Proof/Machine/Flags.lean ====
section
/-! DEFINITION. Everything the blocks derive from what is held: the two seat numberings, class, key, permission, mutes,
limits, indicator, duck class, room on the floor, and the bookings' windows. -/

namespace Sys2Proof.Machine

/-! ## Wings and positions -/

def wingOf (p : Pos) : Wing := if p.val < 32 then .a else .b

/-- The physical number of position `i` of a wing (01 R1). -/
def wingPos (w : Wing) (i : Fin 32) : Pos :=
  match w with
  | .a => ⟨i.val, by omega⟩
  | .b => ⟨32 + i.val, by omega⟩

/-- A position's place on its wing. -/
def place (p : Pos) : Fin 32 := ⟨p.val % 32, by omega⟩

def State.wing (s : State) : Wing → WingPort
  | .a => s.wingA
  | .b => s.wingB

def State.setWing (s : State) (w : Wing) (f : WingPort → WingPort) : State :=
  match w with
  | .a => { s with wingA := f s.wingA }
  | .b => { s with wingB := f s.wingB }

/-- RUNNING or DEGRADED. -/
def WingPort.inUse (w : WingPort) : Bool := w.state = .running || w.state = .degraded

def State.present (s : State) (p : Pos) : Bool := s.pos[p].presence = .present

/-- PRESENT on a wing that is RUNNING or DEGRADED: slots, events and blocks of the position are taken
(01 R18, 06 R114, 07 R135). -/
def State.live (s : State) (p : Pos) : Bool := s.present p && (s.wing (wingOf p)).inUse

/-! ## The chair swap (02 R35) -/

def swapSeat (c n : Fin 64) : Fin 64 := if n = 0 then c else if n = c then 0 else n

/-- The physical number of a logical seat. -/
def State.phys (s : State) (seat : Seat) : Pos := swapSeat s.seats.chair seat

/-- The logical seat of a physical number: the same mapping (02 R35). -/
def State.logical (s : State) (p : Pos) : Seat := swapSeat s.seats.chair p

/-- The record the mapping gives for a logical seat. -/
def State.seatRec (s : State) (seat : Seat) : SeatRec := s.seats.recs[s.phys seat]

/-! ## Bookings (03) -/

/-- The first minute after the window (03 section 3.2). Exact numbers, with no wrap (log 25). -/
def Booking.finish (b : Booking) : Nat := b.start + b.duration

def State.activeBooking (s : State) : Option Booking := s.cal.bookings.find? (·.active)

def waitingOf (bs : List Booking) : List Booking := bs.filter (!·.active)

/-- The earliest WAITING record (03 R47). -/
def State.nextBooking (s : State) : Option Booking := (waitingOf s.cal.bookings).head?

/-- Two half-open windows share a minute (03 R48 check 6). -/
def sharesMinute (s1 e1 s2 e2 : Nat) : Bool := max s1 s2 < min e1 e2

/-- A session is active (02 R27). -/
def Session.isActive : Session → Bool
  | .inSession | .grace | .closing => true
  | _ => false

/-- IN_SESSION or GRACE. -/
def Session.runs : Session → Bool
  | .inSession | .grace => true
  | _ => false

/-! ## Key, class and permission (02 R26–R30) -/

/-- 02 R26. -/
def State.keyAt (s : State) (p : Pos) : Option Key :=
  match s.pos[p].statusValid, s.pos[p].card with
  | true, some k => some k
  | _, _ =>
    match s.seats.recs[p].participant with
    | some m => some (if m.role = .guest then 15 else m.key)
    | none => none

def Role.toClass : Role → SeatClass
  | .delegate => .delegate | .chair => .chair | .observer => .observer | .guest => .guest

/-- 02 R27: the computed class. -/
def State.computedClassAt (s : State) (p : Pos) : SeatClass :=
  if s.cal.session.isActive ∧ s.logical p = 0 then .chair
  else match s.seats.recs[p].participant with
    | some m => m.role.toClass
    | none => .vacant

/-- 02 R27: the override if one is present, the computed class otherwise. -/
def State.classAt (s : State) (p : Pos) : SeatClass :=
  s.seats.recs[p].classOverride.getD (s.computedClassAt p)

/-- 02 R29. -/
def State.permittedAt (s : State) (p : Pos) : Bool :=
  match s.cal.session.isActive, s.activeBooking with
  | true, some b =>
    s.classAt p ≠ .observer &&
      (match s.keyAt p with
       | none => b.key = 0
       | some k => k = 0 || b.key = 0 || k = b.key || (k = 15 && b.guestAdmit))
  | _, _ => false

def State.classOf (s : State) (seat : Seat) : SeatClass := s.classAt (s.phys seat)

def State.permitted (s : State) (seat : Seat) : Bool := s.permittedAt (s.phys seat)

/-- 02 R30. -/
def State.answer (s : State) (seat : Seat) : Answer :=
  if s.pos[s.phys seat].presence = .absent ∨ s.pos[s.phys seat].statusValid = false then .notReady
  else if s.classOf seat = .observer then .listenOnly
  else if s.permitted seat = false then .notPermitted
  else .admitted

/-- The reason an answer other than ADMITTED gives (04 R74 check 4). -/
def Answer.refusal : Answer → Option Refuse
  | .notReady => some .notReady
  | .listenOnly => some .listenOnly
  | .notPermitted => some .notPermitted
  | .admitted => none

/-! ## Mutes and limits (02 R34, R40, 05 R105) -/

def State.wingMute (s : State) : Wing → Bool
  | .a => s.seats.wingAMute
  | .b => s.seats.wingBMute

/-- 02 R34. -/
def State.muted (s : State) (seat : Seat) : Bool :=
  s.seats.sessionMute || s.wingMute (wingOf (s.phys seat)) || (s.seatRec seat).seatMute

/-- 02 R40: the limit in force, from the record's override or the participant's. -/
def SeatRec.limitInForce (r : SeatRec) : Option Nat :=
  match r.limitOverride with
  | some l => some l
  | none => match r.participant with
    | some m => m.limit
    | none => none

/-- 05 R105: the limit L that applies to a seat's turn, or none. The session limit of a session that has ended stays
until the next start (log 45). -/
def State.limitOf (s : State) (seat : Seat) : Option Nat :=
  if s.classOf seat = .chair then none
  else
    let l := (s.seatRec seat).limitInForce.getD s.mic.speakLimit
    if l = 0 then none else some l

/-- 05 R105: the warn point and the limit point on the turn timer, in tenths. -/
def State.warnPoint (s : State) (l : Nat) : Nat := (l - s.cfg.warnTime) * 10
def limitPoint (l : Nat) : Nat := l * 10

/-! ## Microphones (05) -/

def State.micOf (s : State) (seat : Seat) : MicRec := s.mic.recs[seat]

/-- Every microphone is CLOSED (05 R110). -/
def State.allClosed (s : State) : Bool := (numbers 64).all fun i => s.mic.recs[i].state = .closed

/-- 05 R108. -/
def State.indicator (s : State) (seat : Seat) : Indicator :=
  let m := s.micOf seat
  if 0 < m.flash then .refusal
  else if m.state = .opened ∧ (m.warning ∨ m.overMark) then .redFast
  else if m.state = .opening ∨ m.state = .opened then (if s.muted seat then .redSlow else .red)
  else if m.queued then .green
  else .off

/-- 05 R103, with the neighbour table given. -/
def State.duckClass (s : State) (neighbours : Vector (Vector (Option Pos) 4) 64) (seat : Seat) : DuckClass :=
  if (s.micOf seat).state ≠ .closed then .own
  else if (numbers 64).any fun t =>
      (s.micOf t).state ≠ .closed && (neighbours[s.phys t]).toList.contains (some (s.phys seat)) then .near
  else .none

/-! ## Room on the floor (04 R68) -/

def State.holds (s : State) (seat : Seat) : Bool := s.floor.openList.any (·.seat = seat)

def State.queued (s : State) (seat : Seat) : Bool := s.floor.queue.any (·.seat = seat)

/-- The number of non-chair entries of the open list. -/
def State.nonChair (s : State) : Nat :=
  (s.floor.openList.filter fun e => s.classOf e.seat ≠ .chair).length

/-- There is room for a seat (04 R68). -/
def State.room (s : State) (seat : Seat) : Bool :=
  s.floor.openList.length < 8 && (s.classOf seat = .chair || s.nonChair < s.floor.maxOpen)

/-- The oldest non-chair entry's seat. -/
def State.oldestNonChair (s : State) : Option Seat :=
  (s.floor.openList.find? fun e => s.classOf e.seat ≠ .chair).map (·.seat)

/-- A seat's place in the queue counted from 1, or none (04 R69). -/
def State.queuePosition (s : State) (seat : Seat) : Option Nat :=
  (s.floor.queue.findIdx? (·.seat = seat)).map (· + 1)

/-! ## Voice conditions as handed on in a cycle (07 R139, R140) -/

/-- The conditions stand on a wing that is RUNNING, DEGRADED or ENUMERATING, for a PRESENT position whose level state
has not been set to 0 since its last block (07 R139, R141, R142; log 27). -/
def State.voiceStands (s : State) (p : Pos) : Bool :=
  s.present p && (s.wing (wingOf p)).state ≠ .down && s.level[p].fresh

def State.voiceStart (s : State) (seat : Seat) : Bool :=
  s.voiceStands (s.phys seat) && s.level[s.phys seat].voiceStart

def State.voiceIdle (s : State) (seat : Seat) : Bool :=
  s.voiceStands (s.phys seat) && s.level[s.phys seat].voiceIdle

def State.envelope (s : State) (seat : Seat) : Nat := s.level[s.phys seat].envelope

/-! ## Time -/

/-- Earlier than, minute first, then second, then tenth (03 R44). -/
def RoomTime.before (a b : RoomTime) : Bool :=
  a.minute < b.minute || (a.minute = b.minute && (a.second < b.second || (a.second = b.second && a.tenth < b.tenth)))

end Sys2Proof.Machine
end

