-- ==== Sys2Proof/Machine/Render.lean ====
section
/-! DEFINITION. Pages and renderings of the seat displays and room screens (08 R146, R149–R151, R158). A rendering is
always made from the values as they stand (08 R152), so it is a function of the state (log 9). -/

namespace Sys2Proof.Machine

def space : Byte := 0x20
def spaces (n : Nat) : Text := List.replicate n space

/-- A text at the left of its width, cut and filled with spaces (08 R149). -/
def fitLeft (w : Nat) (t : Text) : Text := (t.take w) ++ spaces (w - t.length)

def digit (n : Nat) : Byte := BitVec.ofNat 8 (48 + n % 10)

def twoDigits (n : Nat) : Text := [digit (n / 10), digit n]

/-- A number below 100 at the right of two characters, without leading zeros (08 R149). -/
def numberIn2 (n : Nat) : Text := if n < 10 then [space, digit n] else twoDigits n

/-- mm:ss or hh:mm with the given middle character. -/
def pair (a : Nat) (mid : Byte) (b : Nat) : Text := twoDigits a ++ mid :: twoDigits b

def colon : Byte := 0x3A

/-- A room minute as time of day hh:mm (03 R43, 08 R150). -/
def timeOfDay (minute : Nat) : Text := pair (minute % 1440 / 60) colon (minute % 60)

def noTime : Text := text "--:--"

/-! ## Field texts (08 Table 8-5) -/

/-- The participant's name, or "SEAT " and two digits (08 ^N, 02 R25), before it is put into a width. -/
def State.nameOf (s : State) (seat : Seat) : Text :=
  match (s.seatRec seat).participant with
  | some m => m.name
  | none => text "SEAT " ++ twoDigits seat.val

def joinNames : List Text → Text
  | [] => []
  | [t] => t
  | t :: ts => t ++ text ", " ++ joinNames ts

/-- 08 R151. -/
def State.turnField (s : State) (seat : Seat) : Text :=
  let m := s.micOf seat
  if m.state ≠ .opened then noTime
  else
    let seconds := match s.limitOf seat with
      | some l => (limitPoint l - m.timer + 9) / 10
      | none => m.timer / 10
    let mid : Byte := if m.warning || m.overMark then 0x21 else colon
    if 6000 ≤ seconds then pair 99 mid 59 else pair (seconds / 60) mid (seconds % 60)

/-- 08 ^E. -/
def State.endField (s : State) : Text :=
  match s.cal.session with
  | .inSession => match s.activeBooking with
    | some b => timeOfDay b.finish
    | none => noTime
  | .grace => match s.cal.graceEnd with
    | some g => timeOfDay g
    | none => noTime
  | .armed => match s.nextBooking with
    | some b => timeOfDay b.finish
    | none => noTime
  | _ => noTime

/-- 08 ^B, before it is put into its width. -/
def State.titleField (s : State) : Text :=
  match s.cal.session with
  | .inSession | .grace | .closing => (s.activeBooking.map (·.title)).getD []
  | .armed => (s.nextBooking.map (·.title)).getD []
  | .vacant => []

/-- The field codes valid in both kinds: S, L, C, E, B. -/
def State.fieldBoth (s : State) (code : Byte) : Option Text :=
  match code.toNat with
  | 0x53 => some (fitLeft 12 (match s.floor.openList.getLast? with
      | some e => s.nameOf e.seat
      | none => []))
  | 0x4C => some (numberIn2 s.floor.queue.length)
  | 0x43 => some (timeOfDay s.clock.now.minute)
  | 0x45 => some s.endField
  | 0x42 => some (fitLeft 24 s.titleField)
  | _ => none

/-- The field codes of templates 0–15: N, P, Q, T, M, and those of both kinds. -/
def State.fieldSeat (s : State) (seat : Seat) (code : Byte) : Option Text :=
  match code.toNat with
  | 0x4E => some (fitLeft 12 (s.nameOf seat))
  | 0x50 => some (numberIn2 seat.val)
  | 0x51 => some (match s.queuePosition seat with
      | some n => numberIn2 n
      | none => spaces 2)
  | 0x54 => some (s.turnField seat)
  | 0x4D => some (fitLeft 8 (List.replicate (s.level[s.phys seat].meter / 4096) 0x23))
  | _ => s.fieldBoth code

/-- The field codes of templates 16–19: R, W, and those of both kinds. -/
def State.fieldRoom (s : State) (code : Byte) : Option Text :=
  match code.toNat with
  | 0x52 => some (fitLeft 32 (joinNames (s.floor.openList.map fun e => s.nameOf e.seat)))
  | 0x57 => some (fitLeft 32 (joinNames ((s.floor.queue.take 3).map fun e => s.nameOf e.seat)))
  | _ => s.fieldBoth code

/-! ## Rendering a source (08 R149) -/

def caret : Byte := 0x5E
def bar : Byte := 0x7C
def question : Byte := 0x3F

/-- The lines a source gives, before they are cut or filled. `left` is how many lines may still be begun, `cur` the
current line so far. -/
def renderLines (field : Byte → Option Text) : Nat → Text → Text → List Text
  | _, cur, [] => [cur]
  | left, cur, c :: rest =>
    if c = bar then
      match left with
      | 0 => [cur]
      | left' + 1 => cur :: renderLines field left' [] rest
    else if c = caret then
      match rest with
      | [] => [cur ++ [question]]
      | d :: rest' =>
        if d = caret then renderLines field left (cur ++ [caret]) rest'
        else match field d with
          | some t => renderLines field left (cur ++ t) rest'
          | none => renderLines field left (cur ++ [question]) rest'
    else renderLines field left (cur ++ [c]) rest

/-- The rendering of `lines` lines of `width` characters. -/
def render (field : Byte → Option Text) (lines width : Nat) (source : Text) : List Text :=
  let ls := renderLines field (lines - 1) [] source
  (List.range lines).map fun i => fitLeft width (ls.getD i [])

/-! ## Pages (08 R146) -/

/-- The page a seat would have without a message. -/
def State.basePage (s : State) : Page :=
  match s.cal.session with
  | .inSession | .grace => .session
  | .armed => .armed
  | _ => .idle

def State.page (s : State) (seat : Seat) : Page :=
  if s.disp.messages[seat].isSome then .message else s.basePage

/-- The seat template of the page a seat would have without a message. -/
def State.pageTemplate (s : State) (seat : Seat) : Fin 16 :=
  match s.basePage with
  | .session => match s.classOf seat with
    | .chair => s.cfg.chairPage
    | .observer => s.cfg.observerPage
    | .guest => s.cfg.guestPage
    | .delegate | .vacant => s.cfg.delegatePage
  | .armed => s.cfg.armedPage
  | _ => s.cfg.idlePage

def State.pageLines (s : State) (seat : Seat) : List Text :=
  render (s.fieldSeat seat) 2 24 (s.disp.templates[(s.pageTemplate seat).val])

/-- Line 1 under a message at its step (08 R158). -/
def Message.line (m : Message) : Text :=
  ((spaces 24 ++ m.text ++ spaces 24).drop m.step).take 24

/-- A seat's rendering: 48 characters, line 1 first (08 R149, R158). -/
def State.rendering (s : State) (seat : Seat) : Text :=
  match s.disp.messages[seat] with
  | none => (s.pageLines seat).flatten
  | some m => fitLeft 24 m.line ++ (s.pageLines seat).getD 1 (spaces 24)

/-- A room screen entry's rendering: 128 characters (08 R160). -/
def State.screenText (s : State) (template : Fin 4) : Text :=
  (render s.fieldRoom 4 32 (s.disp.templates[16 + template.val])).flatten

end Sys2Proof.Machine
end

