-- ==== Sys2Proof/Machine/Ops.lean ====
section
/-! DEFINITION. The shared operations: offering notices and screen frames, moving a microphone, the changes of the
floor's two collections, the session's start and end, and the calendar's evaluation. -/

namespace Sys2Proof.Machine

/-! ## Notices (09 R171, R172) -/

/-- Offer a NOTICE: not built without a notice destination, dropped and counted at a full queue. -/
def Link.offerNotice (l : Link) (kind : Nat) (body : List Byte) : Link :=
  match l.noticeDest with
  | none => l
  | some d =>
    if l.queue.length < 8 then
      { l with queue := l.queue ++ [⟨d, l.station, .notice, be8 kind ++ body⟩] }
    else { l with counters := { l.counters with noticesDropped := satAdd l.counters.noticesDropped 1 } }

def State.notice (s : State) (kind : Nat) (body : List Byte) : State :=
  { s with link := s.link.offerNotice kind body }

/-- A room time, six bytes (12 R199). -/
def timeBytes (t : RoomTime) : List Byte := be32 t.minute ++ be8 t.second ++ be8 t.tenth

/-! ## Room screens (08 R160, 09 R172) -/

def State.setScreen (s : State) (e : Fin 4) (f : Screen → Screen) : State :=
  { s with disp := { s.disp with screens := modify s.disp.screens e f } }

/-- The SCREEN payload of an entry with a text (12 Table 12-2). -/
def screenPayload (e : Fin 4) (t : Text) : List Byte := be8 e.val ++ t

/-- An entry's frame enters the transmit queue, built with the entry's rendering: that text becomes the last sent
text and a window of 200 cycles begins. -/
def State.admitScreen (s : State) (e : Fin 4) : State :=
  match s.disp.screens[e].addr with
  | none => s
  | some a =>
    let t := s.screenText s.disp.screens[e].template
    { s.setScreen e fun sc => { sc with lastSent := some t, pending := false, window := 200, waiting := false } with
      link := { s.link with queue := s.link.queue ++ [⟨a, s.link.station, .screen, screenPayload e t⟩] } }

/-- An entry hands a SCREEN frame: it enters the queue, or waits in its entry when the queue is full. -/
def State.offerScreen (s : State) (e : Fin 4) : State :=
  if s.link.queue.length < 8 then s.admitScreen e
  else s.setScreen e fun sc => { sc with pending := false, waiting := true }

/-- The rendering of an entry that is on, compared with its last sent text (08 R160). -/
def State.refreshScreen (s : State) (e : Fin 4) : State :=
  let sc := s.disp.screens[e]
  if sc.addr.isNone || sc.waiting then s
  else
    let differs := sc.lastSent != some (s.screenText sc.template)
    if 0 < sc.window then s.setScreen e fun sc => { sc with pending := differs }
    else if differs then s.offerScreen e else s

/-- Every room screen entry renders again (08 R152), and those that changed hand their frames in increasing number, 0 to 3
(log 17, DESIGN CHOICE). -/
def State.refreshScreens (s : State) : State := (numbers 4).foldl State.refreshScreen s

/-! ## The transmit line (09 R170, R171) -/

/-- The sending of the head of the queue begins, while the link is UP and no queued frame is being sent (log 23). -/
def Link.startSending (l : Link) : Link :=
  match l.queue with
  | f :: _ => if l.up && !l.begun then { l with begun := true, line := l.line ++ [f] } else l
  | [] => l

/-- While a restart is due no queued frame begins to be sent: the reply to RESTART, and the frames ahead of it, are sent
after the restart takes effect (09 R171; log 5). -/
def State.startSending (s : State) : State :=
  match s.mgmt.restart with
  | .due _ => s
  | .none | .scheduled => { s with link := s.link.startSending }

/-! ## Microphones (05 R99–R101, R104) -/

def State.setMic (s : State) (seat : Seat) (f : MicRec → MicRec) : State :=
  { s with mic := { s.mic with recs := modify s.mic.recs seat f } }

def State.setRec (s : State) (p : Pos) (f : SeatRec → SeatRec) : State :=
  { s with seats := { s.seats with recs := modify s.seats.recs p f } }

/-- The turn's capture into the seat record (05 R104). -/
def SeatRec.capture (timer : Nat) (r : SeatRec) : SeatRec :=
  { r with lastTurn := timer, total := satAdd r.total timer, turnCount := satAdd r.turnCount 1 }

/-- The microphone leaves OPEN: the timer returns to 0 and stops, the marks become no. -/
def MicRec.endTurn (m : MicRec) : MicRec := { m with timer := 0, cycles := 0, warning := false, overMark := false }

/-- If the seat is OPEN its turn is captured; otherwise nothing. -/
def State.leaveOpen (s : State) (seat : Seat) : State :=
  if (s.micOf seat).state = .opened then
    (s.setRec (s.phys seat) (SeatRec.capture (s.micOf seat).timer)).setMic seat MicRec.endTurn
  else s

/-- 05 R99: a grant moves the microphone to OPENING with the open gap loaded. -/
def State.micGrant (s : State) (seat : Seat) : State :=
  s.setMic seat fun m => { m with state := .opening, gap := s.cfg.openGap }

/-- 05 R100: a removal moves OPENING or OPEN to CLOSING with the close gap loaded. -/
def State.micRemove (s : State) (seat : Seat) : State :=
  match (s.micOf seat).state with
  | .opening | .opened => (s.leaveOpen seat).setMic seat fun m => { m with state := .closing, gap := s.cfg.closeGap }
  | _ => s

/-- 05 R101: the microphone goes to CLOSED at once, from any state. -/
def State.micClose (s : State) (seat : Seat) : State :=
  (s.leaveOpen seat).setMic seat fun m => { m with state := .closed, gap := 0 }

/-! ## FLOOR and REFUSED notices (04 R75, R96; 12 Table 12-5) -/

/-- The events of a FLOOR notice, in code order. -/
inductive FloorEvent
  | grant | remove | enqueue | withdraw | queueCleared
  deriving DecidableEq, Repr

def FloorEvent.code : FloorEvent → Nat
  | .grant => 0 | .remove => 1 | .enqueue => 2 | .withdraw => 3 | .queueCleared => 4

/-- An absent one-byte value, all ones (12 R198). -/
def noByte : Nat := 0xFF

/-- A change of the floor is handed on: the composer renders the room screens, then the FLOOR notice is offered
(04 R73; log 17). -/
def State.floorChange (s : State) (seat : Nat) (ev : FloorEvent) (reason source last : Nat) : State :=
  s.refreshScreens.notice 0x01 (be8 seat ++ be8 ev.code ++ be8 reason ++ be8 source ++ be8 last)

/-- A seat refusal: the flash, the REFUSED notice and the tally, in that order (04 R75). -/
def State.refuse (s : State) (seat : Seat) (r : Refuse) (k : PressKind) : State :=
  let s1 := s.setMic seat fun m => { m with flash := 2000 }
  let s2 := s1.notice 0x02 (be8 seat.val ++ be8 r.status.code ++ be8 k.code)
  { s2 with cal := { s2.cal with tally := modify s2.cal.tally r.index fun n => satAdd n 1 } }

/-! ## The open list and the request queue (04 R68, R69, R73) -/

def State.setFloor (s : State) (f : Floor → Floor) : State := { s with floor := f s.floor }

/-- The seat leaves the queue: its entry goes and its queued mark becomes no. -/
def State.dequeue (s : State) (seat : Seat) : State :=
  if s.queued seat then
    (s.setFloor fun f => { f with queue := f.queue.filter (·.seat ≠ seat) }).setMic seat
      fun m => { m with queued := false }
  else s

/-- A grant: the seat leaves the queue if it is there, joins the end of the open list, its microphone opens and one
GRANT notice is offered (04 R68, R73, R96). -/
def State.grantSeat (s : State) (seat : Seat) (source : Source) : State :=
  let s1 := s.dequeue seat
  let s2 := s1.setFloor fun f => { f with openList := f.openList ++ [⟨seat, s.clock.now, source⟩] }
  (s2.micGrant seat).floorChange seat.val .grant noByte source.code noByte

/-- The reasons whose removal in VOICE mode sets the voice-blocked mark (04 R81). -/
def Reason.blocks : Reason → Bool
  | .released | .revoked | .priority | .replaced | .maxReduced | .limit => true
  | _ => false

/-- LOST and HALTED close the microphone at once (04 R73, 05 R101). -/
def Reason.atOnce : Reason → Bool
  | .lost | .halted => true
  | _ => false

/-- A removal from the open list, without what follows from an empty list (04 R71, R73, R81). -/
def State.removeCore (s : State) (seat : Seat) (reason : Reason) : State :=
  match s.floor.openList.find? (·.seat = seat) with
  | none => s
  | some e =>
    let s1 := s.setFloor fun f =>
      { f with openList := f.openList.filter (·.seat ≠ seat),
               blocked := if f.mode = .voice && reason.blocks then f.blocked.set seat true else f.blocked }
    let s2 := if reason.atOnce then s1.micClose seat else s1.micRemove seat
    s2.floorChange seat.val .remove reason.code e.source.code noByte

/-- One entry leaves the queue without a grant: event WITHDRAW (04 R96). -/
def State.withdraw (s : State) (seat : Seat) (reason : Reason) : State :=
  match s.floor.queue.find? (·.seat = seat) with
  | none => s
  | some e => (s.dequeue seat).floorChange seat.val .withdraw reason.code e.source.code noByte

/-- A new entry at the tail of the queue: event ENQUEUE (04 R69, R78). -/
def State.enqueue (s : State) (seat : Seat) (source : Source) : State :=
  let s1 := s.setFloor fun f =>
    { f with queue := f.queue ++ [⟨seat, s.clock.now.minute, s.clock.now.second, source⟩] }
  (s1.setMic seat fun m => { m with queued := true }).floorChange seat.val .enqueue noByte source.code
    (s.floor.queue.length + 1)

/-- The queued marks of several seats become no. -/
def State.unqueueAll (s : State) (l : List QueueEntry) : State :=
  l.foldl (fun s e => s.setMic e.seat fun m => { m with queued := false }) s

/-- A whole-queue clear, with one QUEUE_CLEARED notice and the number of entries removed (04 R87, R96; log 16). -/
def State.clearQueue (s : State) (reason : Reason) : State :=
  ((s.unqueueAll s.floor.queue).setFloor fun f => { f with queue := [] }).floorChange noByte .queueCleared reason.code noByte
    s.floor.queue.length

/-- The conditions under which an auto-advance check grants the head (04 R79). -/
def State.mayAdvance (s : State) (head : Seat) : Bool :=
  s.cfg.autoAdvance && s.cal.session = .inSession && !s.store.halted &&
    (s.classOf head = .chair || s.nonChair < s.floor.maxOpen) && s.room head

/-- The check, made again after each grant (04 R79); each grant takes the head out of the queue, so `fuel` is the
length of the queue. -/
def State.advanceLoop : Nat → State → State
  | 0, s => s
  | fuel + 1, s =>
    match s.floor.queue with
    | [] => s
    | e :: _ => if s.mayAdvance e.seat then advanceLoop fuel (s.grantSeat e.seat .queue) else s

/-- An auto-advance check, made in QUEUE mode only (04 R79). -/
def State.autoAdvance (s : State) : State :=
  if s.floor.mode = .queue then s.advanceLoop s.floor.queue.length else s

/-! ## Session start (03 R54; 02 R24, R37, R38, R41; 04 R71) -/

/-- Bind the entries of a roster (02 R24): every record is unbound first. -/
def State.bindRoster (s : State) (roster : Option (Fin 8)) : State :=
  let cleared := mapAll s.seats.recs fun _ r => { r with participant := none }
  let bound := match roster with
    | none => cleared
    | some n => s.cal.rosters[n].toList.foldl (fun recs slot => match slot with
        | none => recs
        | some e => modify recs e.position fun r =>
            { r with participant := some ⟨e.name, e.key, e.role, e.limit⟩ }) cleared
  { s with seats := { s.seats with recs := bound } }

/-- The marks and accumulations are cleared at a session start (02 R38, R39, R41). -/
def SeatRec.clearMarks (r : SeatRec) : SeatRec :=
  { r with spoke := false, changed := false, turnCount := 0, total := 0, lastTurn := 0 }

/-- One-shot messages are cleared for every seat (08 R157). -/
def State.clearMessages (s : State) : State :=
  { s with disp := { s.disp with messages := Vector.replicate 64 none } }

/-- A booking of the table becomes ACTIVE and its session starts (03 R54). -/
def State.startSession (s : State) (b : Booking) : State :=
  let s0 := { s with cal := { s.cal with
    bookings := s.cal.bookings.map (fun (r : Booking) => if r.number = b.number then { r with active := true } else r),
    session := .inSession, endCause := none, actualStart := s.clock.now } }
  let s1 := { s0 with seats := { s0.seats with chair := b.chair } }
  let s2 := s1.bindRoster b.roster
  let s3 := { s2 with
    seats := { s2.seats with recs := mapAll s2.seats.recs fun _ r => r.clearMarks },
    cal := { s2.cal with tally := Vector.replicate 8 0 } }
  let s4 := { s3 with
    floor := { s3.floor with mode := b.mode, maxOpen := b.maxOpen, blocked := Vector.replicate 64 false },
    mic := { s3.mic with speakLimit := b.speakLimit, limitAction := b.limitAction },
    mix := { s3.mix with roomSend := b.roomSend } }
  s4.clearMessages.notice 0x04
    (be16 b.number ++ textBytes b.title ++ be32 b.start ++ be32 b.finish ++ timeBytes s.clock.now)

/-! ## The calendar outside a session (03 R52, R53, R63) -/

/-- WAITING records whose end is at or before now are removed, with one MISSED notice (03 R63). -/
def State.removeMissed (s : State) : State :=
  let gone := fun (b : Booking) => !b.active && b.finish ≤ s.clock.now.minute
  let missed := s.cal.bookings.filter gone
  if missed.isEmpty then s
  else
    ({ s with cal := { s.cal with bookings := s.cal.bookings.filter fun b => !gone b } }).notice 0x06
      (be8 missed.length ++ missed.flatMap fun (b : Booking) => be16 b.number)

/-- Step 3 of an evaluation, in VACANT or ARMED: start the next booking, arm for it, or be VACANT (03 R53, R54). -/
def State.testNext (s : State) : State :=
  match s.nextBooking with
  | none => { s with cal := { s.cal with session := .vacant } }
  | some b =>
    if b.start ≤ s.clock.now.minute then s.startSession b
    else if b.start ≤ s.clock.now.minute + s.cfg.lead then { s with cal := { s.cal with session := .armed } }
    else { s with cal := { s.cal with session := .vacant } }

/-- An evaluation in VACANT or ARMED (03 R52): nothing in UNSYNCED. -/
def State.evaluateIdle (s : State) : State :=
  if s.clock.sync = .unsynced then s else s.removeMissed.testNext

/-! ## Session end (02 R36; 03 R57, R58, R66) -/

/-- What the end of a session removes from a record (02 R36). -/
def SeatRec.endSession (r : SeatRec) : SeatRec :=
  { r with participant := none, classOverride := none, limitOverride := none, seatMute := false }

/-- 02 R36. -/
def State.endOfSessionWork (s : State) : State :=
  { s with seats := { recs := mapAll s.seats.recs fun _ r => r.endSession,
                      chair := 0, sessionMute := false, wingAMute := false, wingBMute := false } }

/-- CLOSING completes (03 R58): the ACTIVE record is deleted, the seat table does its work, the state becomes VACANT and
the composer is told, which renders the room screens (08 R152), and the calendar evaluates, which applies a step held
pending. -/
def State.completeClosing (s : State) : State :=
  let s1 := { s with cal := { s.cal with bookings := s.cal.bookings.filter fun b => !b.active } }
  let s2 := s1.endOfSessionWork
  let s3 := { s2 with cal := { s2.cal with session := .vacant, stepPending := false } }
  s3.clearMessages.refreshScreens.evaluateIdle

/-- The report of every microphone CLOSED during CLOSING, which completes it (05 R110). -/
def State.reportClosed (s : State) : State :=
  if s.cal.session = .closing ∧ s.allClosed then s.completeClosing else s

/-- 03 R66. -/
def State.buildReport (s : State) (cause : EndCause) : Report :=
  let b := s.activeBooking
  { number := (b.map (·.number)).getD 0
    title := (b.map (·.title)).getD []
    start := s.cal.actualStart
    finish := s.cal.actualEnd
    cause := cause
    speakers := ((numbers 64).filter fun i => (s.seatRec i).spoke).map fun i =>
      ⟨i, s.phys i, (s.seatRec i).turnCount, (s.seatRec i).total⟩
    changed := (numbers 64).filter fun i => (s.seatRec i).changed
    refusals := s.cal.tally }

/-- The report's bytes, as the SESSION_REPORT notice and LAST_REPORT carry them (12 Table 12-5). -/
def Report.bytes (r : Report) : List Byte :=
  be16 r.number ++ textBytes r.title ++ timeBytes r.start ++ timeBytes r.finish ++ be8 r.cause.code
    ++ be8 r.speakers.length
    ++ r.speakers.flatMap (fun p => be8 p.seat.val ++ be8 p.physical.val ++ be16 p.turns ++ be16 p.total)
    ++ be8 r.changed.length ++ r.changed.flatMap (fun i => be8 i.val)
    ++ r.refusals.toList.flatMap be16

/-- Several removals from the open list, in the order given. -/
def State.removeAll (s : State) (l : List OpenEntry) (reason : Reason) : State :=
  l.foldl (fun s e => s.removeCore e.seat reason) s

/-- CLOSING begins (03 R57): the floor is emptied and the queue cleared with SESSION_END, the report is built, stored
and sent; if every microphone is CLOSED it completes at once. -/
def State.startClosing (s : State) (cause : EndCause) : State :=
  let s0 := ({ s with cal := { s.cal with
    session := .closing, endCause := some cause, actualEnd := s.clock.now, graceEnd := none } }).clearMessages
  let s1 := s0.removeAll s0.floor.openList .sessionEnd
  let s2 := s1.clearQueue .sessionEnd
  let report := s2.buildReport cause
  let s3 := ({ s2 with cal := { s2.cal with lastReport := some report } }).notice 0x05 report.bytes
  s3.reportClosed

/-! ## Removals with what follows from them (04 R71, R79) -/

/-- A removal from the open list; in GRACE one that empties the list begins CLOSING (04 R71). -/
def State.removeEntry (s : State) (seat : Seat) (reason : Reason) : State :=
  if s.holds seat then
    let s1 := s.removeCore seat reason
    if s1.cal.session = .grace ∧ s1.floor.openList = [] then s1.startClosing .floorEmpty else s1
  else s

/-- A removal followed by an auto-advance check (04 R79). -/
def State.removeThenAdvance (s : State) (seat : Seat) (reason : Reason) : State :=
  if s.holds seat then (s.removeEntry seat reason).autoAdvance else s

/-- The oldest non-chair entries are removed with MAX_REDUCED until no more than max_open remain (04 R89, R93);
`fuel` bounds the number of removals. -/
def State.reduceLoop : Nat → State → State
  | 0, s => s
  | fuel + 1, s =>
    if s.floor.maxOpen < s.nonChair then
      match s.oldestNonChair with
      | some seat => reduceLoop fuel (s.removeThenAdvance seat .maxReduced)
      | none => s
    else s

def State.reduceOpen (s : State) : State := s.reduceLoop s.floor.openList.length

/-! ## The calendar's evaluation (03 R52, R55, R56) -/

/-- The GRACE end: end + grace, cut to the next start (03 R55). In UNSYNCED no next start enters (03 R52). -/
def State.graceEndOf (s : State) (b : Booking) : Nat :=
  match s.clock.sync, s.nextBooking with
  | .unsynced, _ => b.finish + b.grace
  | _, none => b.finish + b.grace
  | _, some n => min (b.finish + b.grace) n.start

/-- The test of the active session's end (03 R55, R56). -/
def State.testEnd (s : State) : State :=
  match s.activeBooking with
  | none => s
  | some b =>
    let now := s.clock.now.minute
    match s.cal.session with
    | .inSession =>
      if b.finish ≤ now then
        let g := s.graceEndOf b
        if 0 < b.grace ∧ now < g ∧ s.floor.openList ≠ [] then
          { s with cal := { s.cal with session := .grace, graceEnd := some g } }
        else s.startClosing .endTime
      else s
    | .grace =>
      if now < b.finish then
        ({ s with cal := { s.cal with session := .inSession, graceEnd := none } }).autoAdvance
      else
        let g := s.graceEndOf b
        if g ≤ now then s.startClosing .graceEnd
        else { s with cal := { s.cal with graceEnd := some g } }
    | _ => s

/-- A calendar evaluation (03 R52). In UNSYNCED it takes step 2 alone, for an ACTIVE ad hoc booking. In CLOSING it
waits (03 R59). -/
def State.evaluate (s : State) : State :=
  match s.cal.session with
  | .vacant | .armed => s.evaluateIdle
  | .closing => s
  | .inSession | .grace =>
    if s.clock.sync = .unsynced then
      (if (s.activeBooking.map (·.number)) = some 0 then s.testEnd else s)
    else s.removeMissed.testEnd

/-! ## Limits (05 R106, R107; 04 R92) -/

/-- A limit evaluation of a seat: its marks, a LIMIT_WARN notice on a new warning, and under AUTO the report of a
reached limit, which removes the seat with reason LIMIT, after the LIMIT_WARN notice of the same evaluation (log 50). -/
def State.evaluateLimit (s : State) (seat : Seat) : State :=
  let m := s.micOf seat
  if m.state ≠ .opened then s
  else
    match s.limitOf seat with
    | none => s.setMic seat fun m => { m with warning := false, overMark := false }
    | some l =>
      let warning : Bool := s.warnPoint l ≤ m.timer
      let reached : Bool := limitPoint l ≤ m.timer
      let overMark : Bool := s.mic.limitAction = .warn && reached
      let s1 := s.setMic seat fun m => { m with warning := warning, overMark := overMark }
      let s2 := if warning && !m.warning then s1.notice 0x03 (be8 seat.val ++ be16 l ++ be16 m.timer) else s1
      if s.mic.limitAction = .auto && reached then s2.removeThenAdvance seat .limit else s2

/-! ## What a change of a record's key or class brings (02 R27, R31; 04 R91, R93) -/

/-- A KEY notice (04 R91). -/
def State.keyNotice (s : State) (seat : Seat) : State :=
  if s.holds seat then s.removeThenAdvance seat .key else s.withdraw seat .key

/-- The seat table gives a class change to the floor controller and the microphone state block (02 R27): the class of
`seat` was `before`. The floor controller acts first, then the limit is evaluated (log 18). A change to OBSERVER is left to
the KEY notice (04 R93). -/
def State.classChange (s : State) (seat : Seat) (before : SeatClass) : State :=
  let after := s.classOf seat
  if after = before then s
  else
    let s1 :=
      if !s.holds seat || after = .observer then s
      else if after = .chair then s.autoAdvance
      else if before = .chair then s.reduceOpen
      else s
    s1.evaluateLimit seat

/-- The permission is evaluated again (02 R31): a seat that was permitted and is not any more is given a KEY notice in
IN_SESSION and GRACE when it is PRESENT. -/
def State.permissionChange (s : State) (seat : Seat) (before : Bool) : State :=
  if before && !s.permitted seat && s.cal.session.runs && s.present (s.phys seat) then s.keyNotice seat else s

/-! ## Levels (07 R136–R141) -/

/-- The largest magnitude of a block, −32768 counting as 32767 (07 R136). -/
def peakOf (b : Block) : Nat := b.toList.foldl (fun acc x => max acc (min 32767 x.toInt.natAbs)) 0

/-- At least one sample lies at an end of the range (07 R136). -/
def atEnds (b : Block) : Bool := b.toList.any fun x => x.toInt = 32767 || x.toInt = -32768

/-- 07 R137. -/
def envelopeNext (kAtt kRel e p : Nat) : Nat :=
  if e < p then e + (p - e) * kAtt / 256 else e - (e - p) * kRel / 256

/-- The history with a peak at the newest end and the oldest dropped (07 R138). -/
def pushPeak (h : Vector Nat 8) (p : Nat) : Vector Nat 8 :=
  #v[h[1], h[2], h[3], h[4], h[5], h[6], h[7], p]

/-- The detector takes a block (07 R136–R139). -/
def LevelRec.take (cfg : Settings) (l : LevelRec) (b : Block) : LevelRec :=
  let p := peakOf b
  let e := envelopeNext cfg.kAtt cfg.kRel l.envelope p
  let peaks := pushPeak l.peaks p
  let idle := if e < cfg.closeThr then min 4000 (l.idle + 1) else 0
  { envelope := e
    peaks := peaks
    meter := peaks.toList.sum / 8
    idle := idle
    clips := if atEnds b then satAdd l.clips 1 else l.clips
    voiceStart := cfg.openThr ≤ e
    voiceIdle := cfg.hold ≤ idle && 1 ≤ idle
    fresh := true }

/-- The level state is set to 0; the input clip counter is kept, and so are the two conditions of the last block taken,
which are still read (07 R141, R144), but handed on no more (log 27). -/
def LevelRec.zero (l : LevelRec) : LevelRec :=
  { LevelRec.powerOn with clips := l.clips, voiceStart := l.voiceStart, voiceIdle := l.voiceIdle }

def State.zeroLevel (s : State) (p : Pos) : State := { s with level := modify s.level p LevelRec.zero }

/-! ## Notices of the chain scanner (01 R5, R6, R13; 04 R90; 08 R155, R157) -/

/-- A pass begins at its first cycle at the next boundary (01 R6). -/
def State.startPass (s : State) (w : Wing) : State :=
  s.setWing w fun p => { p with state := .enumerating, passCycle := 0, passCount := none,
                                reports := Vector.replicate 32 none }

/-- The record of a position that leaves PRESENT (01 R5, R11, Table 1-7); the serial is kept. -/
def PosRec.lose (r : PosRec) : PosRec :=
  { r with presence := .absent, loss := 0, statusValid := false, card := none }

def State.setPos (s : State) (p : Pos) (f : PosRec → PosRec) : State := { s with pos := modify s.pos p f }

/-- The floor controller is told of a loss or re-initialisation (04 R90). -/
def State.floorLost (s : State) (seat : Seat) : State :=
  let s1 := if s.holds seat then s.removeThenAdvance seat .lost else s.withdraw seat .lost
  s1.setFloor fun f => { f with blocked := f.blocked.set seat false, seen := f.seen.set seat false }

/-- The microphone state block is told (05 R101); during CLOSING this can be the last microphone to close. -/
def State.micLost (s : State) (seat : Seat) : State :=
  if (s.micOf seat).state = .closed then s else (s.micClose seat).reportClosed

/-- The composer is told: the transfer is abandoned, the known text unknown, the seat's message cleared
(08 R155, R157). -/
def State.composerLost (s : State) (p : Pos) (seat : Seat) : State :=
  { s with disp := { s.disp with
      delivery := modify s.disp.delivery p fun d => { d with known := none, transfer := none },
      messages := s.disp.messages.set seat none } }

/-- The scanner's notice that a position left PRESENT or was re-initialised, to the blocks in their order
(01 R13). The seat is the one the mapping gave when the notice was given. -/
def State.lossNotice (s : State) (p : Pos) : State :=
  let seat := s.logical p
  (((s.floorLost seat).micLost seat).zeroLevel p).composerLost p seat

end Sys2Proof.Machine
end

