-- ==== Sys2Proof/Machine/Mix.lean ====
section
/-! DEFINITION. The mix of one cycle (06 R113–R123) and the staged, waiting and live tables (06 R124–R130). -/

namespace Sys2Proof.Machine

/-! ## Arithmetic (00, Gains and rounding; 06 R116–R121) -/

/-- Scale: plus 2048, divided by 4096, rounded toward minus infinity. -/
def scale (p : Int) : Int := (p + 2048) / 4096

/-- Saturation to the sample range (00, Samples). -/
def saturate (v : Int) : Int := max (-32768) (min 32767 v)

/-- The physical number the mapping gave a seat when the cycle began: a session start or end moves a gain to the seat's
new place from the cycle after (06 R114, R131; log 46). -/
def State.cyclePhys (s : State) (seat : Seat) : Pos := swapSeat s.mix.cycleChair seat

/-- x_s: the sample of the block handed on for the physical position the mapping gives (06 R114). -/
def State.input (s : State) (seat : Seat) (k : Fin 16) : Int := (s.pos[s.cyclePhys seat].block[k]).toInt

/-- The seat contributes: open for the cycle and not effectively muted when the mix is computed (06 R113, R116). -/
def State.contributes (s : State) (seat : Seat) : Bool := (s.micOf seat).cycleOpen && !s.muted seat

/-- c_s (06 R116). -/
def State.contribution (s : State) (seat : Seat) (k : Fin 16) : Int :=
  if s.contributes seat then scale (s.input seat k * (s.mix.cycleLive.gin[seat] : Int)) else 0

/-- r (06 R117). -/
def State.returned (s : State) (k : Fin 16) : Int :=
  scale ((s.mix.cycleReturn[k]).toInt * (s.mix.cycleLive.returnGain : Int))

/-- T, exact (06 R117). -/
def State.bus (s : State) (k : Fin 16) : Int :=
  s.returned k + ((numbers 64).map fun t => s.contribution t k).sum

/-- The duck stage (06 R119). -/
def duckStage (t : MixTables) (d : DuckClass) (m : Int) : Int :=
  match d with
  | .own => scale (m * (t.duckOwn : Int))
  | .near => scale (m * (t.duckNear : Int))
  | .none => m

/-- A seat's feed before saturation, from the bus: mix-minus, duck stage, output gain (06 R118–R120). -/
def State.feedExact (s : State) (seat : Seat) (k : Fin 16) : Int :=
  scale (duckStage s.mix.cycleLive (s.micOf seat).cycleDuck (s.bus k - s.contribution seat k)
    * (s.mix.cycleLive.gout[seat] : Int))

/-- The room send before saturation (06 R121). -/
def State.sendExact (s : State) (k : Fin 16) : Int :=
  scale ((s.bus k - s.returned k) * (s.mix.cycleLive.sendGain : Int))

/-- A block from exact values, each saturated. -/
def saturated (f : Fin 16 → Int) : Block := Vector.ofFn fun k => BitVec.ofInt 16 (saturate (f k))

/-- The number of samples that saturation changes. -/
def clipCount (f : Fin 16 → Int) : Nat := ((numbers 16).filter fun k => saturate (f k) ≠ f k).length

/-- A seat's loudspeaker feed of the cycle's mix; silence while halted (06 R120, R123). -/
def State.feed (s : State) (seat : Seat) : Block := if s.store.halted then silence else saturated (s.feedExact seat)

def State.feedClips (s : State) (seat : Seat) : Nat := if s.store.halted then 0 else clipCount (s.feedExact seat)

/-- The room send block of the cycle's mix; silence while halted (06 R121, R123). -/
def State.send (s : State) : Block := if s.store.halted then silence else saturated s.sendExact

def State.sendClipCount (s : State) : Nat := if s.store.halted then 0 else clipCount s.sendExact

/-! ## Commit, discard, transfer (06 R127, R129, R130) -/

/-- A commit: into the image, or into the live tables at once while halted (06 R127, R130). -/
def MixBlock.commit (m : MixBlock) (halted : Bool) : MixBlock :=
  if halted then { m with live := m.staged, image := none, pending := false, due := false }
  else { m with image := some m.staged, pending := false, due := true }

/-- 06 R129. -/
def MixBlock.discard (m : MixBlock) : MixBlock :=
  { m with staged := m.live, image := none, pending := false, due := false }

/-- The transfer at a cycle boundary of a commit image that is due (06 R127). -/
def MixBlock.transfer (m : MixBlock) : MixBlock :=
  if m.due then { m with live := m.image.getD m.live, image := none, due := false } else m

def State.commit (s : State) : State := { s with mix := s.mix.commit s.store.halted }

def State.transferDue (s : State) : State := { s with mix := s.mix.transfer }

end Sys2Proof.Machine
end

