-- ==== Sys2Proof/Machine/Engine.lean ====
section
/-! DEFINITION. The management engine: which operation it is at, the checks before an owner (10 R181–R183), the end of an
operation and of a request, the reply, and the warm RESTART (10 R177–R180, R188; 11 R195). -/

namespace Sys2Proof.Machine

def State.setMgmt (s : State) (f : Mgmt → Mgmt) : State := { s with mgmt := f s.mgmt }

/-! ## The reply (10 R178–R180) -/

/-- The reply's payload (12 section 12.2). -/
def replyPayload (tag : BitVec 16) (overall : Status) (executed failing : Nat) (statuses : List Status)
    (returned : List Returned) : List Byte :=
  be16 tag.toNat ++ be8 overall.code ++ be8 executed ++ be8 failing ++ statuses.flatMap (fun st => be8 st.code)
    ++ returned.flatMap fun r => be16 r.count ++ r.bytes

/-- The status of the failing operation, the last executed one, or none. -/
def Hand.failure (h : Hand) : Option Status := h.statuses.getLast?.filter fun st => !st.success

def Hand.payload (h : Hand) : List Byte :=
  match h.failure with
  | some st => replyPayload h.tag st h.statuses.length h.statuses.length h.statuses h.returned
  | none => replyPayload h.tag .ok h.statuses.length 0 h.statuses h.returned

/-- The head request leaves; the next one becomes the head and is taken (10 R175, R178). -/
def Mgmt.leaveHead (m : Mgmt) : Mgmt :=
  { m with requests := m.requests.tail, hand := none, reply := none,
           engine := if m.requests.tail.isEmpty then .idle else .executing }

/-- A reply has been offered: a RESTART that waited for it takes effect next (10 R188). -/
def RestartPhase.offered : RestartPhase → RestartPhase
  | .scheduled => .due false
  | p => p

/-- The reply enters the transmit queue and the request leaves the head. -/
def State.admitReply (s : State) : State :=
  match s.mgmt.reply with
  | none => s
  | some f => ({ s with link := { s.link with queue := s.link.queue ++ [f] } }).setMgmt Mgmt.leaveHead

/-- The reply is offered: it enters the queue in the same event, or waits in REPLY_WAIT (10 R178). -/
def State.offerReply (s : State) : State :=
  let s1 := s.setMgmt fun m => { m with engine := .replyWait, stagger := 0, restart := m.restart.offered }
  if s.link.queue.length < 8 then s1.admitReply else s1

/-- The stagger of a group reply in chain cycles (10 R179): twice the last byte of the station address mod 32. -/
def staggerCycles (station : Addr) : Nat := 2 * (station.toNat % 256 % 32)

/-- The reply to the head request is built, and offered at once or held for the stagger (10 R178, R179). -/
def State.reply (s : State) (payload : List Byte) : State :=
  match s.mgmt.requests with
  | [] => s
  | r :: _ =>
    let s1 := s.setMgmt fun m => { m with reply := some ⟨r.source, s.link.station, .reply, payload⟩ }
    let n := staggerCycles s.link.station
    if r.group && 0 < n then s1.setMgmt fun m => { m with engine := .stagger, stagger := n }
    else s1.offerReply

/-! ## The end of a request (10 R177, R178; 06 R128) -/

/-- 06 R128: the request stored a staged value, no operation failed, and auto_commit is yes. -/
def State.autoCommits (s : State) (h : Hand) : Bool := s.cfg.autoCommit && h.staged && h.failure.isNone

/-- The end of execution: the unlock mark is cleared, an auto-commit made, and the reply built. A SILENT request
leaves at once, or when its RESTART takes effect (10 R188). -/
def State.endRequest (s : State) (h : Hand) : State :=
  let s1 := s.setMgmt fun m => { m with unlocked := false }
  let s2 := if s1.autoCommits h then s1.commit else s1
  if h.silent then
    if s2.mgmt.restart = .scheduled then s2.setMgmt fun m => { m with restart := .due true, hand := none }
    else s2.setMgmt Mgmt.leaveHead
  else s2.reply h.payload

/-! ## The checks before an owner (10 R181, R182) -/

/-- The session key while a session is active. -/
def State.sessionKey (s : State) : Option Key :=
  if s.cal.session.isActive then s.activeBooking.map (·.key) else none

/-- 10 R182. -/
def State.admits (s : State) (key : Key) (sessionScoped : Bool) : Bool :=
  key = 0 || (sessionScoped && s.sessionKey = some key)

/-- A flag operation is session-scoped on the writable fields of SEATS alone: fields 0 to 2 of a seat entry and the mutes
of the table-wide entry (10 R182; log 47). -/
def flagScoped (o : Object) (index fld : Nat) : Bool :=
  o = .seats && ((decide (index < 64) && decide (fld ≤ 2)) || (index = 64 && fld = 0))

/-- Checks 1 to 4 for a WRITE or a flag operation, given whether it is session-scoped on the object. -/
def State.checkWrite (s : State) (key : Key) (obj : Byte) (session : Object → Bool) : Option Status :=
  match Object.ofCode obj.toNat with
  | none => some .badObject
  | some o =>
    if o.readOnly then some .badObject
    else if !s.admits key (session o) then some .protectedKey
    else if o.needsUnlock && !s.mgmt.unlocked then some .locked
    else none

/-- The status of the first check that fails, or none (10 R181). -/
def State.check (s : State) (key : Key) (op : Op) : Option Status :=
  match op with
  | .read obj _ _ => if (Object.ofCode obj.toNat).isNone then some .badObject else none
  | .write obj _ _ _ => s.checkWrite key obj Object.sessionScoped
  | .flags _ obj index fld _ => s.checkWrite key obj fun o => flagScoped o index.toNat fld.toNat
  | .readClear obj _ =>
    if Object.ofCode obj.toNat ≠ some .counters then some .badObject
    else if s.admits key false then none else some .protectedKey
  | .action code _ =>
    match Action.ofCode code.toNat with
    | none => some .badValue
    | some a => if s.admits key a.sessionScoped then none else some .protectedKey
  | .unlock _ => none

/-! ## One operation (10 R177) -/

/-- What an owner answers: the state, the status, what a read returned, and whether the request ends here (RESTART). -/
structure OpResult where
  state    : State
  status   : Status
  returned : Option Returned := none
  ends     : Bool := false

/-- A failure that changes nothing. -/
def fail (s : State) (st : Status) : OpResult := { state := s, status := st }

/-- Success, CLAMPED when a value was brought into range. -/
def done (s : State) (clamped : Bool := false) : OpResult := { state := s, status := okOr clamped }

/-- The part has power and the engine is executing the head request, whose next operation is `op`. -/
def State.atOp (s : State) (op : Op) : Bool :=
  s.powered && s.mgmt.engine = .executing && s.mgmt.restart = .none &&
    (s.mgmt.hand.bind fun h => h.ops.head?) = some op

/-- What an operation adds to the values of the reply. A READ or READ_CLEAR that failed returns no entries (log 11). -/
def OpResult.own (r : OpResult) (op : Op) : List Returned :=
  match r.returned with
  | some v => [v]
  | none => if op.isRead then [⟨0, []⟩] else []

/-- The operation has ended: its status joins the reply, and the request ends after a failure, after its last
operation, or where the operation ends it. Room screens are rendered before the reply is offered (log 17). -/
def State.finishOp (op : Op) (r : OpResult) : State :=
  match r.state.mgmt.hand with
  | none => r.state
  | some h =>
    let h' := { h with ops := h.ops.tail, statuses := h.statuses ++ [r.status], returned := h.returned ++ r.own op }
    let s1 := (r.state.setMgmt fun m => { m with hand := some h' }).refreshScreens
    if !r.status.success || r.ends || h'.ops.isEmpty then s1.endRequest h' else s1

/-- The checks, then the owner. -/
def State.perform (s : State) (op : Op) (owner : State → OpResult) : OpResult :=
  match s.mgmt.hand with
  | none => fail s .ok
  | some h =>
    match s.check h.key op with
    | some st => fail s st
    | none => owner s

/-- The step of one operation: it is taken when the engine is at that operation; otherwise there is no such step and
nothing changes (log 3). -/
def State.runOp (s : State) (op : Op) (owner : State → OpResult) : Result :=
  if s.atOp op then .next (State.finishOp op (s.perform op owner)).startSending else .next s

/-! ## A change of STORE_INVALID (11 R194) -/

/-- The STORE_INVALID notice is offered at the first moment at which the link is UP and a notice destination is held. -/
def State.storeInvalidNotice (s : State) : State :=
  if s.store.storeInvalid ∧ s.link.up ∧ s.link.noticeDest.isSome then
    ({ s with store := { s.store with storeInvalid := false } }).notice 0x09 []
  else s

/-! ## Warm RESTART (11 R195 and the rules it gathers) -/

/-- 05 R98: CLOSED without capture; every timer, gap, mark and flash is dropped. -/
def MicRec.restart (m : MicRec) : MicRec :=
  { MicRec.powerOn with cycleOpen := m.cycleOpen, cycleDuck := m.cycleDuck }

/-- 04 R70. -/
def Floor.restart (f : Floor) : Floor :=
  { f with openList := [], queue := [], blocked := Vector.replicate 64 false, seen := Vector.replicate 64 false }

/-- 09 R169. -/
def Link.unlearn (l : Link) : Link := { l with learnt := false, expected := 0, buffer := [] }

/-- 08 R145. A frame that waits to enter the queue keeps waiting (09 R171). -/
def Display.restart (d : Display) : Display :=
  { d with messages := Vector.replicate 64 none,
           delivery := mapAll d.delivery fun _ x => { x with known := none, transfer := none },
           screens := mapAll d.screens fun _ sc => { sc with lastSent := none, pending := false, window := 0 } }

/-- 03 R51: an active session ends without CLOSING completing. -/
def Calendar.dropSession (c : Calendar) : Calendar :=
  if c.session.isActive then
    { c with bookings := c.bookings.filter (fun b => !b.active), session := .vacant, graceEnd := none }
  else c

/-- The calendar's and the seat table's part of a warm restart (03 R51; 02 R36). In VACANT and ARMED too every mute becomes
no (02 R33). -/
def State.dropSession (s : State) : State := State.endOfSessionWork { s with cal := s.cal.dropSession }

/-- The warm restart takes effect (11 R195): the room screens are rendered before the calendar evaluates. -/
def State.warmRestart (s : State) : State :=
  let s1 := { s with
    store := { s.store with halted := false },
    floor := s.floor.restart,
    mic := { s.mic with recs := mapAll s.mic.recs fun _ m => m.restart } }
  let s2 := s1.dropSession
  let s3 := { s2 with
    cal := { s2.cal with stepPending := false },
    disp := s2.disp.restart,
    link := { s2.link.unlearn with counters := LinkCounters.zero },
    mix := { s2.mix with outClips := Vector.replicate 64 0, sendClips := 0 },
    level := mapAll s2.level fun _ l => { l.zero with clips := 0 },
    mgmt := { s2.mgmt with unlocked := false, dropped := 0, malformed := 0, restart := .none } }
  let s4 := if s.mgmt.restart = .due true then s3.setMgmt Mgmt.leaveHead else s3
  (((s4.refreshScreens.startPass .a).startPass .b).evaluate).refreshScreens

/-- RESTART_TAKES_EFFECT when a restart is due; otherwise nothing. -/
def State.takeRestart (s : State) : State :=
  match s.mgmt.restart with
  | .due _ => s.warmRestart
  | _ => s

end Sys2Proof.Machine
end

