-- ==== Sys2Proof/Machine/Press.lean ====
section
/-! DEFINITION. What a good upstream slot carries beside its block: the status word (01 R14–R17) and the press, which the
scanner hands to the floor controller (01 R18, 04 R74–R82). -/

namespace Sys2Proof.Machine

/-! ## Status words (01 R14–R17) -/

/-- The position is the one its wing's header names in this cycle (01 R14). -/
def State.scanned (s : State) (p : Pos) : Bool := (s.wing (wingOf p)).scanPos = (place p).val

/-- The status word a slot carries, as card and serial. A card key above 15 makes no status word, and neither does a status
flag above 2 (log 30). -/
def UpSlot.answer (u : UpSlot) : Option (Option Key × Serial) :=
  if u.status ≠ 1 then none
  else if u.present then (keyOf u.key).map fun k => (some k, u.serial)
  else some (none, u.serial)

/-- The press a slot carries; a value above 2 carries none (log 30). -/
def UpSlot.press (u : UpSlot) : Option Press :=
  match u.event with
  | 1 => some .button
  | 2 => some .priority
  | _ => none

/-- An answer is taken. A foreign serial starts a pass (R17); the first answer sets the status-valid mark (R15); the card
state becomes the answer's (R16), and the seat table evaluates the permission. -/
def State.takeAnswer (s : State) (p : Pos) (card : Option Key) (serial : Serial) : State :=
  if s.pos[p].serial ≠ some serial then s.startPass (wingOf p)
  else
    (s.setPos p fun r => { r with statusValid := true, card := card }).permissionChange (s.logical p) (s.permittedAt p)

/-- The status word that the position's slot of this cycle carries is taken, once, from a PRESENT position on a wing in
RUNNING or DEGRADED (01 R14). -/
def State.slotAnswer (s : State) (p : Pos) : State :=
  match s.pos[p].answer with
  | some (card, serial) =>
    if s.live p then (s.setPos p fun r => { r with answer := none }).takeAnswer p card serial else s
  | none => s

/-! ## Presses (04 R74–R78, R82) -/

/-- Replace the oldest non-chair entry by a grant to `seat`; the auto-advance check follows the grant (04 R77–R79). -/
def State.replaceAndGrant (s : State) (oldest seat : Seat) (source : Source) : State :=
  ((s.removeEntry oldest .replaced).grantSeat seat source).autoAdvance

/-- A request for the floor in OPEN mode, or of a CHAIR-class seat in QUEUE mode (04 R77, R78). -/
def State.askOpen (s : State) (seat : Seat) : State :=
  if s.room seat then s.grantSeat seat .button
  else if s.cfg.replace then
    match s.oldestNonChair with
    | some oldest => s.replaceAndGrant oldest seat .button
    | none => s.refuse seat .floorFull .button
  else s.refuse seat .floorFull .button

/-- A request for the floor in QUEUE mode (04 R78). -/
def State.askQueue (s : State) (seat : Seat) : State :=
  if s.classOf seat = .chair then s.askOpen seat
  else if s.floor.queue.length < 16 then (s.enqueue seat .button).autoAdvance
  else s.refuse seat .queueFull .button

/-- The refusal of a press by the checks of 04 R74, in their order. -/
def State.pressRefusal (s : State) (seat : Seat) : Option Refuse :=
  if s.store.halted then some .halted
  else if !s.cal.session.runs then some .noSession
  else if s.cal.session = .grace ∧ !s.holds seat then some .sessionEnding
  else (s.answer seat).refusal

/-- A BUTTON press of a logical seat (04 R74). A press that passes, by a seat that does not hold the floor, clears the
seat's voice-blocked mark (04 R81). -/
def State.press (s : State) (seat : Seat) : State :=
  match s.pressRefusal seat with
  | some r => s.refuse seat r .button
  | none =>
    if s.holds seat then s.removeThenAdvance seat .released
    else
      let s1 := s.setFloor fun f => { f with blocked := f.blocked.set seat false }
      if s1.queued seat then (s1.withdraw seat .withdrawn).autoAdvance
      else match s1.floor.mode with
        | .openFloor => s1.askOpen seat
        | .queue => s1.askQueue seat
        | .voice => s1

/-- The refusal of a CHAIR-class seat's PRIORITY press (04 R82). -/
def State.priorityRefusal (s : State) (seat : Seat) : Option Refuse :=
  if s.store.halted then some .halted
  else if !s.cal.session.runs then some .noSession
  else if s.cal.session = .grace then some .sessionEnding
  else (s.answer seat).refusal

/-- A PRIORITY press of a CHAIR-class seat that passes (04 R82): the non-chair entries go, the queue may be cleared, the
chair is granted; one auto-advance check follows. -/
def State.priorityTaken (s : State) (seat : Seat) : State :=
  let others := (s.floor.openList.map (·.seat)).filter fun t => s.classOf t ≠ .chair
  let s1 := others.foldl (fun t i => t.removeEntry i .priority) s
  let s2 := if s.cfg.clearQueue then s1.clearQueue .priority else s1
  let s3 :=
    if s2.holds seat then s2
    else if s2.floor.openList.length < 8 then s2.grantSeat seat .button
    else s2.refuse seat .floorFull .priority
  s3.autoAdvance

def State.priorityPress (s : State) (seat : Seat) : State :=
  if s.classOf seat ≠ .chair then s
  else match s.priorityRefusal seat with
    | some r => s.refuse seat r .priority
    | none => s.priorityTaken seat

/-- What the position's slot of this cycle carries is taken, once: the status word first, then the press, of the logical
seat that the mapping gives, from a PRESENT position on a wing in RUNNING or DEGRADED (01 R18). -/
def State.slotEvent (s : State) (p : Pos) : State :=
  let s1 := s.slotAnswer p
  match s1.pos[p].event with
  | none => s1
  | some k =>
    if s1.live p then
      let s2 := s1.setPos p fun r => { r with event := none }
      match k with
      | .button => s2.press (s2.logical p)
      | .priority => s2.priorityPress (s2.logical p)
    else s1

end Sys2Proof.Machine
end

