-- ==== Sys2Proof/Machine/Cycle.lean ====
section
/-! DEFINITION. The chain cycle: the steps of a boundary, each on its own, and the whole boundary. -/

namespace Sys2Proof.Machine

/-! ## The end of a pass (01 R8, R9, Table 1-7) -/

/-- What a completed pass decides for one position (01 Table 1-7). -/
inductive PassOutcome
  | same | newUnit | became | lost | stillAbsent
  deriving DecidableEq, Repr

def PosRec.passOutcome (r : PosRec) (found : Option Serial) : PassOutcome :=
  match r.presence, found with
  | .present, some t => if r.serial = some t then .same else .newUnit
  | .absent, some _ => .became
  | .present, none => .lost
  | .absent, none => .stillAbsent

/-- The record after the pass; every loss count is 0 (01 R9). -/
def PosRec.afterPass (r : PosRec) (found : Option Serial) : PosRec :=
  match r.passOutcome found with
  | .same | .stillAbsent => { r with loss := 0 }
  | .newUnit | .became =>
    { r with presence := .present, serial := found, loss := 0, statusValid := false, card := none }
  | .lost => r.lose

/-- The serial the pass found at a position: a report below the assigned count, when the pass count is not 0. At a position
that is not below it a report finds nothing, of an ABSENT position too (01 R3, Table 1-7; log 48). -/
def WingPort.found (p : WingPort) (i : Fin 32) : Option Serial :=
  if i.val < min 32 (p.passCount.getD 0) then p.reports[i] else none

/-- The notices of one position's outcome (01 Table 1-7, R13; 07 R141). The composer's part for every position of
the wing is `forgetDisplays`. -/
def State.passNotice (s : State) (p : Pos) (o : PassOutcome) : State :=
  match o with
  | .lost | .newUnit => s.lossNotice p
  | .became => s.zeroLevel p
  | .same | .stillAbsent => s

/-- Pass completion at the composer: every known text of the wing becomes unknown, every transfer is dropped
(08 R156). -/
def State.forgetDisplays (s : State) (w : Wing) : State :=
  let forget := fun (i : Pos) (d : Delivery) =>
    if wingOf i = w then { d with known := none, transfer := none } else d
  { s with disp := { s.disp with delivery := mapAll s.disp.delivery forget } }

/-- The pass completes (01 R9): counts, every position, the wing's state, then all outcomes handed on, the lowest position
first (log 41). A pass with no good marker, or with count 0, finds no unit. -/
def State.finishPass (s : State) (w : Wing) : State :=
  let port := s.wing w
  let count := port.passCount.getD 0
  let outcomes := (numbers 32).map fun i => (wingPos w i, s.pos[wingPos w i].passOutcome (port.found i))
  let decide := fun (p : Pos) (r : PosRec) => if wingOf p = w then r.afterPass (port.found (place p)) else r
  let s1 := { s with pos := mapAll s.pos decide }
  let anyPresent := (numbers 32).any fun i => s1.present (wingPos w i)
  let s2 := s1.setWing w fun q => { q with
    state := if anyPresent then .running else .down, recorded := count, assigned := min 32 count,
    scanPos := 0, passCycle := 0, passCount := none, reports := Vector.replicate 32 none }
  (outcomes.foldl (fun s o => s.passNotice o.1 o.2) s2).forgetDisplays w

/-- The pass's fourth cycle is in progress and the pass has not restarted. -/
def WingPort.passEnds (p : WingPort) : Bool := p.state = .enumerating && p.passCycle = 4

/-- ENUMERATION_PASS_END: the pass completes at the end of its fourth cycle. -/
def State.endPass (s : State) (w : Wing) : State := if (s.wing w).passEnds then s.finishPass w else s

/-! ## The scan (01 R14) -/

/-- After a NORMAL cycle the scan moves to the next assigned position. -/
def WingPort.moveScan (p : WingPort) : WingPort :=
  if p.inUse ∧ p.command = .normal ∧ p.assigned ≠ 0 then
    { p with scanPos := if p.scanPos + 1 < p.assigned then p.scanPos + 1 else 0 }
  else p

/-- The command of the cycle that begins (01 R8, section 1.1; log 31). In its first cycle a pass forgets what an
abandoned pass held. -/
def WingPort.beginCycle (p : WingPort) : WingPort :=
  if p.state = .enumerating then
    if p.passCycle = 0 then
      { p with passCycle := 1, command := .assign, passCount := none, reports := Vector.replicate 32 none }
    else { p with passCycle := min 4 (p.passCycle + 1), command := .identify }
  else { p with command := .normal }

/-! ## Gaps, turns and flashes (05 R102, R104, R109) -/

/-- A gap ends (05 R102). -/
def State.endGap (s : State) (seat : Seat) : State :=
  match (s.micOf seat).state with
  | .opening =>
    let s1 := s.setMic seat fun m => { m with state := .opened, gap := 0, timer := 0, cycles := 0 }
    let s2 := if s.cal.session.runs then s1.setRec (s1.phys seat) fun r => { r with spoke := true } else s1
    s2.evaluateLimit seat
  | .closing => (s.setMic seat fun m => { m with state := .closed, gap := 0 }).reportClosed
  | _ => s

/-- The gap of the seat is at its last boundary (05 R102). -/
def MicRec.gapDue (m : MicRec) : Bool := (m.state = .opening || m.state = .closing) && m.gap ≤ 1

/-- The turn timer advances by one tenth and the limit is evaluated (05 R104, R106). -/
def State.advanceTurn (s : State) (seat : Seat) : State :=
  (s.setMic seat fun m => { m with timer := satAdd m.timer 1, cycles := 0 }).evaluateLimit seat

/-- The next boundary is the 200th of the running tenth (05 R104). -/
def MicRec.turnDue (m : MicRec) : Bool := m.state = .opened && 199 ≤ m.cycles

/-- What a boundary does to the counters of a seat whose gap does not end and whose turn does not advance at it.
`early` says that the seat's own step was already taken for this boundary (log 2). -/
def MicRec.tick (m : MicRec) (early : Bool) : MicRec :=
  let m1 := { m with flash := m.flash - 1 }
  if early || m.gapDue || m.turnDue then m1
  else match m.state with
    | .opening | .closing => { m1 with gap := m.gap - 1 }
    | .opened => { m1 with cycles := m.cycles + 1 }
    | .closed => m1

/-- A boundary at the microphone state block: the counters move, then the due gaps end and the due turns advance, in
increasing order of seat (log 8). A seat that another seat's step has moved meanwhile is passed over. -/
def State.micBoundary (s : State) : State :=
  let due := (numbers 64).filter fun i =>
    !s.early.contains (.mic i) && ((s.micOf i).gapDue || (s.micOf i).turnDue)
  let s1 := { s with mic := { s.mic with recs := mapAll s.mic.recs fun i m => m.tick (s.early.contains (.mic i)) } }
  due.foldl (fun t i =>
    if (t.micOf i).state ≠ (s.micOf i).state then t
    else if (s.micOf i).gapDue then t.endGap i else t.advanceTurn i) s1

/-! ## Messages (08 R158) -/

/-- The message's next step begins, or after its last step the message is gone. -/
def Message.nextStep (m : Message) : Option Message :=
  if m.step < m.text.length + 24 then some { m with step := m.step + 1, counter := 400 } else none

def Message.tick (m : Message) : Option Message :=
  if m.counter ≤ 1 then m.nextStep else some { m with counter := m.counter - 1 }

def State.setMessage (s : State) (seat : Seat) (f : Option Message → Option Message) : State :=
  { s with disp := { s.disp with messages := modify s.disp.messages seat f } }

def State.messageBoundary (s : State) : State :=
  let tick := fun (i : Seat) (m : Option Message) => if s.early.contains (.message i) then m else m.bind Message.tick
  { s with disp := { s.disp with messages := mapAll s.disp.messages tick } }

/-! ## Screen windows (08 R160) -/

/-- A window ends: an entry whose pending mark is yes hands a frame with its latest rendering. The mark is the one that the
latest rendering leaves, after the other steps of the same boundary: yes where it differs from the text last sent, no where
it has come back to it (08 R160; log 17). -/
def State.endWindow (s : State) (e : Fin 4) : State :=
  let s1 := s.refreshScreen e
  let s2 := s1.setScreen e fun sc => { sc with window := 0 }
  if s1.disp.screens[e].pending then s2.offerScreen e else s2

def State.windowBoundary (s : State) (e : Fin 4) : State :=
  let w := s.disp.screens[e].window
  if s.early.contains (.screen e) || w = 0 then s
  else if w = 1 then s.endWindow e
  else s.setScreen e fun sc => { sc with window := w - 1 }

/-- The boundary lowers the windows that ran when it came, in `before`: a window that another step of the same boundary
begins has all its 200 cycles to come. Windows that end together are taken in order of entry (log 17). -/
def State.screenBoundary (s before : State) : State :=
  (numbers 4).foldl (fun t e => if 0 < before.disp.screens[e].window then t.windowBoundary e else t) s

/-! ## The room clock (03 R43, R45) -/

/-- The number of room minutes before the count returns to 0. -/
def minutes : Nat := 4294967296

/-- One tenth later, with the roll into seconds and minutes (03 R43). -/
def RoomTime.next (t : RoomTime) : RoomTime :=
  if t.tenth < 9 then { t with tenth := t.tenth + 1 }
  else if t.second < 59 then { t with second := t.second + 1, tenth := 0 }
  else { minute := (t.minute + 1) % minutes, second := 0, tenth := 0 }

/-- The roll of the minute to 0 is a backward step, and CLOSING holds a step pending (03 R43, R64; log 34). -/
def State.holdRoll (s : State) (now : RoomTime) : State :=
  if now.minute < s.clock.now.minute ∧ s.cal.session = .closing then { s with cal := { s.cal with stepPending := true } }
  else s

/-- The clock advances one tenth; a change of the minute causes an evaluation (03 R43, R52). -/
def State.advanceClock (s : State) : State :=
  let t := s.clock.now.next
  let s1 := { s.holdRoll t with clock := { s.clock with now := t, cycles := 0, age := satAdd s.clock.age 1 } }
  if t.minute ≠ s.clock.now.minute then s1.evaluate else s1

/-- The sync state becomes HOLDOVER when the sync age has reached 36,000 tenths in SYNCED (03 R45). -/
def Clock.holdover (c : Clock) : Clock :=
  if c.sync = .synced ∧ 36000 ≤ c.age then { c with sync := .holdover } else c

def State.clockBoundary (s : State) : State :=
  let s1 :=
    if s.early.contains .tenth then s
    else if 199 ≤ s.clock.cycles then s.advanceClock
    else { s with clock := { s.clock with cycles := s.clock.cycles + 1 } }
  { s1 with clock := s1.clock.holdover }

/-! ## The stagger (10 R179) -/

def State.staggerBoundary (s : State) : State :=
  if s.mgmt.engine ≠ .stagger ∨ s.early.contains .stagger then s
  else if s.mgmt.stagger ≤ 1 then s.offerReply
  else s.setMgmt fun m => { m with stagger := m.stagger - 1 }

/-! ## Voice operation in a cycle (04 R80, R81; 07 R140) -/

/-- Seats in order of envelope, highest first; among equal envelopes the lower seat first (04 R80). -/
def insertByEnvelope (env : Seat → Nat) (x : Seat) : List Seat → List Seat
  | [] => [x]
  | y :: ys => if env y < env x then x :: y :: ys else y :: insertByEnvelope env x ys

def byEnvelope (env : Seat → Nat) (xs : List Seat) : List Seat := xs.foldl (fun acc x => insertByEnvelope env x acc) []

/-- One seat whose voice-start holds is considered (04 R80). `seen` says that it held in the previous cycle too. -/
def State.voiceTry (seen : Seat → Bool) (s : State) (seat : Seat) : State :=
  if s.holds seat || s.floor.blocked[seat] || s.answer seat ≠ .admitted || s.store.halted then s
  else match s.cal.session with
    | .inSession => if s.room seat then s.grantSeat seat .voice else s
    | .grace => if seen seat then s else s.refuse seat .sessionEnding .voice
    | _ => s

/-- The conditions of a cycle are handed to the floor controller: in VOICE mode the voice-idle removals, oldest entry first,
then the voice grants (log 8, log 42); then every voice-seen mark. -/
def State.voiceCycle (s : State) : State :=
  let s2 :=
    if s.floor.mode = .voice then
      let idle := (s.floor.openList.map (·.seat)).filter s.voiceIdle
      let s1 := idle.foldl (fun t seat => t.removeEntry seat .voiceIdle) s
      let starting := byEnvelope s.envelope ((numbers 64).filter s.voiceStart)
      starting.foldl (State.voiceTry fun i => s.floor.seen[i]) s1
    else s
  s2.setFloor fun f => { f with seen := Vector.ofFn s.voiceStart }

/-! ## The cycle that begins (01 R19; 05 R103; 08 R153; 09 R168, R170) -/

/-- The facts the mix engine is given for the cycle, and the live tables and the mapping in force for it (05 R103,
06 R113, R131). -/
def State.latchFacts (s : State) : State :=
  { s with
    mic := { s.mic with recs := mapAll s.mic.recs fun i m =>
      { m with cycleOpen := m.state = .opened, cycleDuck := s.duckClass s.mix.live.neighbours i } },
    mix := { s.mix with cycleLive := s.mix.live, cycleChair := s.seats.chair } }

/-- The port gives the mix engine the block of the cycle (09 R168). -/
def State.giveReturn (s : State) : State :=
  match s.link.buffer with
  | b :: rest => { s with link := { s.link with buffer := rest }, mix := { s.mix with cycleReturn := b } }
  | [] =>
    let c := s.link.counters
    { s with
      link := if s.link.learnt then { s.link with counters := { c with returnGaps := satAdd c.returnGaps 1 } } else s.link
      mix := { s.mix with cycleReturn := silence } }

/-- The four steps of 08 R153 for one delivery record, given its target. -/
def Delivery.settle (d : Delivery) (target : Text) : Delivery :=
  match d.transfer with
  | some t =>
    if t.text = target then d
    else if d.known = some target then { d with transfer := none }
    else { d with transfer := some ⟨target, 0⟩ }
  | none => if d.known = some target then d else { d with transfer := some ⟨target, 0⟩ }

/-- Chunk `i` of a text: characters 4i to 4i + 3 (08 section 8.3). -/
def chunkOf (t : Text) (i : Nat) : Text := (t.drop (4 * i)).take 4

def Delivery.chunk (d : Delivery) : Option (Nat × Text) := d.transfer.map fun t => (t.next, chunkOf t.text t.next)

/-- Display chunks go to the position in this cycle: none while the table is halted (08 R153, R156), where 07 R142 lets the
shown meters go on (log 52, DEDUCED: the renderings alone follow). -/
def State.sendsChunks (s : State) (p : Pos) : Bool := s.live p && !s.store.halted

/-- TRANSFER_SETTLE: every transfer is settled, and it is recorded which slots carry a chunk (08 R153, R154). -/
def State.settleTransfers (s : State) : State :=
  let settle := fun (p : Pos) (d : Delivery) =>
    if s.sendsChunks p then
      let d' := d.settle (s.rendering (s.logical p))
      { d' with carried := d'.transfer.isSome }
    else { d with carried := false }
  { s with disp := { s.disp with delivery := mapAll s.disp.delivery settle } }

/-- The loudspeaker enable of a position (01 R19, 06 R123). -/
def State.speakerOn (s : State) (p : Pos) : Bool := s.live p && !s.store.halted

/-- The downstream slot of a position in the cycle that begins (01 R8, R12, R19), given the feed of its seat. A DOWN wing
has silent slots with a control part too (log 31). -/
def State.downSlot (s : State) (feed : Seat → Block) (p : Pos) : DownSlot :=
  if (s.wing (wingOf p)).state = .enumerating then ⟨silence, none⟩
  else if s.present p then
    { samples := if s.speakerOn p then feed (s.logical p) else silence
      control := some { indicator := s.indicator (s.logical p)
                        chunk := if s.sendsChunks p then (s.disp.delivery[p]).chunk else none
                        enable := s.speakerOn p } }
  else DownSlot.silent

/-- The room send goes out (06 R122, 09 R170). -/
def State.sendsRoom (s : State) : Bool :=
  s.link.audioDest.isSome && (if s.cal.session.isActive then s.mix.roomSend else s.cfg.sendIdle) && s.link.up

/-- An AUDIO_OUT frame goes on the line ahead of every queued frame whose sending has not begun, and follows one whose
sending has begun, with the clips of its room send (09 R170; log 23). -/
def Link.sendAudio (l : Link) (f : Frame) (clips : Nat) : Link :=
  if l.begun then { l with held := l.held ++ [⟨f, clips⟩] } else { l with line := l.line ++ [f] }

/-- The port at the start of a cycle: nothing has gone on the line yet; an AUDIO_OUT frame that was built goes, and the
block counter moves on (09 R170). -/
def Link.sendCycle (l : Link) (frame : Option Frame) (clips : Nat) : Link :=
  let l1 := { l with line := [] }
  match frame with
  | some f => { l1.sendAudio f clips with outCounter := (l.outCounter + 1) % 65536 }
  | none => l1

/-- The slots and the AUDIO_OUT frame of the cycle that begins. `t` is the state that the mix of the cycle that ends was
computed from. Clips are counted for what is sent (06 R120, R121, R123): those of an AUDIO_OUT frame here where it goes on
the line, and with FRAME_SENT where it follows a frame whose sending has begun (`State.countHeld`). -/
def State.sendCycle (s t : State) : State :=
  let frame := match s.sendsRoom, s.link.audioDest with
    | true, some d => some (⟨d, s.link.station, .audioOut, be16 s.link.outCounter ++ blockBytes t.send⟩ : Frame)
    | _, _ => none
  { s with
    out := { down := Vector.ofFn (s.downSlot t.feed), audioOut := frame }
    mix := { s.mix with
      outClips := mapAll s.mix.outClips fun i n => if s.speakerOn (s.phys i) then satAdd n (t.feedClips i) else n
      sendClips := if frame.isSome ∧ s.link.begun = false then satAdd s.mix.sendClips t.sendClipCount else s.mix.sendClips }
    link := s.link.sendCycle frame t.sendClipCount }

/-- Nothing of the new cycle has been received yet. -/
def State.clearSlots (s : State) : State :=
  { s with pos := mapAll s.pos fun _ r => { r with slot := .notTaken, block := silence, answer := none, event := none },
           early := [] }

/-! ## The whole boundary (log 8) -/

/-- What the good slots of the cycle carry and no command has taken, in order of position (01 R14, R18; log 30). -/
def State.takeSlots (s : State) : State := (numbers 64).foldl State.slotEvent s

/-- The end of the cycle in progress: the status words and presses still to take, the voice conditions, the end of a
pass, the move of the scan. -/
def State.endCycle (s : State) : State :=
  let s1 := ((s.takeSlots.voiceCycle).endPass .a).endPass .b
  (s1.setWing .a WingPort.moveScan).setWing .b WingPort.moveScan

/-- Every step due at the boundary. -/
def State.boundary (s : State) : State :=
  ((s.transferDue.micBoundary.messageBoundary).screenBoundary s).clockBoundary.staggerBoundary

/-- The cycle that begins. `t` is the state the mix of the cycle that ends was computed from. -/
def State.beginCycle (s t : State) : State :=
  let s1 := (s.setWing .a WingPort.beginCycle).setWing .b WingPort.beginCycle
  ((s1.latchFacts.giveReturn.settleTransfers).sendCycle t).clearSlots

/-- CHAIN_CYCLE: a restart that is due, the end of the cycle in progress, the boundary, the cycle that begins. -/
def State.cycle (s : State) : State :=
  let s0 := s.takeRestart
  ((s0.endCycle.boundary).beginCycle s0).refreshScreens

end Sys2Proof.Machine
end

