-- ==== Sys2Proof/Machine/Chain.lean ====
section
/-! DEFINITION. The events of the chain ports: carrier, slots, markers (01 R2–R12), and the meanings of the rows that take
the status word and the press of a slot. -/

namespace Sys2Proof.Machine

/-- At the end of a command room screens are rendered again (08 R152; log 17), and the head of the transmit queue begins
to be sent where the line is free (09 R171; log 23). -/
def ok (s : State) : Result := .next s.refreshScreens.startSending

/-- A part without power takes no event but POWER_ON (log 22). -/
def whenPowered (s : State) (f : State → State) : Result := if s.powered then ok (f s) else .next s

/-! ## Carrier (01 R5) -/

def State.carrierGain (s : State) (w : Wing) : State :=
  (s.setWing w fun p => { p with carrier := true }).startPass w

/-- Every position of the wing becomes ABSENT with its serial kept, the wing goes DOWN, and each loss of a PRESENT
position is told with the cause CARRIER (01 R5, R13); the lowest position first, each to all blocks in turn (log 41). -/
def State.carrierLoss (s : State) (w : Wing) : State :=
  let lost := ((numbers 32).map (wingPos w)).filter s.present
  let drop := fun (p : Pos) (r : PosRec) => if wingOf p = w then r.lose else r
  let s1 := { s with pos := mapAll s.pos drop }
  let s2 := s1.setWing w fun p => { p with
    state := .down, carrier := false, recorded := 0, assigned := 0, passCycle := 0, passCount := none,
    reports := Vector.replicate 32 none }
  lost.foldl State.lossNotice s2

/-! ## Upstream slots (01 R2, R8, R11, R12, R14, R18, R20; 08 R154) -/

/-- A transfer after the report of its chunk (08 R154). A report whose transfer HALT dropped within the cycle changes neither
the transfer nor the known text, chunk 11 included (R156 keeps known texts; log 51, DESIGN CHOICE). -/
def Delivery.report (d : Delivery) (delivered : Bool) : Delivery :=
  match d.carried, d.transfer with
  | true, some t =>
    if delivered then
      if t.next < 11 then { d with carried := false, transfer := some { t with next := t.next + 1 } }
      else { known := some t.text, carried := false, transfer := none }
    else if t.next < 11 then { d with carried := false, transfer := some { t with next := 0 } }
    else { known := none, carried := false, transfer := some { t with next := 0 } }
  | _, _ => { d with carried := false }

def State.chunkReport (s : State) (p : Pos) (delivered : Bool) : State :=
  { s with disp := { s.disp with delivery := modify s.disp.delivery p (Delivery.report · delivered) } }

/-- The level detector takes the block (07 R135). -/
def State.levelBlock (s : State) (p : Pos) (b : Block) : State :=
  { s with level := modify s.level p fun l => l.take s.cfg b }

/-- A good slot of a PRESENT position in use: its block is handed on and the loss count returns to 0 (01 R2, R11). Its
press, and its status word where the header named the position, are there to be taken (01 R14, R18). -/
def State.goodSlot (s : State) (p : Pos) (u : UpSlot) : State :=
  let carried := fun (r : PosRec) =>
    { r with slot := .good, block := u.block, loss := 0, answer := if s.scanned p then u.answer else none, event := u.press }
  (((s.setPos p carried).levelBlock p u.block).chunkReport p true)

/-- A bad slot of a PRESENT position in use: a zero block, and the third in a row is a loss with cause SLOT
(01 R2, R11). -/
def State.badSlot (s : State) (p : Pos) : State :=
  let silent := fun (r : PosRec) => { r with slot := .bad, block := silence, answer := none, event := none }
  let s1 := ((s.setPos p silent).levelBlock p silence).chunkReport p false
  if s.pos[p].loss < 2 then s1.setPos p fun r => { r with loss := r.loss + 1 }
  else
    let s2 := s1.setPos p PosRec.lose
    let s3 := s2.setWing (wingOf p) fun q => if q.state = .running then { q with state := .degraded } else q
    s3.lossNotice p

/-- An IDENTIFY report of a position during a pass (01 R8): the latest good slot's serial is kept. -/
def State.identify (s : State) (p : Pos) (u : UpSlot) : State :=
  if (s.wing (wingOf p)).command = .identify ∧ 2 ≤ (s.wing (wingOf p)).passCycle ∧ u.status = 2 then
    s.setWing (wingOf p) fun q => { q with reports := q.reports.set (place p) (some u.serial) }
  else s

/-- An upstream slot is taken as good or bad (01 R2). On a wing in a pass it is an IDENTIFY report at most; where the pass
was started within a NORMAL cycle, the chunk of that cycle still has its report (01 R20). A slot of an ABSENT position,
or of a wing that is DOWN, is not taken (01 R12, 06 R114). -/
def State.upstreamSlot (s : State) (p : Pos) (raw : List Byte) : State :=
  if (s.wing (wingOf p)).state = .enumerating then
    match readUpSlot raw with
    | some u => (s.identify p u).chunkReport p true
    | none => s.chunkReport p false
  else if s.live p then
    match readUpSlot raw with
    | some u => s.goodSlot p u
    | none => s.badSlot p
  else s

/-! ## Wing-end markers (01 R3, R7, R8) -/

/-- A good marker with its count. -/
def State.marker (s : State) (w : Wing) (count : Nat) : State :=
  let p := s.wing w
  match p.state with
  | .running | .degraded => if count ≠ p.recorded then s.startPass w else s
  | .down => if p.carrier ∧ count ≠ 0 then s.startPass w else s
  | .enumerating =>
    if p.passCycle = 0 then s
    else if p.passCycle = 1 then s.setWing w fun q => { q with passCount := some count }
    else if p.passCount = some count then s
    else s.startPass w

def State.wingEndMarker (s : State) (w : Wing) (raw : List Byte) : State :=
  match readMarker raw with
  | some count => s.marker w count
  | none => s

/-! ## The meanings -/

/-- CARRIER_GAIN (01 R5). -/
def execCarrierGain (w : Wing) (s : State) : Result := whenPowered s fun s => s.carrierGain w

/-- CARRIER_LOSS (01 R5). -/
def execCarrierLoss (w : Wing) (s : State) : Result := whenPowered s fun s => s.carrierLoss w

/-- UPSTREAM_SLOT (01 R2). -/
def execUpstreamSlot (p : Pos) (raw : List Byte) (s : State) : Result := whenPowered s fun s => s.upstreamSlot p raw

/-- WING_END_MARKER (01 R7). -/
def execWingEndMarker (w : Wing) (raw : List Byte) (s : State) : Result := whenPowered s fun s => s.wingEndMarker w raw

/-- STATUS_WORD (01 R15): the slot of the position carries this status word (log 30). -/
def execStatusWord (p : Pos) (card : Option Key) (serial : Serial) (s : State) : Result :=
  whenPowered s fun s => if s.pos[p].answer = some (card, serial) then s.slotAnswer p else s

/-- BUTTON (04 R74): the slot of the position carries a press of the request button (01 R18; log 30). -/
def execButton (p : Pos) (s : State) : Result :=
  whenPowered s fun s => if s.pos[p].event = some .button then s.slotEvent p else s

/-- PRIORITY (04 R82): the slot of the position carries a press of the priority button. -/
def execPriority (p : Pos) (s : State) : Result :=
  whenPowered s fun s => if s.pos[p].event = some .priority then s.slotEvent p else s

end Sys2Proof.Machine
end

