-- ==== Sys2Proof/Machine/RoomLink.lean ====
section
/-! DEFINITION. The room link: the receive filter (09 R163, R164), the audio return (R167), TIME frames (03 R44, R46),
requests (10 R175, R176), sending (09 R172) and the link state (R173). -/

namespace Sys2Proof.Machine

/-! ## The receive filter -/

/-- The counter a dropped frame raises (09 Table 9-2, R164). -/
inductive Drop
  | runts | oversize | crc | length | address | kind | time
  deriving DecidableEq, Repr

/-- What the receive filter makes of a frame. -/
inductive Filtered
  | dropped (d : Drop)
  | audioIn (counter : Nat) (block : Block)
  | time (t : RoomTime)
  | request (r : Request)
  deriving DecidableEq, Repr

/-- The payload sizes allowed for a kind at check 4 (09 R164). -/
def sizeAllowed (kind n : Nat) : Bool :=
  if kind = 0x01 then n = 34 else if kind = 0x03 then n = 6 else true

/-- The destination is the hub's (09 Table 9-2 check 5). -/
def Link.accepts (l : Link) (dest : Addr) : Bool :=
  dest = l.station || dest = broadcast || l.groups.toList.contains (some dest)

/-- Checks 1 to 6 in their order, and the checks of the kinds (09 R163, R164). -/
def Link.filter (l : Link) (raw : List Byte) : Filtered :=
  let size := raw.length
  let dest := BitVec.ofNat 48 (field raw 0 6)
  let kind := field raw 12 1
  let payload := (raw.drop 16).take (size - 20)
  if size < 20 then .dropped .runts
  else if 1020 < size then .dropped .oversize
  else if !crcAgrees raw then .dropped .crc
  else if field raw 14 2 ≠ size - 20 ∨ !sizeAllowed kind (size - 20) then .dropped .length
  else if !l.accepts dest then .dropped .address
  else if kind = 0x01 then
    if dest = l.station then .audioIn (field payload 0 2) (blockAt payload 2) else .dropped .kind
  else if kind = 0x03 then
    let t : RoomTime := ⟨field payload 0 4, field payload 4 1, field payload 5 1⟩
    if 59 < t.second ∨ 9 < t.tenth then .dropped .time else .time t
  else if kind = 0x04 then
    .request { source := BitVec.ofNat 48 (field raw 6 6), group := dest ≠ l.station, payload := payload }
  else .dropped .kind

def LinkCounters.count (c : LinkCounters) : Drop → LinkCounters
  | .runts => { c with runts := satAdd c.runts 1 }
  | .oversize => { c with oversize := satAdd c.oversize 1 }
  | .crc => { c with crcErrors := satAdd c.crcErrors 1 }
  | .length => { c with lengthErrors := satAdd c.lengthErrors 1 }
  | .address => { c with addressMisses := satAdd c.addressMisses 1 }
  | .kind => { c with kindRejects := satAdd c.kindRejects 1 }
  | .time => { c with timeRejects := satAdd c.timeRejects 1 }

/-! ## The audio return (09 R167) -/

/-- A block joins the return buffer at the newer end; a full buffer discards its older block. -/
def Link.join (l : Link) (b : Block) : Link :=
  if l.buffer.length < 2 then { l with buffer := l.buffer ++ [b] }
  else { l with buffer := l.buffer.tail ++ [b],
                counters := { l.counters with returnOverruns := satAdd l.counters.returnOverruns 1 } }

/-- An accepted AUDIO_IN frame with block counter `k` (09 R167). -/
def Link.audioIn (l : Link) (k : Nat) (b : Block) : Link :=
  let next := { l with learnt := true, expected := (k + 1) % 65536 }
  if !l.learnt then next.join b
  else
    let d := (k + 65536 - l.expected) % 65536
    if d = 0 then next.join b
    else if d ≤ 32767 then
      ({ next with counters := { l.counters with returnGaps := satAdd l.counters.returnGaps d } }).join b
    else { l with counters := { l.counters with lateBlocks := satAdd l.counters.lateBlocks 1 } }

/-! ## TIME frames (03 R44, R46) -/

/-- A record is placed in start order; an ACTIVE record stands before a record of equal start (03 R47). -/
def Booking.precedes (a b : Booking) : Bool :=
  a.start < b.start || (a.start = b.start && (a.active || !b.active))

def placeBooking (b : Booking) : List Booking → List Booking
  | [] => [b]
  | x :: xs => if b.precedes x then b :: x :: xs else x :: placeBooking b xs

/-- The first TIME frame in UNSYNCED moves the ACTIVE booking into the new time (03 R46). The clock already reads the new
time; `old` is the minute before the frame. -/
def State.moveAdhoc (s : State) (old : Nat) : State :=
  match s.activeBooking with
  | none => s
  | some b =>
    let now := s.clock.now.minute
    let s1 := s.removeMissed
    let finish := now + (b.finish - old)
    let cut := match s1.nextBooking with
      | some n => if n.start < finish then max n.start now else finish
      | none => finish
    let moved := { b with start := now, duration := cut - now }
    let others := s1.cal.bookings.filter fun r => !r.active
    { s1 with cal := { s1.cal with bookings := placeBooking moved others, actualStart := s1.clock.now } }

/-- A TIME frame taken (03 R44): the clock takes the time, and the calendar evaluates at it. In CLOSING the step is held
pending (03 R59). -/
def State.takeTime (s : State) (t : RoomTime) : State :=
  let s1 := { s with clock := { now := t, cycles := 0, sync := .synced, age := 0 } }
  if s.cal.session = .closing then { s1 with cal := { s1.cal with stepPending := true } }
  else (if s.clock.sync = .unsynced then s1.moveAdhoc s.clock.now.minute else s1).evaluate

/-! ## Requests (10 R175, R176) -/

/-- A request handed on joins the queue, or is dropped and counted when four are held (10 R175). -/
def Mgmt.join (m : Mgmt) (r : Request) : Mgmt :=
  if m.requests.length < 4 then
    { m with requests := m.requests ++ [r], engine := if m.requests.isEmpty then .executing else m.engine }
  else { m with dropped := satAdd m.dropped 1 }

/-- A malformed request (10 R176). -/
def State.malformedRequest (s : State) (payload : List Byte) : State :=
  let s1 := s.setMgmt fun m => { m with malformed := satAdd m.malformed 1 }
  if malformedSilent payload then s1.setMgmt Mgmt.leaveHead
  else s1.reply (replyPayload (malformedTag payload) .malformed 0 0 [] [])

/-- The operation in hand is an ACTION whose code names no action (10 R181 check 1). -/
def State.unknownAction (s : State) : Option Op :=
  match s.mgmt.hand.bind fun h => h.ops.head? with
  | some (.action code args) => if (Action.ofCode code.toNat).isNone then some (.action code args) else none
  | _ => none

/-- The engine takes the head request and checks its payload (10 R175, R176). An ACTION in hand that names no action has
no command of its own: it is executed here, and fails BAD_VALUE (10 R181; log 36). -/
def State.takeRequest (s : State) : State :=
  match s.mgmt.engine, s.mgmt.hand, s.mgmt.restart, s.mgmt.requests with
  | .executing, none, .none, r :: _ =>
    match parseRequest r.payload with
    | some h => s.setMgmt fun m => { m with hand := some h }
    | none => s.malformedRequest r.payload
  | .executing, some _, .none, _ =>
    match s.unknownAction with
    | some op => State.finishOp op (fail s .badValue)
    | none => s
  | _, _, _, _ => s

/-! ## Sending (09 R171, R172) -/

/-- The waiting screen entry whose turn it is: from the entry after the one last admitted, from 3 back to 0. -/
def State.nextScreen (s : State) : Option (Fin 4) :=
  let l := s.link.lastAdmitted
  [l + 1, l + 2, l + 3, l].find? fun e => s.disp.screens[e].waiting

/-- The place that a completed frame frees goes to a waiting reply, otherwise to a waiting screen frame (09 R172). -/
def State.fillPlace (s : State) : State :=
  if s.mgmt.engine = .replyWait then s.admitReply
  else match s.nextScreen with
    | some e => ({ s with link := { s.link with lastAdmitted := e } }).admitScreen e
    | none => s

/-- The head of the queue leaves; the AUDIO_OUT frames that had to follow it go on the line (09 R170, R171). The conditions of
the room send are those of the cycle in which a frame was built (R170), and are not tested again when a held frame goes on
the line: 06 R122 says 'at the moment of sending' and leaves open whether that is this moment too (DESIGN CHOICE, log 23). -/
def Link.headSent (l : Link) : Link :=
  { l with queue := l.queue.tail, begun := false, line := l.line ++ l.held.map (·.frame), held := [] }

/-- The clips of the held AUDIO_OUT frames. -/
def Link.heldClips (l : Link) : Nat := (l.held.map (·.clips)).sum

/-- The clips of the held AUDIO_OUT frames are counted, as these go on the line: a frame that is never sent counts none
(06 R121). -/
def State.countHeld (s : State) : State :=
  if s.link.held = [] then s
  else { s with mix := { s.mix with sendClips := satAdd s.mix.sendClips s.link.heldClips } }

/-- The frame at the head of the queue completes its sending, while the link is UP (09 R171). A restart that is due has
taken effect before it: the reply to RESTART, and the frames ahead of it, are sent after that (09 R171; log 5). -/
def State.frameSent (s : State) : State :=
  if s.link.up ∧ s.link.queue ≠ [] then
    let s1 := s.takeRestart.startSending.countHeld
    ({ s1 with link := s1.link.headSent }).fillPlace
  else s

/-! ## The link state (09 R173) -/

def State.linkUp (s : State) : State :=
  if s.link.up then s else ({ s with link := { s.link with up := true } }).storeInvalidNotice

/-- The sending of a queued frame ends, and the frame stays at the head to be sent in full. An AUDIO_OUT frame that was to
follow it is not sent, and its clips are not counted (06 R121; log 23). -/
def State.linkDown (s : State) : State :=
  if s.link.up then
    { s with link := { s.link.unlearn with
        up := false
        begun := false
        held := []
        counters := { s.link.counters with linkLosses := satAdd s.link.counters.linkLosses 1 } } }
  else s

/-! ## The meanings. While the link is DOWN no frame is received (09 R173). A frame that the filter makes something else
of than the row's own event changes nothing (log 7). -/

def whenReceived (s : State) (raw : List Byte) (f : State → Filtered → State) : Result :=
  whenPowered s fun s => if s.link.up then f s (s.link.filter raw) else s

/-- LINK_UP (09 R173). -/
def execLinkUp (s : State) : Result := whenPowered s State.linkUp

/-- LINK_DOWN (09 R173). -/
def execLinkDown (s : State) : Result := whenPowered s State.linkDown

/-- FRAME_DROPPED (09 R163). -/
def execFrameDropped (raw : List Byte) (s : State) : Result :=
  whenReceived s raw fun s r => match r with
    | .dropped d => { s with link := { s.link with counters := s.link.counters.count d } }
    | _ => s

/-- AUDIO_IN (09 R167). -/
def execAudioIn (raw : List Byte) (s : State) : Result :=
  whenReceived s raw fun s r => match r with
    | .audioIn k b => { s with link := s.link.audioIn k b }
    | _ => s

/-- TIME (03 R44). -/
def execTime (raw : List Byte) (s : State) : Result :=
  whenReceived s raw fun s r => match r with
    | .time t => s.takeTime t
    | _ => s

/-- REQUEST (10 R175). -/
def execRequest (raw : List Byte) (s : State) : Result :=
  whenReceived s raw fun s r => match r with
    | .request q => s.setMgmt fun m => m.join q
    | _ => s

/-- FRAME_SENT (09 R171). -/
def execFrameSent (s : State) : Result := whenPowered s State.frameSent

/-- REQUEST_TAKE (10 R176). -/
def execRequestTake (s : State) : Result := whenPowered s State.takeRequest

end Sys2Proof.Machine
end

