-- ==== Sys2Proof/Machine/Writes.lean ====
section
/-! DEFINITION. The owners of WRITE and of the flag operations, object by object, and the meanings of the rows that are
writes (10 R185, R186; 12 R198). Values are checked as a whole first; an operation that fails stores nothing. -/

namespace Sys2Proof.Machine

/-! ## Taking the values of a WRITE -/

/-- A number brought into a range. -/
def clampTo (lo hi n : Nat) : Nat := max lo (min hi n)

/-- What storing one value answers: the new holder and whether a value was brought into range, or the failure. -/
abbrev Stored (σ : Type) := Except Status (σ × Bool)

/-- Store the values in turn, each against what the ones before it left; the first failure answers for all (log 14). -/
def storeAll {σ : Type} (f : σ → Value → Stored σ) : σ → List Value → Stored σ
  | x, [] => .ok (x, false)
  | x, v :: vs =>
    match f x v with
    | .error e => .error e
    | .ok (y, c) =>
      match storeAll f y vs with
      | .error e => .error e
      | .ok (z, d) => .ok (z, c || d)

/-- The last index of an object for a field (12 Table 12-7). BOOKINGS are indexed by number, which its owner checks; a field
that MIX_STAGED does not hold fails BAD_VALUE at each of the object's entries, 0 to 64 (12 R198; log 33). -/
def lastIndex (o : Object) (fld : Nat) : Nat :=
  match o with
  | .groups | .roomScreens | .counters => 3
  | .destinations => 1
  | .bookings => 65535
  | .rosters => 511
  | .templates => 19
  | .seats => 64
  | .mixStaged | .mixLive => if fld = 0 ∨ fld = 1 ∨ fld = 6 then 63 else if fld < 6 then 0 else 64
  | .wings => 65
  | .ident | .station | .config | .floor | .session | .clock | .lastReport | .store => 0

/-- The common part of every WRITE: the first index, the split into values, every index; then the owner. Bytes that do not
end at a value fail BAD_VALUE before the owner looks a booking up by its number (log 33). -/
def takeValues (o : Object) (index fld : Nat) (vals : List Byte) (s : State) (owner : List Value → OpResult) : OpResult :=
  if lastIndex o fld < index then fail s .badIndex
  else
    match splitValues o index fld vals with
    | .values vs => if vs.any fun v => lastIndex o v.fld < v.index then fail s .badIndex else owner vs
    | _ => fail s .badValue

/-- Answer what storing gave, with the effects of an accepted write. -/
def accept {σ : Type} (s : State) (r : Stored σ) (effects : σ → State) : OpResult :=
  match r with
  | .error e => fail s e
  | .ok (x, c) => done (effects x) c

/-! ## STATION, GROUPS, DESTINATIONS (09 R165, R166) -/

def Link.storeStation (l : Link) (v : Value) : Stored Link :=
  let a := BitVec.ofNat 48 (number v.bytes)
  if isGroup a || a = noAddr then .error .badValue else .ok ({ l with station := a }, false)

def Link.storeGroup (l : Link) (v : Value) : Stored Link :=
  match optAddr (number v.bytes) with
  | some a =>
    if !isGroup a || a = broadcast then .error .badValue
    else .ok ({ l with groups := l.groups.setIfInBounds v.index (some a) }, false)
  | none => .ok ({ l with groups := l.groups.setIfInBounds v.index none }, false)

def Link.storeDestination (l : Link) (v : Value) : Stored Link :=
  let a := optAddr (number v.bytes)
  .ok (if v.index = 0 then { l with noticeDest := a } else { l with audioDest := a }, false)

def State.writeStation (index fld : Nat) (vals : List Byte) (s : State) : OpResult :=
  takeValues .station index fld vals s fun vs =>
    accept s (storeAll Link.storeStation s.link vs) fun l => { s with link := l }

def State.writeGroups (index fld : Nat) (vals : List Byte) (s : State) : OpResult :=
  takeValues .groups index fld vals s fun vs =>
    accept s (storeAll Link.storeGroup s.link vs) fun l => { s with link := l }

/-- A notice destination lets a waiting STORE_INVALID notice go (11 R194). -/
def State.writeDestinations (index fld : Nat) (vals : List Byte) (s : State) : OpResult :=
  takeValues .destinations index fld vals s fun vs =>
    accept s (storeAll Link.storeDestination s.link vs) fun l => ({ s with link := l }).storeInvalidNotice

/-! ## CONFIG (03 R51, 04 R70, 05 R111, 06 R132, 07 R143, 08 R148; 12 Table 12-8) -/

/-- A number stored under an upper limit. -/
def limited (hi n : Nat) (f : Nat → Settings) : Stored Settings := .ok (f (min hi n), decide (hi < n))

/-- A page selection: a seat template number. -/
def pageValue (n : Nat) (f : Fin 16 → Settings) : Stored Settings :=
  match keyOf n with
  | some t => .ok (f t, false)
  | none => .error .badValue

/-- The switch set of CONFIG as a number, and from one. -/
def Settings.switches (c : Settings) : Nat :=
  (if c.replace then 1 else 0) + (if c.autoAdvance then 2 else 0) + (if c.clearQueue then 4 else 0)
    + (if c.sendIdle then 8 else 0) + (if c.autoCommit then 16 else 0)

def Settings.setSwitches (c : Settings) (n : Nat) : Settings :=
  { c with replace := n.testBit 0, autoAdvance := n.testBit 1, clearQueue := n.testBit 2,
           sendIdle := n.testBit 3, autoCommit := n.testBit 4 }

def Settings.store (c : Settings) (v : Value) : Stored Settings :=
  let n := number v.bytes
  match v.fld with
  | 0 => limited 15 n fun x => { c with lead := x }
  | 1 => if 31 < n then .error .badValue else .ok (c.setSwitches n, false)
  | 2 => limited 15 n fun x => { c with openGap := x }
  | 3 => limited 255 n fun x => { c with closeGap := x }
  | 4 => limited 300 n fun x => { c with warnTime := x }
  | 5 => .ok ({ c with kAtt := clampTo 1 255 n }, n = 0 || 255 < n)
  | 6 => .ok ({ c with kRel := clampTo 1 255 n }, n = 0 || 255 < n)
  | 7 => limited 32767 n fun x => { c with openThr := x }
  | 8 => limited 32767 n fun x => { c with closeThr := x }
  | 9 => limited 4000 n fun x => { c with hold := x }
  | 10 => pageValue n fun t => { c with idlePage := t }
  | 11 => pageValue n fun t => { c with armedPage := t }
  | 12 => pageValue n fun t => { c with delegatePage := t }
  | 13 => pageValue n fun t => { c with chairPage := t }
  | 14 => pageValue n fun t => { c with observerPage := t }
  | 15 => pageValue n fun t => { c with guestPage := t }
  | _ => .error .badValue

/-- A detector setting is among the values (07 R143). -/
def wroteDetector (vs : List Value) : Bool := vs.any fun v => 5 ≤ v.fld && v.fld ≤ 9

def wroteField (vs : List Value) (fld : Nat) : Bool := vs.any fun v => v.fld = fld

/-- After the values are stored, close_thr is lowered to open_thr where it stands above it (07 R143). -/
def Settings.settle (c : Settings) (vs : List Value) : Settings × Bool :=
  if wroteDetector vs ∧ c.openThr < c.closeThr then ({ c with closeThr := c.openThr }, true) else (c, false)

/-- The effects of a CONFIG write in the order of the fields: an evaluation for the lead (03 R51), an auto-advance check
for auto_advance at yes (04 R70), a limit evaluation of every seat for warn_time (05 R111), the lowest seat first (log 14). -/
def State.configEffects (s : State) (vs : List Value) : State :=
  let s1 := if wroteField vs 0 then s.evaluate else s
  let s2 := if wroteField vs 1 ∧ s.cfg.autoAdvance then s1.autoAdvance else s1
  if wroteField vs 4 then (numbers 64).foldl State.evaluateLimit s2 else s2

def State.writeConfig (index fld : Nat) (vals : List Byte) (s : State) : OpResult :=
  takeValues .config index fld vals s fun vs =>
    match storeAll Settings.store s.cfg vs with
    | .error e => fail s e
    | .ok (c, clamped) =>
      let r := c.settle vs
      done (({ s with cfg := r.1 }).configEffects vs) (clamped || r.2)

/-! ## BOOKINGS (03 R48, R49) -/

def rosterOf (n : Nat) : Option (Option (Fin 8)) :=
  if h : n < 8 then some (some ⟨n, h⟩) else if n = 0xFF then some none else none

/-- The fields of a record after its number, with steps 1 and 2 of R48: none for a BAD_VALUE, and whether a value was
brought into range. A flag outside the booking flag set is a BAD_VALUE (log 15). -/
def readBooking (num : Nat) (b : List Byte) : Option (Booking × Bool) :=
  match keyOf (field b 8 1), seatOf (field b 9 1), rosterOf (field b 10 1), Mode.ofCode (field b 11 1),
      LimitAction.ofCode (field b 15 1) with
  | some key, some chair, some roster, some mode, some action =>
    if 3 < field b 16 1 then none
    else
      let title := takeIn (b.drop 18)
      let r : Booking :=
        { number := num, start := field b 0 4, duration := clampTo 5 1440 (field b 4 2),
          grace := min 30 (field b 6 2), key := key, guestAdmit := (field b 16 1).testBit 0, chair := chair,
          roster := roster, mode := mode, maxOpen := clampTo 1 6 (field b 12 1),
          speakLimit := min 3600 (field b 13 2), limitAction := action, title := title.take 32,
          roomSend := (field b 16 1).testBit 1, active := false }
      some (r, r.duration != field b 4 2 || r.grace != field b 6 2 || r.maxOpen != field b 12 1
        || r.speakLimit != field b 13 2 || decide (32 < title.length))
  | _, _, _, _, _ => none

/-- Steps 5 and 6 of R48 against the other records. -/
def Booking.conflict (b : Booking) (now : Nat) (others : List Booking) : Option Status :=
  if b.finish ≤ now then some .past
  else if others.any fun r => sharesMinute b.start b.finish r.start r.finish then some .overlap
  else none

/-- An insert (03 R48). -/
def insertBooking (now : Nat) (bs : List Booking) (v : Value) : Stored (List Booking) :=
  match readBooking (field v.bytes 0 2) (v.bytes.drop 2) with
  | none => .error .badValue
  | some (b, c) =>
    if b.number = 0 then .error .badValue
    else if bs.any fun r => r.number = b.number then .error .duplicate
    else if 32 ≤ bs.length then .error .full
    else match b.conflict now bs with
      | some e => .error e
      | none => .ok (placeBooking b bs, c)

/-- A WAITING record is replaced by `b`, which takes its place in start order (03 R49). -/
def replaceBooking (now : Nat) (bs : List Booking) (b : Booking) (c : Bool) : Stored (List Booking) :=
  let others := bs.filter fun r => r.number ≠ b.number
  match b.conflict now others with
  | some e => .error e
  | none => .ok (placeBooking b others, c)

/-- The booking flag set as a number (12 Table 12-8). -/
def Booking.flags (b : Booking) : Nat := (if b.guestAdmit then 1 else 0) + (if b.roomSend then 2 else 0)

/-- A change, a deletion, or a write of the flag set of the record an index names (03 R49, 12 Table 12-8). -/
def changeBooking (now : Nat) (bs : List Booking) (v : Value) : Stored (List Booking) :=
  match bs.find? fun r => r.number = v.index with
  | none => .error .badIndex
  | some r =>
    if r.active then .error .active
    else if v.fld = 0xFE then .ok (bs.filter fun q => q.number ≠ v.index, false)
    else if v.fld = 0x10 then
      let n := number v.bytes
      if 3 < n then .error .badValue
      else replaceBooking now bs { r with guestAdmit := n.testBit 0, roomSend := n.testBit 1 } false
    else
      match readBooking v.index v.bytes with
      | none => .error .badValue
      | some (b, c) => replaceBooking now bs b c

/-- One value of a WRITE to BOOKINGS. Index 0 is the insert index: it takes no delete form and names no record (log 38). -/
def storeBooking (now : Nat) (bs : List Booking) (v : Value) : Stored (List Booking) :=
  if v.index = 0 then
    if v.fld = 0xFF then insertBooking now bs v
    else if v.fld = 0xFE then .error .badValue
    else .error .badIndex
  else changeBooking now bs v

def State.writeBookings (index fld : Nat) (vals : List Byte) (s : State) : OpResult :=
  takeValues .bookings index fld vals s fun vs =>
    accept s (storeAll (storeBooking s.clock.now.minute) s.cal.bookings vs) fun bs =>
      ({ s with cal := { s.cal with bookings := bs } }).evaluate

/-! ## ROSTERS (03 R50) -/

/-- An entry with steps 1 and 2 of R50. -/
def readRosterEntry (b : List Byte) : Option (RosterEntry × Bool) :=
  let n := field b 1 1
  let limit := field b (n + 4) 2
  match seatOf (field b 0 1), keyOf (field b (n + 2) 1), Role.ofCode (field b (n + 3) 1) with
  | some p, some key, some role =>
    let name := takeIn ((b.drop 2).take n)
    some ({ position := p, name := name.take 24, key := key, role := role,
            limit := if limit = 0xFFFF then none else some (min 3600 limit) },
          decide (24 < name.length) || (limit != 0xFFFF && decide (3600 < limit)))
  | _, _, _ => none

/-- Another slot of the roster holds the position. -/
def heldElsewhere (roster : Vector (Option RosterEntry) 64) (slot : Fin 64) (p : Pos) : Bool :=
  (numbers 64).any fun i => i ≠ slot && (roster[i].map (·.position)) = some p

def storeRoster (t : Vector (Vector (Option RosterEntry) 64) 8) (v : Value) :
    Stored (Vector (Vector (Option RosterEntry) 64) 8) :=
  if h : v.index < 512 then
    let r : Fin 8 := ⟨v.index / 64, by omega⟩
    let slot : Fin 64 := ⟨v.index % 64, by omega⟩
    if v.fld = 0xFE then .ok (modify t r fun q => q.set slot none, false)
    else
      match readRosterEntry v.bytes with
      | none => .error .badValue
      | some (e, c) =>
        if heldElsewhere t[r] slot e.position then .error .duplicate
        else .ok (modify t r fun q => q.set slot (some e), c)
  else .error .badIndex

def State.writeRosters (index fld : Nat) (vals : List Byte) (s : State) : OpResult :=
  takeValues .rosters index fld vals s fun vs =>
    accept s (storeAll storeRoster s.cal.rosters vs) fun t => { s with cal := { s.cal with rosters := t } }

/-! ## TEMPLATES and ROOM_SCREENS (08 R147, R159) -/

/-- The most characters a template's source holds (08 Table 8-1). -/
def templateLength (i : Nat) : Nat := if i < 16 then 64 else 160

def storeTemplate (t : Vector Text 20) (v : Value) : Stored (Vector Text 20) :=
  let source := takeIn (v.bytes.drop 1)
  .ok (t.setIfInBounds v.index (source.take (templateLength v.index)), decide (templateLength v.index < source.length))

def State.writeTemplates (index fld : Nat) (vals : List Byte) (s : State) : OpResult :=
  takeValues .templates index fld vals s fun vs =>
    accept s (storeAll storeTemplate s.disp.templates vs) fun t => { s with disp := { s.disp with templates := t } }

/-- The entry starts afresh: a frame that waits for it is dropped, and it sends at once when it is on (08 R159, R160). -/
def storeScreen (t : Vector Screen 4) (v : Value) : Stored (Vector Screen 4) :=
  let n := field v.bytes 6 1
  if h : 16 ≤ n ∧ n < 20 then
    .ok (t.setIfInBounds v.index (Screen.fresh (optAddr (field v.bytes 0 6)) ⟨n - 16, by omega⟩), false)
  else .error .badValue

def State.writeRoomScreens (index fld : Nat) (vals : List Byte) (s : State) : OpResult :=
  takeValues .roomScreens index fld vals s fun vs =>
    accept s (storeAll storeScreen s.disp.screens vs) fun t => ({ s with disp := { s.disp with screens := t } }).refreshScreens

/-! ## SEATS (02 R28, R33, R39, R40) -/

/-- A class override value: a class, or none. -/
def overrideOf (n : Nat) : Option (Option SeatClass) :=
  if n = 0xFF then some none else (SeatClass.ofCode n).map some

/-- A limit override value: none, or seconds brought under 3600. -/
def limitOverrideOf (n : Nat) : Option Nat := if n = 0xFFFF then none else some (min 3600 n)

/-- A value of SEATS that lies outside its field's set. -/
def badSeatValue (v : Value) : Bool :=
  let n := number v.bytes
  if v.index = 64 then 7 < n
  else match v.fld with
    | 0 => 1 < n
    | 1 => (overrideOf n).isNone
    | _ => false

def SeatRec.store (v : Value) (r : SeatRec) : SeatRec :=
  let n := number v.bytes
  match v.fld with
  | 0 => { r with seatMute := n = 1, changed := true }
  | 1 => { r with classOverride := (overrideOf n).getD none, changed := true }
  | _ => { r with limitOverride := limitOverrideOf n, changed := true }

/-- The mute flag set of the table-wide entry as a number, and from one. -/
def SeatTable.mutes (t : SeatTable) : Nat :=
  (if t.sessionMute then 1 else 0) + (if t.wingAMute then 2 else 0) + (if t.wingBMute then 4 else 0)

def SeatTable.setMutes (t : SeatTable) (n : Nat) : SeatTable :=
  { t with sessionMute := n.testBit 0, wingAMute := n.testBit 1, wingBMute := n.testBit 2 }

/-- One accepted value is stored in the record the mapping gives, or in the table-wide entry. -/
def State.storeSeat (s : State) (v : Value) : State :=
  match seatOf v.index with
  | some seat => s.setRec (s.phys seat) (SeatRec.store v)
  | none => { s with seats := s.seats.setMutes (number v.bytes) }

/-- What follows from one stored value; `before` is the state before the operation (02 R27, R28, R31, R40). -/
def State.seatEffect (before s : State) (v : Value) : State :=
  match seatOf v.index, v.fld with
  | some seat, 1 => (s.classChange seat (before.classOf seat)).permissionChange seat (before.permitted seat)
  | some seat, 2 => s.evaluateLimit seat
  | _, _ => s

/-- A limit override above 3600. -/
def clampedSeatValue (v : Value) : Bool := v.fld = 2 && number v.bytes != 0xFFFF && decide (3600 < number v.bytes)

/-- Values are checked before the session state, and all before any is stored. -/
def State.writeSeats (index fld : Nat) (vals : List Byte) (s : State) : OpResult :=
  takeValues .seats index fld vals s fun vs =>
    if vs.any badSeatValue then fail s .badValue
    else if fld ≠ 0 ∧ !s.cal.session.isActive then fail s .noSession
    else done (vs.foldl (State.seatEffect s) (vs.foldl State.storeSeat s)) (vs.any clampedSeatValue)

/-! ## FLOOR (04 R88, R89) -/

/-- A write of the mode (04 R88). -/
def State.setMode (s : State) (m : Mode) : State :=
  if s.floor.mode = m then s
  else
    let s1 := s.setFloor fun f => { f with mode := m, blocked := Vector.replicate 64 false }
    let clears := (s.floor.mode = .queue ∧ m = .openFloor) ∨ m = .voice
    (if clears then s1.clearQueue .mode else s1).autoAdvance

/-- A write of max_open (04 R89). -/
def State.setMaxOpen (s : State) (n : Nat) : State :=
  ((s.setFloor fun f => { f with maxOpen := clampTo 1 6 n }).reduceOpen).autoAdvance

def State.storeFloor (s : State) (v : Value) : Stored State :=
  let n := number v.bytes
  if v.fld = 0 then
    match Mode.ofCode n with
    | some m => .ok (s.setMode m, false)
    | none => .error .badValue
  else .ok (s.setMaxOpen n, n = 0 || 6 < n)

def State.writeFloor (index fld : Nat) (vals : List Byte) (s : State) : OpResult :=
  takeValues .floor index fld vals s fun vs => accept s (storeAll State.storeFloor s vs) id

/-! ## MIX_STAGED (06 R125, R126) -/

/-- A slot value: a position, or none. -/
def slotOf (b : Byte) : Option (Option Pos) :=
  if b.toNat = 0xFF then some none else (seatOf b.toNat).map some

/-- The four slots of the list of position `p`, or none where a slot is invalid (06 R126). -/
def readNeighbours (p : Nat) (bs : List Byte) : Option (Vector (Option Pos) 4) :=
  match slotOf (byteAt bs 0), slotOf (byteAt bs 1), slotOf (byteAt bs 2), slotOf (byteAt bs 3) with
  | some a, some b, some c, some d =>
    let named := [a, b, c, d].filterMap id
    if named.any (·.val = p) || !decide named.Nodup then none else some #v[a, b, c, d]
  | _, _, _, _ => none

def MixTables.store (t : MixTables) (v : Value) : Stored MixTables :=
  let n := number v.bytes
  match v.fld with
  | 0 => .ok ({ t with gin := t.gin.setIfInBounds v.index (min 8191 n) }, decide (8191 < n))
  | 1 => .ok ({ t with gout := t.gout.setIfInBounds v.index (min 8191 n) }, decide (8191 < n))
  | 2 => .ok ({ t with duckOwn := min 4096 n }, decide (4096 < n))
  | 3 => .ok ({ t with duckNear := min 4096 n }, decide (4096 < n))
  | 4 => .ok ({ t with returnGain := min 8191 n }, decide (8191 < n))
  | 5 => .ok ({ t with sendGain := min 8191 n }, decide (8191 < n))
  | _ =>
    match readNeighbours v.index v.bytes with
    | some l => .ok ({ t with neighbours := t.neighbours.setIfInBounds v.index l }, false)
    | none => .error .badValue

/-- The write of an input or output gain is reported to the seat table (06 R125, 02 R39). -/
def State.gainMark (s : State) (v : Value) : State :=
  match seatOf v.index with
  | some seat => if v.fld ≤ 1 then s.setRec (s.phys seat) fun r => { r with changed := true } else s
  | none => s

/-- The request in hand has stored a staged value (06 R128). -/
def State.markStaged (s : State) (staged : Bool) : State :=
  s.setMgmt fun m => { m with hand := m.hand.map fun h => { h with staged := staged } }

def State.writeMixStaged (index fld : Nat) (vals : List Byte) (s : State) : OpResult :=
  takeValues .mixStaged index fld vals s fun vs =>
    accept s (storeAll MixTables.store s.mix.staged vs) fun t =>
      vs.foldl State.gainMark (({ s with mix := { s.mix with staged := t, pending := true } }).markStaged true)

/-! ## Any object -/

/-- The owner of a WRITE (10 R185). A read-only object is turned away before its owner (10 R181); COUNTERS holds no
writable field. -/
def State.writeObject (o : Object) (index fld : Nat) (vals : List Byte) (s : State) : OpResult :=
  match o with
  | .station => s.writeStation index fld vals
  | .groups => s.writeGroups index fld vals
  | .destinations => s.writeDestinations index fld vals
  | .config => s.writeConfig index fld vals
  | .bookings => s.writeBookings index fld vals
  | .rosters => s.writeRosters index fld vals
  | .templates => s.writeTemplates index fld vals
  | .roomScreens => s.writeRoomScreens index fld vals
  | .seats => s.writeSeats index fld vals
  | .mixStaged => s.writeMixStaged index fld vals
  | .floor => s.writeFloor index fld vals
  | .ident | .mixLive | .session | .clock | .wings | .counters | .lastReport | .store =>
    takeValues o index fld vals s fun _ => fail s .badValue

/-- The owner of a WRITE whose object is named by its code. -/
def State.writeByCode (obj : Byte) (index : BitVec 16) (fld : Byte) (vals : List Byte) (s : State) : OpResult :=
  match Object.ofCode obj.toNat with
  | some o => s.writeObject o index.toNat fld.toNat vals
  | none => fail s .badObject

/-! ## Flag operations (10 R186) -/

def FlagOp.apply (k : FlagOp) (held mask : Nat) : Nat :=
  match k with
  | .set => held ||| mask
  | .clear => held &&& (0xFFFF ^^^ mask)
  | .toggle => held ^^^ mask

/-- The flag set a flag operation names: what it holds and all its flags; or the failure (10 Table 10-3). -/
def State.flagSet (s : State) (o : Object) (index fld : Nat) : Except Status (Nat × Nat) :=
  match o, fld with
  | .mixStaged, _ => .error .badValue
  | _, _ =>
    if lastIndex o fld < index then .error .badIndex
    else match o, fld with
      | .seats, 0 =>
        match seatOf index with
        | some seat => .ok (if (s.seatRec seat).seatMute then 1 else 0, 1)
        | none => .ok (s.seats.mutes, 7)
      | .bookings, 0x10 =>
        match s.cal.bookings.find? fun r => r.number = index with
        | some r => if index = 0 then .error .badIndex else .ok (r.flags, 3)
        | none => .error .badIndex
      | .config, 1 => .ok (s.cfg.switches, 31)
      | _, _ => .error .badValue

/-- An empty set changes nothing; otherwise the operation is a WRITE of the resulting values (10 R186). -/
def State.flagOwner (k : FlagOp) (obj : Byte) (index : BitVec 16) (fld : Byte) (mask : BitVec 16) (s : State) : OpResult :=
  match Object.ofCode obj.toNat with
  | none => fail s .badObject
  | some o =>
    match s.flagSet o index.toNat fld.toNat with
    | .error e => fail s e
    | .ok (held, all) =>
      if all < mask.toNat then fail s .badValue
      else if mask = 0 then done s
      else s.writeObject o index.toNat fld.toNat (be8 (k.apply held mask.toNat))

/-! ## The meanings -/

/-- A row that is a WRITE of one object: the engine's checks, then the object's owner. -/
def State.runWrite (s : State) (code : Byte) (index : BitVec 16) (fld : Byte) (vals : List Byte)
    (owner : Nat → Nat → List Byte → State → OpResult) : Result :=
  s.runOp (.write code index fld vals) (owner index.toNat fld.toNat vals)

/-- WRITE (10 R185). -/
def execWrite (obj : Byte) (index : BitVec 16) (fld : Byte) (vals : List Byte) (s : State) : Result :=
  s.runOp (.write obj index fld vals) (State.writeByCode obj index fld vals)

/-- SET_FLAGS (10 R186). -/
def execSetFlags (obj : Byte) (index : BitVec 16) (fld : Byte) (mask : BitVec 16) (s : State) : Result :=
  s.runOp (.flags .set obj index fld mask) (State.flagOwner .set obj index fld mask)

/-- CLEAR_FLAGS (10 R186). -/
def execClearFlags (obj : Byte) (index : BitVec 16) (fld : Byte) (mask : BitVec 16) (s : State) : Result :=
  s.runOp (.flags .clear obj index fld mask) (State.flagOwner .clear obj index fld mask)

/-- TOGGLE_FLAGS (10 R186). -/
def execToggleFlags (obj : Byte) (index : BitVec 16) (fld : Byte) (mask : BitVec 16) (s : State) : Result :=
  s.runOp (.flags .toggle obj index fld mask) (State.flagOwner .toggle obj index fld mask)

/-- BOOKING_INSERT (03 R48): a WRITE of whole records at the insert index. -/
def execBookingInsert (vals : List Byte) (s : State) : Result := s.runWrite 0x06 0 0xFF vals State.writeBookings

/-- BOOKING_CHANGE (03 R49). -/
def execBookingChange (num : BitVec 16) (fld : Byte) (vals : List Byte) (s : State) : Result :=
  s.runWrite 0x06 num fld vals State.writeBookings

/-- BOOKING_DELETE (03 R49): the delete form. -/
def execBookingDelete (num : BitVec 16) (vals : List Byte) (s : State) : Result :=
  s.runWrite 0x06 num 0xFE vals State.writeBookings

/-- ROSTER_WRITE (03 R50). -/
def execRosterWrite (index : BitVec 16) (fld : Byte) (vals : List Byte) (s : State) : Result :=
  s.runWrite 0x07 index fld vals State.writeRosters

/-- TEMPLATE_WRITE (08 R147). -/
def execTemplateWrite (index : BitVec 16) (fld : Byte) (vals : List Byte) (s : State) : Result :=
  s.runWrite 0x08 index fld vals State.writeTemplates

/-- ROOM_SCREEN_WRITE (08 R159). -/
def execRoomScreenWrite (index : BitVec 16) (fld : Byte) (vals : List Byte) (s : State) : Result :=
  s.runWrite 0x09 index fld vals State.writeRoomScreens

/-- STATION_WRITE (09 R165). -/
def execStationWrite (index : BitVec 16) (fld : Byte) (vals : List Byte) (s : State) : Result :=
  s.runWrite 0x02 index fld vals State.writeStation

/-- GROUPS_WRITE (09 R166). -/
def execGroupsWrite (index : BitVec 16) (fld : Byte) (vals : List Byte) (s : State) : Result :=
  s.runWrite 0x03 index fld vals State.writeGroups

/-- DESTINATIONS_WRITE (09 R166). -/
def execDestinationsWrite (index : BitVec 16) (fld : Byte) (vals : List Byte) (s : State) : Result :=
  s.runWrite 0x04 index fld vals State.writeDestinations

/-- MIX_STAGED_WRITE (06 R125). -/
def execMixStagedWrite (index : BitVec 16) (fld : Byte) (vals : List Byte) (s : State) : Result :=
  s.runWrite 0x0B index fld vals State.writeMixStaged

/-- FLOOR_MODE_WRITE (04 R88). -/
def execFloorModeWrite (index : BitVec 16) (vals : List Byte) (s : State) : Result :=
  s.runWrite 0x0D index 0 vals State.writeFloor

/-- MAX_OPEN_WRITE (04 R89). -/
def execMaxOpenWrite (index : BitVec 16) (vals : List Byte) (s : State) : Result :=
  s.runWrite 0x0D index 1 vals State.writeFloor

/-- CLASS_OVERRIDE_WRITE (02 R28). -/
def execClassOverrideWrite (index : BitVec 16) (vals : List Byte) (s : State) : Result :=
  s.runWrite 0x0A index 1 vals State.writeSeats

/-- LIMIT_OVERRIDE_WRITE (02 R40). -/
def execLimitOverrideWrite (index : BitVec 16) (vals : List Byte) (s : State) : Result :=
  s.runWrite 0x0A index 2 vals State.writeSeats

/-- MUTE_WRITE (02 R33). -/
def execMuteWrite (index : BitVec 16) (vals : List Byte) (s : State) : Result :=
  s.runWrite 0x0A index 0 vals State.writeSeats

/-- LEAD_WRITE (03 R51). -/
def execLeadWrite (index : BitVec 16) (vals : List Byte) (s : State) : Result :=
  s.runWrite 0x05 index 0 vals State.writeConfig

/-- SWITCH_WRITE (04 R70, 06 R132). -/
def execSwitchWrite (index : BitVec 16) (vals : List Byte) (s : State) : Result :=
  s.runWrite 0x05 index 1 vals State.writeConfig

/-- GAP_WARN_WRITE (05 R111): open_gap, close_gap, warn_time. -/
def execGapWarnWrite (index : BitVec 16) (fld : Byte) (vals : List Byte) (s : State) : Result :=
  s.runWrite 0x05 index fld vals State.writeConfig

/-- DETECTOR_SETTINGS_WRITE (07 R143). -/
def execDetectorSettingsWrite (index : BitVec 16) (fld : Byte) (vals : List Byte) (s : State) : Result :=
  s.runWrite 0x05 index fld vals State.writeConfig

/-- PAGE_SELECTION_WRITE (08 R148). -/
def execPageSelectionWrite (index : BitVec 16) (fld : Byte) (vals : List Byte) (s : State) : Result :=
  s.runWrite 0x05 index fld vals State.writeConfig

end Sys2Proof.Machine
end

