-- ==== Sys2Proof/Machine/Actions.lean ====
section
/-! DEFINITION. The owners of the actions (10 Table 10-4) and of UNLOCK, and the meanings of their rows. -/

namespace Sys2Proof.Machine

/-! ## Floor actions (04 R83–R87) -/

/-- The state checks of every floor action (04 R83). -/
def floorAction (s : State) (act : State → OpResult) : OpResult :=
  if s.store.halted then fail s .halted
  else if !s.cal.session.runs then fail s .noSession
  else act s

/-- A seat above 63 fails BAD_INDEX. -/
def withSeat (s : State) (n : Byte) (act : Seat → OpResult) : OpResult :=
  match seatOf n.toNat with
  | some seat => act seat
  | none => fail s .badIndex

/-- The checks of a GRANT after its seat: those of a press, steps 3 and 4 (04 R84). -/
def State.grantRefusal (s : State) (seat : Seat) : Option Refuse :=
  if s.cal.session = .grace ∧ !s.holds seat then some .sessionEnding else (s.answer seat).refusal

/-- 04 R84. -/
def State.grant (s : State) (seat : Seat) (force : Bool) : OpResult :=
  match s.grantRefusal seat with
  | some r => fail s r.status
  | none =>
    if s.holds seat then done s
    else if s.room seat then done (s.grantSeat seat .management)
    else
      match force, s.oldestNonChair with
      | true, some oldest => done (s.replaceAndGrant oldest seat .management)
      | _, _ => fail s .floorFull

/-- A force byte that is neither yes nor no fails BAD_VALUE (log 39). -/
def State.grantAction (seat force : Byte) (s : State) : OpResult :=
  floorAction s fun s => withSeat s seat fun i => if 1 < force.toNat then fail s .badValue else s.grant i (force.toNat = 1)

/-- 04 R85. -/
def State.revokeAction (seat : Byte) (s : State) : OpResult :=
  floorAction s fun s => withSeat s seat fun i =>
    if s.holds i then done (s.removeThenAdvance i .revoked)
    else if s.queued i then done (s.withdraw i .revoked)
    else fail s .notHolding

/-- 04 R85: the entries held when the action is taken, oldest first. -/
def State.closeAllAction (s : State) : OpResult :=
  floorAction s fun s => done (s.floor.openList.foldl (fun t e => t.removeThenAdvance e.seat .revoked) s)

/-- 04 R86. -/
def State.nextAction (s : State) : OpResult :=
  floorAction s fun s =>
    if s.cal.session = .grace then fail s .sessionEnding
    else
      match s.floor.queue with
      | [] => fail s .empty
      | e :: _ => if s.room e.seat then done ((s.grantSeat e.seat .management).autoAdvance) else fail s .floorFull

/-- The checks of QUEUE_PLACE after its arguments (04 R87). -/
def State.placeRefusal (s : State) (seat : Seat) : Option Status :=
  if s.floor.mode ≠ .queue then some .badValue
  else if s.cal.session = .grace then some .sessionEnding
  else if s.holds seat then some .badValue
  else
    match (s.answer seat).refusal with
    | some r => some r.status
    | none => if !s.queued seat ∧ 16 ≤ s.floor.queue.length then some .queueFull else none

/-- The entry is taken out of the queue if it is there, and placed at position `p`, or after the last (04 R87). A moved
entry keeps its source and arrival time. -/
def State.placeAt (s : State) (seat : Seat) (p : Nat) : State :=
  let e := (s.floor.queue.find? (·.seat = seat)).getD ⟨seat, s.clock.now.minute, s.clock.now.second, .management⟩
  let rest := s.floor.queue.filter (·.seat ≠ seat)
  let p' := min p (rest.length + 1)
  let s1 := s.setFloor fun f => { f with queue := rest.take (p' - 1) ++ e :: rest.drop (p' - 1) }
  (s1.setMic seat fun m => { m with queued := true }).floorChange seat.val .enqueue noByte e.source.code p'

/-- 04 R87. -/
def State.queuePlaceAction (seat position : Byte) (s : State) : OpResult :=
  floorAction s fun s => withSeat s seat fun i =>
    if position.toNat = 0 ∨ 16 < position.toNat then fail s .badValue
    else
      match s.placeRefusal i with
      | some st => fail s st
      | none => done ((s.placeAt i position.toNat).autoAdvance)

/-- 04 R87. -/
def State.clearQueueAction (s : State) : OpResult := floorAction s fun s => done (s.clearQueue .cleared)

/-! ## Session actions (03 R60–R62) -/

/-- The record of an ad hoc booking (03 R60). -/
def adhocBooking (now duration : Nat) (key : Key) (chair : Pos) (mode : Mode) (maxOpen : Nat) : Booking where
  number := 0
  start := now
  duration := duration
  grace := 0
  key := key
  guestAdmit := false
  chair := chair
  roster := none
  mode := mode
  maxOpen := maxOpen
  speakLimit := 0
  limitAction := .warn
  title := text "AD HOC"
  roomSend := true
  active := true

/-- An end that passes the next start (03 R60, R61). -/
def State.passesNext (s : State) (finish : Nat) : Bool :=
  match s.nextBooking with
  | some n => n.start < finish
  | none => false

/-- 03 R60. -/
def State.openAdhocAction (duration : BitVec 16) (key chair mode maxOpen : Byte) (s : State) : OpResult :=
  match s.cal.session with
  | .armed => fail s .booked
  | .inSession | .grace | .closing => fail s .active
  | .vacant =>
    match keyOf key.toNat, seatOf chair.toNat, Mode.ofCode mode.toNat with
    | some k, some c, some m =>
      let d := clampTo 5 1440 duration.toNat
      let n := clampTo 1 6 maxOpen.toNat
      if 32 ≤ s.cal.bookings.length then fail s .full
      else if s.passesNext (s.clock.now.minute + d) then fail s .overlap
      else
        let b := adhocBooking s.clock.now.minute d k c m n
        let s1 := { s with cal := { s.cal with bookings := placeBooking b s.cal.bookings } }
        done ((s1.startSession b).evaluate) (d != duration.toNat || n != maxOpen.toNat)
    | _, _, _ => fail s .badValue

/-- The ACTIVE record's duration grows (03 R61). -/
def State.lengthen (s : State) (by' : Nat) : State :=
  let grow := fun (b : Booking) => if b.active then { b with duration := b.duration + by' } else b
  { s with cal := { s.cal with bookings := s.cal.bookings.map grow } }

/-- 03 R61. -/
def State.extendAction (minutes : Byte) (s : State) : OpResult :=
  match s.cal.session with
  | .closing => fail s .active
  | .vacant | .armed => fail s .noSession
  | .inSession | .grace =>
    match s.activeBooking with
    | none => fail s .noSession
    | some b =>
      let m := clampTo 1 120 minutes.toNat
      let e := min m (1440 - b.duration)
      if e = 0 then done s true
      else if s.passesNext (b.finish + e) then fail s .overlap
      else done ((s.lengthen e).evaluate) (m != minutes.toNat || e != m)

/-- 03 R62. -/
def State.endSessionAction (s : State) : OpResult :=
  if s.cal.session.runs then done (s.startClosing .endSession) else fail s .noSession

/-! ## Messages (08 R157) -/

def Message.start (t : Text) : Message := ⟨t, 1, 400⟩

/-- 08 R157. The target 0xFF is ALL. -/
def State.sendMessageAction (target : Byte) (txt : List Byte) (s : State) : OpResult :=
  let t := takeIn txt
  let m := Message.start (t.take 96)
  let cut := decide (96 < t.length)
  if target = 0xFF then
    let give := fun (i : Seat) (old : Option Message) => if s.present (s.phys i) then some m else old
    done { s with disp := { s.disp with messages := mapAll s.disp.messages give } } cut
  else
    match seatOf target.toNat with
    | none => fail s .badIndex
    | some seat =>
      if s.present (s.phys seat) then
        done { s with disp := { s.disp with messages := s.disp.messages.set seat (some m) } } cut
      else fail s .absent

/-! ## COMMIT and DISCARD (06 R127, R129, R130) -/

def State.commitAction (s : State) : OpResult := done s.commit

/-- A request that stores nothing after a DISCARD does not auto-commit (06 R129). -/
def State.discardAction (s : State) : OpResult := done (({ s with mix := s.mix.discard }).markStaged false)

/-! ## SAVE (11 R190, R191) -/

def Store.area (st : Store) : Area → Option Image
  | .a => st.areaA
  | .b => st.areaB

def Store.setArea (st : Store) (which : Area) (i : Option Image) : Store :=
  match which with
  | .a => { st with areaA := i }
  | .b => { st with areaB := i }

/-- Generation `g` is the successor of generation `h`. -/
def successor (g h : Nat) : Bool := g = (h + 1) % 65536

/-- The area that holds the current image (11 R190). -/
def Store.current (st : Store) : Option Area :=
  match st.areaA, st.areaB with
  | none, none => none
  | some _, none => some .a
  | none, some _ => some .b
  | some x, some y =>
    if successor x.generation y.generation then some .a
    else if successor y.generation x.generation then some .b
    else if x.generation < y.generation then some .b
    else some .a

def Store.currentImage (st : Store) : Option Image := st.current.bind st.area

/-- The area a save writes (11 R190). -/
def Store.target (st : Store) : Area :=
  match st.current with
  | some .a => .b
  | some .b => .a
  | none => .a

/-- One above the current image's generation, or 0 (11 R191). -/
def Store.nextGeneration (st : Store) : Nat :=
  match st.currentImage with
  | some i => (i.generation + 1) % 65536
  | none => 0

/-- The contents of Table 11-1 as they stand (11 R191). -/
def State.snapshot (s : State) : Image where
  cfg := s.cfg
  bookings := waitingOf s.cal.bookings
  rosters := s.cal.rosters
  templates := s.disp.templates
  screens := mapAll s.disp.screens fun _ e => (e.addr, e.template)
  groups := s.link.groups
  noticeDest := s.link.noticeDest
  audioDest := s.link.audioDest
  mix := s.mix.live
  generation := s.store.nextGeneration

/-- The area being written is not valid until the check is written last (11 R190). -/
def Store.beginSave (st : Store) (snapshot : Image) : Store :=
  { st.setArea st.target none with writing := some ⟨st.target, snapshot⟩ }

/-- 11 R191. -/
def State.saveAction (s : State) : OpResult :=
  if s.store.writing.isSome then fail s .busy else done { s with store := s.store.beginSave s.snapshot }

/-! ## ENUMERATE, HALT, RESUME, RESTART (10 R187, R188; 11 R196, R197) -/

/-- 10 R187: a pass is requested on wing A (0) or B (1). -/
def State.enumerateAction (wing : Byte) (s : State) : OpResult :=
  match wing.toNat with
  | 0 => done (s.startPass .a)
  | 1 => done (s.startPass .b)
  | _ => fail s .badValue

/-- A microphone that is not CLOSED goes to CLOSED at once (04 R94, 05 R101). -/
def State.closeMic (s : State) (seat : Seat) : State :=
  if (s.micOf seat).state = .closed then s else s.micClose seat

/-- HALT in RUNNING (11 R196, 04 R94, 08 R156; log 35). In GRACE the last removal begins CLOSING, which clears the queue
with SESSION_END, so the clear of HALT then finds it empty. -/
def State.halt (s : State) : State :=
  let s1 := { s with store := { s.store with halted := true } }
  let s2 := s1.floor.openList.foldl (fun t e => t.removeEntry e.seat .halted) s1
  let s3 := ((numbers 64).foldl State.closeMic s2).reportClosed
  let s4 := s3.clearQueue .halted
  { s4 with disp := { s4.disp with
    delivery := mapAll s4.disp.delivery fun _ (d : Delivery) => { d with transfer := none } } }

/-- 11 R196. -/
def State.haltAction (s : State) : OpResult := done (if s.store.halted then s else s.halt)

/-- RESUME in HALTED (11 R197). -/
def State.resume (s : State) : State :=
  let s1 := { s with
    store := { s.store with halted := false },
    level := mapAll s.level fun _ l => l.zero,
    link := s.link.unlearn }
  (s1.startPass .a).startPass .b

/-- 11 R197. -/
def State.resumeAction (s : State) : OpResult := done (if s.store.halted then s.resume else s)

/-- RESTART ends its request with OK; it takes effect after the reply is offered (10 R188). -/
def State.restartAction (s : State) : OpResult :=
  { state := s.setMgmt fun m => { m with restart := .scheduled }, status := .ok, ends := true }

/-! ## UNLOCK (10 R183) -/

def State.unlockOwner (value : Byte) (s : State) : OpResult :=
  if value = 0x5C then done (s.setMgmt fun m => { m with unlocked := true }) else fail s .locked

/-! ## The meanings -/

def State.runAction (s : State) (a : Action) (args : List Byte) (owner : State → OpResult) : Result :=
  s.runOp (.action a.code args) owner

/-- UNLOCK (10 R183). -/
def execUnlock (value : Byte) (s : State) : Result := s.runOp (.unlock value) (State.unlockOwner value)

/-- GRANT (04 R84). -/
def execGrant (seat force : Byte) (s : State) : Result :=
  s.runAction .grant [seat, force] (State.grantAction seat force)

/-- REVOKE (04 R85). -/
def execRevoke (seat : Byte) (s : State) : Result := s.runAction .revoke [seat] (State.revokeAction seat)

/-- NEXT (04 R86). -/
def execNext (s : State) : Result := s.runAction .next [] State.nextAction

/-- QUEUE_PLACE (04 R87). -/
def execQueuePlace (seat position : Byte) (s : State) : Result :=
  s.runAction .queuePlace [seat, position] (State.queuePlaceAction seat position)

/-- CLEAR_QUEUE (04 R87). -/
def execClearQueue (s : State) : Result := s.runAction .clearQueue [] State.clearQueueAction

/-- CLOSE_ALL (04 R85). -/
def execCloseAll (s : State) : Result := s.runAction .closeAll [] State.closeAllAction

/-- OPEN_ADHOC (03 R60). -/
def execOpenAdhoc (duration : BitVec 16) (key chair mode maxOpen : Byte) (s : State) : Result :=
  s.runAction .openAdhoc (be16 duration.toNat ++ [key, chair, mode, maxOpen])
    (State.openAdhocAction duration key chair mode maxOpen)

/-- EXTEND (03 R61). -/
def execExtend (minutes : Byte) (s : State) : Result := s.runAction .extend [minutes] (State.extendAction minutes)

/-- END_SESSION (03 R62). -/
def execEndSession (s : State) : Result := s.runAction .endSession [] State.endSessionAction

/-- SEND_MESSAGE (08 R157). -/
def execSendMessage (target : Byte) (txt : List Byte) (s : State) : Result :=
  s.runAction .sendMessage (target :: textBytes txt) (State.sendMessageAction target txt)

/-- COMMIT (06 R127, R130). -/
def execCommit (s : State) : Result := s.runAction .commit [] State.commitAction

/-- DISCARD (06 R129). -/
def execDiscard (s : State) : Result := s.runAction .discard [] State.discardAction

/-- SAVE (11 R191). -/
def execSave (s : State) : Result := s.runAction .save [] State.saveAction

/-- ENUMERATE (10 R187, 01 R6). -/
def execEnumerate (wing : Byte) (s : State) : Result := s.runAction .enumerate [wing] (State.enumerateAction wing)

/-- HALT (11 R196). -/
def execHalt (s : State) : Result := s.runAction .halt [] State.haltAction

/-- RESUME (11 R197). -/
def execResume (s : State) : Result := s.runAction .resume [] State.resumeAction

/-- RESTART (10 R188). -/
def execRestart (s : State) : Result := s.runAction .restart [] State.restartAction

/-- RESTART_TAKES_EFFECT (11 R195): when a restart is due. -/
def execRestartTakesEffect (s : State) : Result := whenPowered s State.takeRestart

end Sys2Proof.Machine
end

