-- ==== Sys2Proof/Machine/Power.lean ====
section
/-! DEFINITION. Power-on, the reset input, power loss, and the completion of a save (11 R192, R194). -/

namespace Sys2Proof.Machine

/-- A save in progress stops; its area is already not valid (11 R192). -/
def State.powerOn (s : State) (carrierA carrierB : Bool) : State :=
  let t := match s.store.currentImage with
    | some i => State.fromImage i true s.store.areaA s.store.areaB false false
    | none => State.fromImage Image.factory false s.store.areaA s.store.areaB false false
  let t1 := { t with pending := s.pending }
  let t2 := if carrierA then t1.carrierGain .a else t1
  if carrierB then t2.carrierGain .b else t2

/-- Everything but the store's areas is lost; the values held meanwhile are those of a part that has just been reset with
no image (log 22). -/
def State.powerLoss (s : State) : State :=
  { State.fromImage Image.factory false s.store.areaA s.store.areaB false false with
    powered := false, pending := s.pending }

/-- A completed write (11 R192). -/
def State.saveSucceeded (s : State) (w : Writing) : State :=
  ({ s with store := { s.store.setArea w.area (some w.snapshot) with
      writing := none, lastResult := some .saved, storeInvalid := false } }).notice 0x07 (be16 w.snapshot.generation)

/-- A failed write: the area stays not valid (11 R190, R192). -/
def State.saveFailed (s : State) : State :=
  ({ s with store := { s.store with writing := none, lastResult := some .failed } }).notice 0x08 []

def State.saveComplete (s : State) (success : Bool) : State :=
  match s.store.writing with
  | none => s
  | some w => if success then s.saveSucceeded w else s.saveFailed

/-! ## The meanings -/

/-- POWER_ON (11 R194). A carrier that is there at power-on is a carrier gain (01 R5; log 21). -/
def execPowerOn (carrierA carrierB : Bool) (s : State) : Result := ok (s.powerOn carrierA carrierB)

/-- RESET_INPUT (11 R194): as power-on, for a part that has power. -/
def execResetInput (carrierA carrierB : Bool) (s : State) : Result :=
  whenPowered s fun s => s.powerOn carrierA carrierB

/-- POWER_LOSS (11 R192). -/
def execPowerLoss (s : State) : Result := .next s.powerLoss

/-- SAVE_COMPLETE (11 R192): only while a save is in progress. -/
def execSaveComplete (success : Bool) (s : State) : Result := whenPowered s fun s => s.saveComplete success

end Sys2Proof.Machine
end

