-- ==== Sys2Proof/Machine/Read.lean ====
section
/-! DEFINITION. READ and READ_CLEAR (10 R180, R184): the entries of every object, each as its owning chapter lists it
(12 R199). Widths and absent forms that R198 and R199 leave open are those of log 10 and log 11. -/

namespace Sys2Proof.Machine

/-! ## Values (12 R198, R199) -/

def absent (n : Nat) : List Byte := List.replicate n 0xFF

/-- An optional one-byte value. -/
def opt8 (v : Option Nat) : List Byte := match v with | some n => be8 n | none => absent 1
def opt16 (v : Option Nat) : List Byte := match v with | some n => be16 n | none => absent 2
def opt32 (v : Option Nat) : List Byte := match v with | some n => be32 n | none => absent 4
def optText (v : Option Text) : List Byte := match v with | some t => textBytes t | none => absent 1

/-- A list: a one-byte count, then the members. -/
def listBytes {α : Type} (xs : List α) (f : α → List Byte) : List Byte := be8 xs.length ++ xs.flatMap f

/-- A card state: its key, or absent. -/
def cardBytes (c : Option Key) : List Byte := opt8 (c.map (·.val))

/-! ## Entries -/

def State.identEntry : List Byte := textBytes (text "TH64") ++ addrBytes factoryIdentity ++ be16 Config.designLevel.toNat

/-- CONFIG in the order of 12 Table 12-8. -/
def Settings.bytes (c : Settings) : List Byte :=
  be16 c.lead ++ be8 c.switches ++ be16 c.openGap ++ be16 c.closeGap ++ be16 c.warnTime ++ be8 c.kAtt ++ be8 c.kRel
    ++ be16 c.openThr ++ be16 c.closeThr ++ be16 c.hold ++ be8 c.idlePage.val ++ be8 c.armedPage.val
    ++ be8 c.delegatePage.val ++ be8 c.chairPage.val ++ be8 c.observerPage.val ++ be8 c.guestPage.val

/-- A record in the order of 03 Table 3-2, with its state. -/
def Booking.bytes (b : Booking) : List Byte :=
  be16 b.number ++ be32 b.start ++ be16 b.duration ++ be16 b.grace ++ be8 b.key.val ++ boolByte b.guestAdmit
    ++ be8 b.chair.val ++ opt8 (b.roster.map (·.val)) ++ be8 b.mode.code ++ be8 b.maxOpen ++ be16 b.speakLimit
    ++ be8 b.limitAction.code ++ textBytes b.title ++ boolByte b.roomSend ++ boolByte b.active

/-- A roster slot (03 R50). -/
def slotBytes (e : Option RosterEntry) : List Byte :=
  opt8 (e.map (·.position.val)) ++ optText (e.map (·.name)) ++ opt8 (e.map (·.key.val)) ++ opt8 (e.map (·.role.code))
    ++ opt16 (e.bind (·.limit))

/-- 08 R161. -/
def Screen.bytes (sc : Screen) : List Byte :=
  optAddrBytes sc.addr ++ be8 (16 + sc.template.val) ++ optText sc.lastSent ++ boolByte sc.pending ++ be16 sc.window

/-- Unknown, equal to the rendering, or different (08 R161). -/
def knownCode (known : Option Text) (rendering : Text) : Nat :=
  match known with
  | none => 0
  | some t => if t = rendering then 1 else 2

/-- The record fields of a SEATS entry (02 R42). -/
def State.seatFields (s : State) (seat : Seat) : List Byte :=
  let p := s.phys seat
  let r := s.seatRec seat
  be8 seat.val ++ be8 p.val ++ be8 s.pos[p].presence.code ++ opt32 (s.pos[p].serial.map (·.toNat))
    ++ boolByte s.pos[p].statusValid ++ cardBytes s.pos[p].card
    ++ optText (r.participant.map (·.name)) ++ opt8 (r.participant.map (·.key.val))
    ++ opt8 (r.participant.map (·.role.code)) ++ opt16 (r.participant.bind (·.limit))
    ++ be8 (s.classOf seat).code ++ opt8 (r.classOverride.map (·.code)) ++ opt8 ((s.keyAt p).map (·.val))
    ++ boolByte (s.permitted seat) ++ boolByte r.seatMute ++ boolByte (s.muted seat)
    ++ boolByte r.spoke ++ boolByte r.changed ++ be16 r.turnCount ++ be16 r.total ++ be16 r.lastTurn
    ++ opt16 r.limitOverride ++ be16 s.level[p].meter

/-- The microphone part (05 R112). -/
def State.micFields (s : State) (seat : Seat) : List Byte :=
  let m := s.micOf seat
  be8 m.state.code ++ be16 m.gap ++ be16 m.timer ++ opt16 (s.limitOf seat) ++ boolByte m.warning ++ boolByte m.overMark
    ++ be8 (s.indicator seat).code

/-- The level part (07 R144). -/
def State.levelFields (s : State) (seat : Seat) : List Byte :=
  let l := s.level[s.phys seat]
  be16 l.envelope ++ boolByte l.voiceStart ++ boolByte l.voiceIdle

/-- The display part (08 R161). While the page is MESSAGE the template is that of the page below it (log 53, DESIGN CHOICE);
the two step numbers of a message are one byte each (log 10, DESIGN CHOICE). -/
def State.displayFields (s : State) (seat : Seat) : List Byte :=
  let d := s.disp.delivery[s.phys seat]
  let m := s.disp.messages[seat]
  be8 (s.page seat).code ++ be8 (s.pageTemplate seat).val ++ textBytes (s.rendering seat)
    ++ optText (m.map (·.text)) ++ opt8 (m.map (·.step)) ++ opt8 (m.map (·.text.length + 24))
    ++ opt8 (d.transfer.map (·.next)) ++ be8 (knownCode d.known (s.rendering seat))

def State.seatEntry (s : State) (i : Nat) : List Byte :=
  match seatOf i with
  | some seat => s.seatFields seat ++ s.micFields seat ++ s.levelFields seat ++ s.displayFields seat
  | none => be8 s.seats.chair.val ++ boolByte s.seats.sessionMute ++ boolByte s.seats.wingAMute ++ boolByte s.seats.wingBMute

/-- An entry of MIX_LIVE or MIX_STAGED without the two marks (12 R199, 06 R133). -/
def MixTables.entry (t : MixTables) (i : Nat) : List Byte :=
  match seatOf i with
  | some seat =>
    be16 t.gin[seat] ++ be16 t.gout[seat] ++ (t.neighbours[seat]).toList.flatMap fun n => opt8 (n.map (·.val))
  | none => be16 t.duckOwn ++ be16 t.duckNear ++ be16 t.returnGain ++ be16 t.sendGain

def State.stagedEntry (s : State) (i : Nat) : List Byte :=
  s.mix.staged.entry i ++ (if i = 64 then boolByte s.mix.pending ++ boolByte s.mix.due else [])

/-- 04 R97. The voice-blocked seats are sent as a list, in order of seat (log 10). -/
def State.floorEntry (s : State) : List Byte :=
  let f := s.floor
  be8 f.mode.code ++ be8 f.maxOpen ++ be8 (f.openList.length - s.nonChair) ++ be8 s.nonChair
    ++ listBytes f.openList (fun e => be8 e.seat.val ++ be8 (s.classOf e.seat).code ++ timeBytes e.time ++ be8 e.source.code)
    ++ listBytes (f.queue.zipIdx 1) (fun e =>
        be8 e.1.seat.val ++ be8 e.2 ++ be32 e.1.minute ++ be8 e.1.second ++ be8 e.1.source.code)
    ++ listBytes ((numbers 64).filter fun i => f.blocked[i]) (fun i => be8 i.val)

/-- 03 R67. -/
def State.sessionEntry (s : State) : List Byte :=
  let a := if s.cal.session.isActive then s.activeBooking else none
  be8 s.cal.session.code ++ opt16 (a.map (·.number))
    ++ (if a.isSome then timeBytes s.cal.actualStart else absent 6) ++ opt32 (a.map (·.finish))
    ++ opt32 (if s.cal.session = .grace then s.cal.graceEnd else none)
    ++ opt16 (s.nextBooking.map (·.number)) ++ opt32 (s.nextBooking.map (·.start))
    ++ be16 s.cfg.lead ++ boolByte s.cal.stepPending ++ s.cal.tally.toList.flatMap be16

/-- 03 R67: the time of day as hours and minutes. -/
def Clock.bytes (c : Clock) : List Byte :=
  timeBytes c.now ++ be8 (c.now.minute % 1440 / 60) ++ be8 (c.now.minute % 60) ++ be8 c.sync.code ++ be16 c.age

/-- 01 R21. -/
def WingPort.bytes (w : WingPort) : List Byte := be8 w.state.code ++ be8 w.recorded ++ be8 w.assigned ++ be8 w.scanPos

def PosRec.bytes (r : PosRec) : List Byte :=
  be8 r.presence.code ++ opt32 (r.serial.map (·.toNat)) ++ be8 r.loss ++ boolByte r.statusValid ++ cardBytes r.card

def State.wingsEntry (s : State) (i : Nat) : List Byte :=
  match i with
  | 0 => s.wingA.bytes
  | 1 => s.wingB.bytes
  | n + 2 => match seatOf n with
    | some p => s.pos[p].bytes
    | none => []

/-- The twelve counters in the order of 09 Table 9-4. -/
def LinkCounters.values (c : LinkCounters) : List Nat :=
  [c.runts, c.oversize, c.crcErrors, c.lengthErrors, c.addressMisses, c.kindRejects, c.timeRejects, c.lateBlocks,
   c.returnGaps, c.returnOverruns, c.noticesDropped, c.linkLosses]

/-- A part of COUNTERS, with its read-only values (09 R174, 06 R133, 07 R144, 10 R189). Which of the reply and the four
screen entries have a frame waiting is sent as five yes/no bytes, the reply first, then entries 0 to 3 (log 10, DESIGN
CHOICE). -/
def State.counterPart (s : State) (part : Nat) : List Byte :=
  match part with
  | 0 =>
    s.link.counters.values.flatMap be16 ++ boolByte (!s.link.up) ++ boolByte s.link.learnt ++ be16 s.link.expected
      ++ be8 s.link.buffer.length ++ be16 s.link.outCounter ++ be8 s.link.queue.length
      ++ boolByte (s.mgmt.engine = .replyWait) ++ s.disp.screens.toList.flatMap fun sc => boolByte sc.waiting
  | 1 => s.mix.outClips.toList.flatMap be16 ++ be16 s.mix.sendClips
  | 2 => s.level.toList.flatMap fun l => be16 l.clips
  | 3 =>
    be16 s.mgmt.dropped ++ be16 s.mgmt.malformed ++ be8 s.mgmt.requests.length ++ be8 s.mgmt.engine.code
      ++ be16 s.mgmt.stagger ++ boolByte (s.mgmt.engine = .replyWait)
  | _ => []

/-- An empty LAST_REPORT: no number, title, times or cause, no speakers, no changed seats, counts of 0 (log 11). -/
def emptyReport : List Byte := absent 2 ++ absent 1 ++ absent 6 ++ absent 6 ++ absent 1 ++ be8 0 ++ be8 0 ++ List.replicate 16 0

def SaveResult.code : SaveResult → Nat
  | .saved => 0
  | .failed => 1

/-- 11 R193. -/
def Store.bytes (st : Store) : List Byte :=
  boolByte st.writing.isSome ++ opt8 (st.lastResult.map (·.code)) ++ opt16 (st.currentImage.map (·.generation))
    ++ be8 (match st.source with | .image => 0 | .defaults => 1) ++ boolByte st.storeInvalid ++ boolByte st.halted

/-- How many entries an object has for READ (12 Table 12-7; BOOKINGS, the records held, log 12). -/
def State.entryCount (s : State) (o : Object) : Nat :=
  match o with
  | .groups | .roomScreens | .counters => 4
  | .destinations => 2
  | .bookings => s.cal.bookings.length
  | .rosters => 512
  | .templates => 20
  | .seats | .mixStaged | .mixLive => 65
  | .wings => 66
  | .ident | .station | .config | .floor | .session | .clock | .lastReport | .store => 1

/-- The bytes of one entry. -/
def State.entry (s : State) (o : Object) (i : Nat) : List Byte :=
  match o with
  | .ident => State.identEntry
  | .station => addrBytes s.link.station
  | .groups => optAddrBytes (s.link.groups.toList.getD i none)
  | .destinations => optAddrBytes (if i = 0 then s.link.noticeDest else s.link.audioDest)
  | .config => s.cfg.bytes
  | .bookings => match s.cal.bookings[i]? with
    | some b => b.bytes
    | none => []
  | .rosters => slotBytes ((s.cal.rosters.toList.getD (i / 64) (Vector.replicate 64 none)).toList.getD (i % 64) none)
  | .templates => textBytes (s.disp.templates.toList.getD i [])
  | .roomScreens => match s.disp.screens[i]? with
    | some sc => sc.bytes
    | none => []
  | .seats => s.seatEntry i
  | .mixStaged => s.stagedEntry i
  | .mixLive => s.mix.live.entry i
  | .floor => s.floorEntry
  | .session => s.sessionEntry
  | .clock => s.clock.bytes
  | .wings => s.wingsEntry i
  | .counters => s.counterPart i
  | .lastReport => match s.cal.lastReport with
    | some r => r.bytes
    | none => emptyReport
  | .store => s.store.bytes

/-! ## The room in a reply (10 R180, 12 R199) -/

/-- What remains of 1000 bytes after the header, every status, every two-byte count and the entries already returned. -/
def Hand.room (h : Hand) : Nat := 1000 - 5 - h.total - 2 * h.reads - (h.returned.map (·.bytes.length)).sum

/-- The room left for entries in the request being executed (10 R180), kept in both reply modes (log 54, DESIGN CHOICE). -/
def State.replyRoom (s : State) : Nat := (s.mgmt.hand.map Hand.room).getD 0

/-- The whole entries that fit, in index order. -/
def fitEntries (room : Nat) : List (List Byte) → List (List Byte)
  | [] => []
  | e :: es => if e.length ≤ room then e :: fitEntries (room - e.length) es else []

/-- 10 R184, R180. -/
def State.readOwner (obj : Byte) (first count : BitVec 16) (s : State) : OpResult :=
  match Object.ofCode obj.toNat with
  | none => fail s .badObject
  | some o =>
    let n := s.entryCount o
    if n ≤ first.toNat then fail s .badIndex
    else
      let k := min count.toNat (n - first.toNat)
      let entries := (List.range k).map fun i => s.entry o (first.toNat + i)
      let kept := fitEntries s.replyRoom entries
      { state := s, status := okOr (decide (k < count.toNat) || decide (kept.length < k)),
        returned := some ⟨kept.length, kept.flatten⟩ }

/-- The counters of a part become 0 (10 R184). -/
def State.clearPart (s : State) (part : Nat) : State :=
  match part with
  | 0 => { s with link := { s.link with counters := LinkCounters.zero } }
  | 1 => { s with mix := { s.mix with outClips := Vector.replicate 64 0, sendClips := 0 } }
  | 2 => { s with level := mapAll s.level fun _ (l : LevelRec) => { l with clips := 0 } }
  | 3 => s.setMgmt fun m => { m with dropped := 0, malformed := 0 }
  | _ => s

/-- 10 R184, R180. -/
def State.readClearOwner (obj part : Byte) (s : State) : OpResult :=
  if Object.ofCode obj.toNat ≠ some .counters then fail s .badObject
  else if 3 < part.toNat then fail s .badIndex
  else
    let e := s.counterPart part.toNat
    if e.length ≤ s.replyRoom then
      { state := s.clearPart part.toNat, status := .ok, returned := some ⟨1, e⟩ }
    else { state := s, status := .clamped, returned := some ⟨0, []⟩ }

/-! ## The meanings -/

/-- READ (10 R184). -/
def execRead (obj : Byte) (first count : BitVec 16) (s : State) : Result :=
  s.runOp (.read obj first count) (State.readOwner obj first count)

/-- READ_CLEAR (10 R184). -/
def execReadClear (obj part : Byte) (s : State) : Result := s.runOp (.readClear obj part) (State.readClearOwner obj part)

end Sys2Proof.Machine
end

