-- ==== Sys2Proof/Machine/Timers.lean ====
section
/-! DEFINITION. CHAIN_CYCLE and the steps of a boundary that have rows of their own. Each own command takes its step for
the coming boundary when the step is due there, and changes nothing otherwise; CHAIN_CYCLE takes every due step that is
left (log 2). -/

namespace Sys2Proof.Machine

def State.takeEarly (s : State) (e : Early) : State := { s with early := e :: s.early }

/-- CHAIN_CYCLE (01 R1). -/
def execChainCycle (s : State) : Result := whenPowered s State.cycle

/-- ENUMERATION_PASS_END (01 R9). -/
def execEnumerationPassEnd (w : Wing) (s : State) : Result := whenPowered s fun s => s.endPass w

/-- COMMIT_TRANSFER (06 R127). -/
def execCommitTransfer (s : State) : Result := whenPowered s State.transferDue

/-- GAP_END (05 R102). -/
def execGapEnd (seat : Seat) (s : State) : Result :=
  whenPowered s fun s =>
    if (s.micOf seat).gapDue ∧ !s.early.contains (.mic seat) then (s.endGap seat).takeEarly (.mic seat) else s

/-- TURN_TIMER_ADVANCE (05 R104). -/
def execTurnTimerAdvance (seat : Seat) (s : State) : Result :=
  whenPowered s fun s =>
    if (s.micOf seat).turnDue ∧ !s.early.contains (.mic seat) then (s.advanceTurn seat).takeEarly (.mic seat) else s

/-- REFUSAL_FLASH_END (05 R109): the counter is at its last boundary. -/
def execRefusalFlashEnd (seat : Seat) (s : State) : Result :=
  whenPowered s fun s => if (s.micOf seat).flash = 1 then s.setMic seat fun m => { m with flash := 0 } else s

/-- MESSAGE_STEP (08 R158). -/
def execMessageStep (seat : Seat) (s : State) : Result :=
  whenPowered s fun s =>
    match s.disp.messages[seat] with
    | some m =>
      if m.counter ≤ 1 ∧ !s.early.contains (.message seat) then
        (s.setMessage seat fun _ => m.nextStep).takeEarly (.message seat)
      else s
    | none => s

/-- SCREEN_WINDOW_END (08 R160). -/
def execScreenWindowEnd (e : Fin 4) (s : State) : Result :=
  whenPowered s fun s =>
    if s.disp.screens[e].window = 1 ∧ !s.early.contains (.screen e) then (s.endWindow e).takeEarly (.screen e) else s

/-- CLOCK_TENTH (03 R43). -/
def execClockTenth (s : State) : Result :=
  whenPowered s fun s =>
    if 199 ≤ s.clock.cycles ∧ !s.early.contains .tenth then s.advanceClock.takeEarly .tenth else s

/-- CLOSING_COMPLETE (03 R58): in CLOSING with every microphone CLOSED. -/
def execClosingComplete (s : State) : Result := whenPowered s State.reportClosed

/-- HOLDOVER (03 R45). -/
def execHoldover (s : State) : Result := whenPowered s fun s => { s with clock := s.clock.holdover }

/-- STAGGER_EXPIRY (10 R179). -/
def execStaggerExpiry (s : State) : Result :=
  whenPowered s fun s =>
    if s.mgmt.engine = .stagger ∧ s.mgmt.stagger ≤ 1 ∧ !s.early.contains .stagger then
      s.offerReply.takeEarly .stagger
    else s

end Sys2Proof.Machine
end

