-- ==== Sys2Proof/Machine/Dispatch.lean ====
section
/-! DEFINITION. The meaning of every command: one arm per row of spec/opcode_table.json. -/

namespace Sys2Proof.Machine

def exec (i : Instr) (s : State) : Host.Outcome State Fault Refusal :=
  match i with
  | .powerOn carrierA carrierB => Sys2Proof.Machine.execPowerOn carrierA carrierB s
  | .resetInput carrierA carrierB => Sys2Proof.Machine.execResetInput carrierA carrierB s
  | .carrierGain w => Sys2Proof.Machine.execCarrierGain w s
  | .carrierLoss w => Sys2Proof.Machine.execCarrierLoss w s
  | .chainCycle => Sys2Proof.Machine.execChainCycle s
  | .upstreamSlot p raw => Sys2Proof.Machine.execUpstreamSlot p raw s
  | .wingEndMarker w raw => Sys2Proof.Machine.execWingEndMarker w raw s
  | .statusWord p card serial => Sys2Proof.Machine.execStatusWord p card serial s
  | .button p => Sys2Proof.Machine.execButton p s
  | .priority p => Sys2Proof.Machine.execPriority p s
  | .enumerationPassEnd w => Sys2Proof.Machine.execEnumerationPassEnd w s
  | .commitTransfer => Sys2Proof.Machine.execCommitTransfer s
  | .gapEnd seat => Sys2Proof.Machine.execGapEnd seat s
  | .turnTimerAdvance seat => Sys2Proof.Machine.execTurnTimerAdvance seat s
  | .refusalFlashEnd seat => Sys2Proof.Machine.execRefusalFlashEnd seat s
  | .messageStep seat => Sys2Proof.Machine.execMessageStep seat s
  | .screenWindowEnd e => Sys2Proof.Machine.execScreenWindowEnd e s
  | .clockTenth => Sys2Proof.Machine.execClockTenth s
  | .closingComplete => Sys2Proof.Machine.execClosingComplete s
  | .holdover => Sys2Proof.Machine.execHoldover s
  | .linkUp => Sys2Proof.Machine.execLinkUp s
  | .linkDown => Sys2Proof.Machine.execLinkDown s
  | .frameDropped raw => Sys2Proof.Machine.execFrameDropped raw s
  | .audioIn raw => Sys2Proof.Machine.execAudioIn raw s
  | .time raw => Sys2Proof.Machine.execTime raw s
  | .request raw => Sys2Proof.Machine.execRequest raw s
  | .frameSent => Sys2Proof.Machine.execFrameSent s
  | .requestTake => Sys2Proof.Machine.execRequestTake s
  | .staggerExpiry => Sys2Proof.Machine.execStaggerExpiry s
  | .read obj first count => Sys2Proof.Machine.execRead obj first count s
  | .readClear obj part => Sys2Proof.Machine.execReadClear obj part s
  | .write obj index field vals => Sys2Proof.Machine.execWrite obj index field vals s
  | .setFlags obj index field mask => Sys2Proof.Machine.execSetFlags obj index field mask s
  | .clearFlags obj index field mask => Sys2Proof.Machine.execClearFlags obj index field mask s
  | .toggleFlags obj index field mask => Sys2Proof.Machine.execToggleFlags obj index field mask s
  | .unlock value => Sys2Proof.Machine.execUnlock value s
  | .bookingInsert vals => Sys2Proof.Machine.execBookingInsert vals s
  | .bookingChange number field vals => Sys2Proof.Machine.execBookingChange number field vals s
  | .bookingDelete number vals => Sys2Proof.Machine.execBookingDelete number vals s
  | .rosterWrite index field vals => Sys2Proof.Machine.execRosterWrite index field vals s
  | .templateWrite index field vals => Sys2Proof.Machine.execTemplateWrite index field vals s
  | .roomScreenWrite index field vals => Sys2Proof.Machine.execRoomScreenWrite index field vals s
  | .stationWrite index field vals => Sys2Proof.Machine.execStationWrite index field vals s
  | .groupsWrite index field vals => Sys2Proof.Machine.execGroupsWrite index field vals s
  | .destinationsWrite index field vals => Sys2Proof.Machine.execDestinationsWrite index field vals s
  | .mixStagedWrite index field vals => Sys2Proof.Machine.execMixStagedWrite index field vals s
  | .floorModeWrite index vals => Sys2Proof.Machine.execFloorModeWrite index vals s
  | .maxOpenWrite index vals => Sys2Proof.Machine.execMaxOpenWrite index vals s
  | .classOverrideWrite index vals => Sys2Proof.Machine.execClassOverrideWrite index vals s
  | .limitOverrideWrite index vals => Sys2Proof.Machine.execLimitOverrideWrite index vals s
  | .muteWrite index vals => Sys2Proof.Machine.execMuteWrite index vals s
  | .leadWrite index vals => Sys2Proof.Machine.execLeadWrite index vals s
  | .switchWrite index vals => Sys2Proof.Machine.execSwitchWrite index vals s
  | .gapWarnWrite index field vals => Sys2Proof.Machine.execGapWarnWrite index field vals s
  | .detectorSettingsWrite index field vals => Sys2Proof.Machine.execDetectorSettingsWrite index field vals s
  | .pageSelectionWrite index field vals => Sys2Proof.Machine.execPageSelectionWrite index field vals s
  | .grant seat force => Sys2Proof.Machine.execGrant seat force s
  | .revoke seat => Sys2Proof.Machine.execRevoke seat s
  | .next => Sys2Proof.Machine.execNext s
  | .queuePlace seat position => Sys2Proof.Machine.execQueuePlace seat position s
  | .clearQueue => Sys2Proof.Machine.execClearQueue s
  | .closeAll => Sys2Proof.Machine.execCloseAll s
  | .openAdhoc duration key chair mode maxOpen => Sys2Proof.Machine.execOpenAdhoc duration key chair mode maxOpen s
  | .extend minutes => Sys2Proof.Machine.execExtend minutes s
  | .endSession => Sys2Proof.Machine.execEndSession s
  | .sendMessage target text => Sys2Proof.Machine.execSendMessage target text s
  | .commit => Sys2Proof.Machine.execCommit s
  | .discard => Sys2Proof.Machine.execDiscard s
  | .save => Sys2Proof.Machine.execSave s
  | .saveComplete success => Sys2Proof.Machine.execSaveComplete success s
  | .enumerate wing => Sys2Proof.Machine.execEnumerate wing s
  | .halt => Sys2Proof.Machine.execHalt s
  | .resume => Sys2Proof.Machine.execResume s
  | .restart => Sys2Proof.Machine.execRestart s
  | .restartTakesEffect => Sys2Proof.Machine.execRestartTakesEffect s
  | .powerLoss => Sys2Proof.Machine.execPowerLoss s

end Sys2Proof.Machine
end

