-- ==== Sys2Proof/Machine/SeatUnit.lean ====
section
/-! DEFINITION. What a seat unit makes of the display chunks it receives (01 R20). The unit is outside the part: this is
a function of the chunks sent, not State (log 24). -/

namespace Sys2Proof.Machine

/-- A unit's display: the partial text with the index it expects next, and the text last latched. -/
structure UnitDisplay where
  partialText : Option (Text × Nat)
  shown       : Option Text
  deriving DecidableEq, Repr

/-- One chunk received. -/
def UnitDisplay.receive (u : UnitDisplay) (index : Nat) (chars : Text) : UnitDisplay :=
  if index = 0 then { u with partialText := some (chars, 1) }
  else
    match u.partialText with
    | some (t, expected) =>
      if index = expected then
        if index = 11 then { partialText := none, shown := some (t ++ chars) }
        else { u with partialText := some (t ++ chars, index + 1) }
      else { u with partialText := none }
    | none => u

/-- The chunks of a run of downstream slots, in the order received. -/
def UnitDisplay.receiveAll (u : UnitDisplay) (chunks : List (Nat × Text)) : UnitDisplay :=
  chunks.foldl (fun d c => d.receive c.1 c.2) u

/-- The twelve chunks of a text, in order (08 section 8.3). -/
def chunksOf (t : Text) : List (Nat × Text) := (List.range 12).map fun i => (i, chunkOf t i)

end Sys2Proof.Machine
end

