-- ==== Sys2Proof/WellFormed.lean ====
section
/-! DEFINITION. Which commands can come from outside: an operation is well formed when a request can carry it (10 R176,
12 Table 12-3) and it is one of its row's; a frame or a slot may be any bytes. -/

namespace Sys2Proof

open Sys2Proof.Machine

/-- The operation of a REQUEST that a command is, or none where the command is no operation. -/
def Instr.op : Instr → Option Op
  | .read obj first count => some (.read obj first count)
  | .readClear obj part => some (.readClear obj part)
  | .write obj index fld vals => some (.write obj index fld vals)
  | .setFlags obj index fld mask => some (.flags .set obj index fld mask)
  | .clearFlags obj index fld mask => some (.flags .clear obj index fld mask)
  | .toggleFlags obj index fld mask => some (.flags .toggle obj index fld mask)
  | .unlock value => some (.unlock value)
  | .bookingInsert vals => some (.write 0x06 0 0xFF vals)
  | .bookingChange num fld vals => some (.write 0x06 num fld vals)
  | .bookingDelete num vals => some (.write 0x06 num 0xFE vals)
  | .rosterWrite index fld vals => some (.write 0x07 index fld vals)
  | .templateWrite index fld vals => some (.write 0x08 index fld vals)
  | .roomScreenWrite index fld vals => some (.write 0x09 index fld vals)
  | .stationWrite index fld vals => some (.write 0x02 index fld vals)
  | .groupsWrite index fld vals => some (.write 0x03 index fld vals)
  | .destinationsWrite index fld vals => some (.write 0x04 index fld vals)
  | .mixStagedWrite index fld vals => some (.write 0x0B index fld vals)
  | .floorModeWrite index vals => some (.write 0x0D index 0 vals)
  | .maxOpenWrite index vals => some (.write 0x0D index 1 vals)
  | .classOverrideWrite index vals => some (.write 0x0A index 1 vals)
  | .limitOverrideWrite index vals => some (.write 0x0A index 2 vals)
  | .muteWrite index vals => some (.write 0x0A index 0 vals)
  | .leadWrite index vals => some (.write 0x05 index 0 vals)
  | .switchWrite index vals => some (.write 0x05 index 1 vals)
  | .gapWarnWrite index fld vals => some (.write 0x05 index fld vals)
  | .detectorSettingsWrite index fld vals => some (.write 0x05 index fld vals)
  | .pageSelectionWrite index fld vals => some (.write 0x05 index fld vals)
  | .grant seat force => some (.action Action.grant.code [seat, force])
  | .revoke seat => some (.action Action.revoke.code [seat])
  | .next => some (.action Action.next.code [])
  | .queuePlace seat position => some (.action Action.queuePlace.code [seat, position])
  | .clearQueue => some (.action Action.clearQueue.code [])
  | .closeAll => some (.action Action.closeAll.code [])
  | .openAdhoc duration key chair mode maxOpen =>
    some (.action Action.openAdhoc.code (be16 duration.toNat ++ [key, chair, mode, maxOpen]))
  | .extend minutes => some (.action Action.extend.code [minutes])
  | .endSession => some (.action Action.endSession.code [])
  | .sendMessage target txt => some (.action Action.sendMessage.code (target :: textBytes txt))
  | .commit => some (.action Action.commit.code [])
  | .discard => some (.action Action.discard.code [])
  | .save => some (.action Action.save.code [])
  | .enumerate wing => some (.action Action.enumerate.code [wing])
  | .halt => some (.action Action.halt.code [])
  | .resume => some (.action Action.resume.code [])
  | .restart => some (.action Action.restart.code [])
  | .powerOn _ _ | .resetInput _ _ | .carrierGain _ | .carrierLoss _ | .chainCycle | .upstreamSlot _ _
  | .wingEndMarker _ _ | .statusWord _ _ _ | .button _ | .priority _ | .enumerationPassEnd _ | .commitTransfer
  | .gapEnd _ | .turnTimerAdvance _ | .refusalFlashEnd _ | .messageStep _ | .screenWindowEnd _ | .clockTenth
  | .closingComplete | .holdover | .linkUp | .linkDown | .frameDropped _ | .audioIn _ | .time _ | .request _
  | .frameSent | .requestTake | .staggerExpiry | .saveComplete _ | .restartTakesEffect | .powerLoss => none

/-- The field codes and indexes of the rows that share one object's WRITE. -/
def Instr.ownFields : Instr → Bool
  | .bookingChange num fld _ => fld ≠ 0xFE && (num ≠ 0 || fld ≠ 0xFF)
  | .gapWarnWrite _ fld _ => 2 ≤ fld.toNat && fld.toNat ≤ 4
  | .detectorSettingsWrite _ fld _ => 5 ≤ fld.toNat && fld.toNat ≤ 9
  | .pageSelectionWrite _ fld _ => 10 ≤ fld.toNat && fld.toNat ≤ 15
  | _ => true

/-- A message's text fits the operation's length byte with its target, code and own length. -/
def Instr.textFits : Instr → Bool
  | .sendMessage _ txt => txt.length ≤ 252
  | _ => true

def Instr.wellFormed (i : Instr) : Bool :=
  i.ownFields && i.textFits && (match i.op with
    | some op => op.wellFormed
    | none => true)

end Sys2Proof
end

