-- ==== Sys2Proof/Safety.lean ====
section
/-! DEFINITION. What the statements speak of: when a management command reaches its owner and how it answers, what the
calendar, a loss and an auto-advance check bring, and the invariants the manual gives for the floor, the microphones, the
room link, the management engine and the clock. -/

namespace Sys2Proof.Machine

/-- A management command is the operation the engine is at, and it passes the checks of 10 R181 under the request's key. -/
def State.reaches (s : State) (i : Instr) : Bool :=
  match i.op, s.mgmt.hand with
  | some op, some h => s.atOp op && (s.check h.key op).isNone
  | _, _ => false

/-- The parts of the state, for saying what a command leaves as it was. -/
inductive Piece
  | power | wings | pos | level | seats | clock | cal | floor | mic
  /-- The live tables, the commit image and the two marks (06 R124). -/
  | tables
  | staged
  /-- The clip counters, the session's room_send, and what the cycle in progress uses. -/
  | mixCycle
  | templates | messages | delivery | screens
  /-- Station, groups and destinations (09 R165, R166). -/
  | addresses
  | audioReturn
  /-- The transmit queue, the transmit line and the turn of the screens (09 R170–R172). -/
  | sending
  | outCounter | linkState | linkCounters | mgmt | cfg | store | out | early | pending
  deriving DecidableEq, Repr

/-- The two states agree in a piece. -/
def State.agrees (s t : State) : Piece → Prop
  | .power => t.powered = s.powered
  | .wings => t.wingA = s.wingA ∧ t.wingB = s.wingB
  | .pos => t.pos = s.pos
  | .level => t.level = s.level
  | .seats => t.seats = s.seats
  | .clock => t.clock = s.clock
  | .cal => t.cal = s.cal
  | .floor => t.floor = s.floor
  | .mic => t.mic = s.mic
  | .tables => t.mix.live = s.mix.live ∧ t.mix.image = s.mix.image ∧ t.mix.pending = s.mix.pending ∧ t.mix.due = s.mix.due
  | .staged => t.mix.staged = s.mix.staged
  | .mixCycle => t.mix.outClips = s.mix.outClips ∧ t.mix.sendClips = s.mix.sendClips ∧ t.mix.roomSend = s.mix.roomSend ∧
      t.mix.cycleLive = s.mix.cycleLive ∧ t.mix.cycleChair = s.mix.cycleChair ∧ t.mix.cycleReturn = s.mix.cycleReturn
  | .templates => t.disp.templates = s.disp.templates
  | .messages => t.disp.messages = s.disp.messages
  | .delivery => t.disp.delivery = s.disp.delivery
  | .screens => t.disp.screens = s.disp.screens
  | .addresses => t.link.station = s.link.station ∧ t.link.groups = s.link.groups ∧
      t.link.noticeDest = s.link.noticeDest ∧ t.link.audioDest = s.link.audioDest
  | .audioReturn => t.link.learnt = s.link.learnt ∧ t.link.expected = s.link.expected ∧ t.link.buffer = s.link.buffer
  | .sending => t.link.queue = s.link.queue ∧ t.link.begun = s.link.begun ∧ t.link.held = s.link.held ∧
      t.link.line = s.link.line ∧ t.link.lastAdmitted = s.link.lastAdmitted
  | .outCounter => t.link.outCounter = s.link.outCounter
  | .linkState => t.link.up = s.link.up
  | .linkCounters => t.link.counters = s.link.counters
  | .mgmt => t.mgmt = s.mgmt
  | .cfg => t.cfg = s.cfg
  | .store => t.store = s.store
  | .out => t.out = s.out
  | .early => t.early = s.early
  | .pending => t.pending = s.pending

/-- Every piece but the listed ones is as it was. -/
def State.keeps (s t : State) (changed : List Piece) : Prop := ∀ p, p ∉ changed → s.agrees t p

/-- What the end of any command can touch: room screens are rendered again and may send, and the sending of the head of
the transmit queue may begin (08 R152, R160; 09 R171). -/
def screenPieces : List Piece := [.screens, .sending]

/-- What the end of an operation can touch beside its own effect: the engine, the reply, the room screens, and the
auto-commit of its request (10 R177, R178; 06 R128). -/
def opPieces : List Piece := [.mgmt, .screens, .sending, .tables]

/-- The floor's collections and what their changes bring: microphones, captured turns, notices, screens. -/
def floorPieces : List Piece := [.floor, .mic, .seats, .sending, .linkCounters, .screens]

/-- What the start of a session, its end and a change of the floor can touch. -/
def sessionPieces : List Piece := [.floor, .mic, .seats, .cal, .mixCycle, .messages, .sending, .linkCounters, .screens]

/-- What the loss of a seat can touch beside its position and its wing (01 R13). -/
def lossPieces : List Piece := sessionPieces ++ [.level, .delivery]

/-- A NOTICE of the kind stands in the transmit queue, where a notice destination is held and there was room for it and
for every room screen. -/
def State.notified (s t : State) (kind : Nat) (body : List Byte) : Prop :=
  ∀ d, s.link.noticeDest = some d → s.link.queue.length < 4 →
    ⟨d, s.link.station, .notice, be8 kind ++ body⟩ ∈ t.link.queue

/-! ## The end of an operation and of a request (10 R177, R178, R180) -/

/-- The request at the head ends with this payload as its reply (10 R178, R179). A SILENT one leaves with no reply. The
reply of another stands behind every frame of the queue and what this command sent before it, and the request leaves; where
the queue is full it waits in REPLY_WAIT, and a group request waits out its stagger first. -/
def State.requestEnds (s t : State) (silent : Bool) (payload : List Byte) : Prop :=
  ∀ r rest, s.mgmt.requests = r :: rest →
    let f : Frame := ⟨r.source, t.link.station, .reply, payload⟩
    let stagger := staggerCycles t.link.station
    let staggers := r.group = true ∧ 0 < stagger
    let leaves := t.mgmt.requests = rest ∧ t.mgmt.engine = (if rest = [] then .idle else .executing) ∧
      t.mgmt.hand = none ∧ t.mgmt.reply = none
    let waits := t.mgmt.requests = s.mgmt.requests ∧ t.mgmt.reply = some f
    ∃ ahead behind : List Frame, (∀ g ∈ ahead, g.kind ≠ .reply) ∧ (∀ g ∈ behind, g.kind = .screen) ∧
      let sent := s.link.queue ++ ahead
      (silent = true → leaves ∧ t.link.queue = sent) ∧
      (silent = false → ¬ staggers → sent.length < 8 → leaves ∧ t.link.queue = sent ++ f :: behind) ∧
      (silent = false → ¬ staggers → 8 ≤ sent.length → waits ∧ t.mgmt.engine = .replyWait ∧ t.link.queue = sent) ∧
      (silent = false → staggers → waits ∧ t.mgmt.engine = .stagger ∧ t.mgmt.stagger = stagger ∧ t.link.queue = sent)

/-- The request in hand ends with this operation, its status and what it returned (10 R177, R180): the overall status is OK
where the operation succeeded, otherwise its own with its number, and the unlock mark is cleared. -/
def State.endsWith (s t : State) (h : Hand) (st : Status) (own : List Returned) : Prop :=
  let n := h.statuses.length + 1
  t.mgmt.unlocked = false ∧ t.mgmt.restart = s.mgmt.restart ∧
    s.requestEnds t h.silent (replyPayload h.tag (if st.success then .ok else st) n (if st.success then 0 else n)
      (h.statuses ++ [st]) (h.returned ++ own))

/-- The staged tables are committed: into the image, due at the next boundary, or into the live tables at once while halted
(06 R127, R130). -/
def State.commitsTo (s t : State) : Prop :=
  t.mix.pending = false ∧
    (t.store.halted = false → t.mix.image = some t.mix.staged ∧ t.mix.due = true ∧ t.mix.live = s.mix.live) ∧
    (t.store.halted = true → t.mix.image = none ∧ t.mix.due = false ∧ t.mix.live = t.mix.staged)

/-- The operation is about the mix tables themselves: a WRITE of MIX_STAGED, COMMIT, DISCARD. -/
def Op.mixes : Op → Bool
  | .write obj _ _ _ => obj = 0x0B
  | .action code _ => code = 0x0B || code = 0x0C
  | _ => false

/-- The operation ended with a success and returned `own`. With operations to come the engine goes on to the next; with the
last one the request ends. A request that stored a staged value is committed at its end where auto_commit stands at yes
there, and nothing else moves the mix tables but an operation about them (06 R128). -/
def State.answers (s t : State) (st : Status) (own : List Returned) : Prop :=
  st.success = true ∧ ∀ h op rest, s.mgmt.hand = some h → h.ops = op :: rest →
    (rest ≠ [] → (op.mixes = false → s.agrees t .tables) ∧
      t.mgmt.requests = s.mgmt.requests ∧ t.mgmt.engine = .executing ∧ t.mgmt.restart = s.mgmt.restart ∧
      ∃ g, t.mgmt.hand = some g ∧ (op.mixes = false → g.staged = h.staged) ∧
        g = { h with ops := rest, statuses := h.statuses ++ [st], returned := h.returned ++ own, staged := g.staged }) ∧
    (rest = [] → s.endsWith t h st own ∧
      (op.mixes = false → t.cfg.autoCommit = true → h.staged = true → s.commitsTo t) ∧
      (op.mixes = false → t.cfg.autoCommit = false ∨ h.staged = false → s.agrees t .tables))

/-- The operation stored values in MIX_STAGED: the commit-pending mark is yes and the request has stored a staged value,
until the end of the request, which commits where auto_commit stands at yes and otherwise leaves the mark (06 R125, R128). -/
def State.stages (s t : State) : Prop :=
  let waits := t.mix.pending = true ∧ t.mix.live = s.mix.live ∧ t.mix.image = s.mix.image ∧ t.mix.due = s.mix.due
  ∀ h op rest, s.mgmt.hand = some h → h.ops = op :: rest →
    (rest ≠ [] → waits ∧ ∃ g, t.mgmt.hand = some g ∧ g.staged = true) ∧
    (rest = [] → (t.cfg.autoCommit = true → s.commitsTo t) ∧ (t.cfg.autoCommit = false → waits))

/-- The operation ended with a success and returns no values. -/
def State.answered (s t : State) (st : Status) : Prop := s.answers t st []

/-- The operation failed and changed nothing of its object: its request ends, with a reply that names the failure, and with
no auto-commit (10 R177, R180; 06 R128). A failed READ or READ_CLEAR returns no entries, a count of 0 (log 11). -/
def State.fails (s t : State) (st : Status) : Prop :=
  st.success = false ∧ s.keeps t [.mgmt, .screens, .sending] ∧
  ∀ h op rest, s.mgmt.hand = some h → h.ops = op :: rest →
    s.endsWith t h st (if op.isRead then [⟨0, []⟩] else [])

/-- The good slot of this cycle of the seat's unit carried a press, at a PRESENT position in use, and no status word that
is still to take (01 R18). -/
def State.heard (s : State) (seat : Seat) (k : Press) : Prop :=
  s.powered = true ∧ s.live (s.phys seat) = true ∧ s.pos[s.phys seat].slot = .good ∧
    s.pos[s.phys seat].event = some k ∧ s.pos[s.phys seat].answer = none

/-- The press that the slot of the seat's unit carried is taken, and nothing else of a position has changed. -/
def State.pressTaken (s t : State) (seat : Seat) : Prop :=
  t.pos = s.pos.set (s.phys seat) { s.pos[s.phys seat] with event := none }

/-- In IN_SESSION, at a table that is not halted, the seat's answer is ADMITTED (02 R30, 04 R74). -/
def State.mayAsk (s : State) (seat : Seat) : Prop :=
  s.store.halted = false ∧ s.cal.session = .inSession ∧ s.pos[s.phys seat].presence = .present ∧
    s.pos[s.phys seat].statusValid = true ∧ s.classOf seat ≠ .observer ∧ s.permitted seat = true

/-- No auto-advance check can grant a seat. -/
def State.noAdvance (s : State) : Prop := s.floor.mode ≠ .queue ∨ s.cfg.autoAdvance = false

/-- The bytes of a booking record as a change carries them: every field but the number and the state (12 R198). -/
def Booking.written (b : Booking) : List Byte :=
  be32 b.start ++ be16 b.duration ++ be16 b.grace ++ be8 b.key.val ++ be8 b.chair.val
    ++ be8 ((b.roster.map (·.val)).getD 0xFF) ++ be8 b.mode.code ++ be8 b.maxOpen ++ be16 b.speakLimit
    ++ be8 b.limitAction.code ++ be8 b.flags ++ textBytes b.title

/-- A WAITING record whose fields lie in their ranges and whose title is taken in as it stands (03 Table 3-2, R48). -/
def Booking.inRange (b : Booking) : Prop :=
  0 < b.number ∧ b.number < 65536 ∧ b.start < minutes ∧ 5 ≤ b.duration ∧ b.duration ≤ 1440 ∧ b.grace ≤ 30 ∧
    1 ≤ b.maxOpen ∧ b.maxOpen ≤ 6 ∧ b.speakLimit ≤ 3600 ∧ b.title.length ≤ 32 ∧ takeIn b.title = b.title ∧ b.active = false

/-- An enumeration pass of the wing begins at its first cycle at the next boundary (01 R6). -/
def State.passStarts (t : State) (w : Wing) : Prop :=
  (t.wing w).state = .enumerating ∧ (t.wing w).passCycle = 0 ∧ (t.wing w).passCount = none

/-- The seats of the open list, then those of the request queue. -/
def Floor.seats (f : Floor) : List Seat := f.openList.map (·.seat) ++ f.queue.map (·.seat)

/-- The floor may hold seats: a session in IN_SESSION or GRACE, and a table that is not halted (04 R71). -/
def State.floorRuns (s : State) : Bool := s.cal.session.runs && !s.store.halted

/-- 04 R68, R69, R71: the sizes of the two collections, no seat twice in them, both empty when the floor does not run. -/
def State.FloorOk (s : State) : Prop :=
  s.floor.openList.length ≤ 8 ∧ s.floor.queue.length ≤ 16 ∧ s.floor.seats.Nodup ∧
    (s.floorRuns = false → s.floor.openList = [] ∧ s.floor.queue = [])

/-- 04 R73: a seat's microphone is OPENING or OPEN exactly while the seat holds the floor. -/
def State.MicOk (s : State) : Prop :=
  ∀ seat : Seat, s.holds seat = true ↔ ((s.micOf seat).state = .opening ∨ (s.micOf seat).state = .opened)

/-- In CLOSING some microphone is not CLOSED yet: the report that all are completes it at once (03 R58, 05 R110). -/
def State.ClosingOk (s : State) : Prop :=
  s.cal.session = .closing → ∃ seat : Seat, (s.micOf seat).state ≠ .closed

/-- 09 R170, R171, R173 and Table 9-3: the sizes of the transmit queue and the return buffer, what UNLEARNT means for it,
and what is on the line. -/
def State.LinkOk (s : State) : Prop :=
  s.link.queue.length ≤ 8 ∧ s.link.buffer.length ≤ 2 ∧ (s.link.learnt = false → s.link.buffer = []) ∧
    (s.link.begun = true → s.link.up = true ∧ s.link.queue ≠ []) ∧ (s.link.begun = false → s.link.held = [])

/-- A booking that may stand in the table: an ad hoc record (number 0) is ACTIVE, and one that waits has a length. -/
def Booking.ok (b : Booking) : Prop :=
  b.number < 65536 ∧ 1 ≤ b.maxOpen ∧ b.maxOpen ≤ 6 ∧ (b.active = false → 0 < b.number ∧ 0 < b.duration)

/-- 03 R47: at most 32 records of unique numbers, in start order, no two of which share a minute, at most one ACTIVE. -/
def bookingsOk (bs : List Booking) : Prop :=
  bs.length ≤ 32 ∧ (bs.map (·.number)).Nodup ∧ (∀ b ∈ bs, b.ok) ∧
    bs.Pairwise (fun a b => a.start ≤ b.start ∧ ¬ (max a.start b.start < min (a.start + a.duration) (b.start + b.duration)) ∧
      (a.start = b.start → b.active = false) ∧ ¬ (a.active = true ∧ b.active = true))

/-- The images of the store: the two areas and the one being written. -/
def Store.images (st : Store) : List Image := st.areaA.toList ++ st.areaB.toList ++ (st.writing.map (·.snapshot)).toList

/-- 03 R47: the booking table has its shape, with an ACTIVE record exactly while a session is active; the stored tables
have it, with no ACTIVE record. -/
def State.TableOk (s : State) : Prop :=
  bookingsOk s.cal.bookings ∧ (s.cal.session.isActive = true ↔ ∃ b ∈ s.cal.bookings, b.active = true) ∧
    ∀ i ∈ s.store.images, bookingsOk i.bookings ∧ ∀ b ∈ i.bookings, b.active = false

/-- 04 R68, R72: no more non-chair seats than max_open, which is 1 to 6, and every seat of the two collections PRESENT with
a valid status and permitted. -/
def State.HoldersOk (s : State) : Prop :=
  1 ≤ s.floor.maxOpen ∧ s.floor.maxOpen ≤ 6 ∧ s.nonChair ≤ s.floor.maxOpen ∧
    ∀ seat ∈ s.floor.seats, s.pos[s.phys seat].presence = .present ∧ s.pos[s.phys seat].statusValid = true ∧
      s.permitted seat = true

/-! ## What an auto-advance check brings, for statements about any command that causes one (04 R79) -/

/-- There is room for a seat beside these entries of the open list (04 R68). -/
def State.roomBeside (s : State) (l : List OpenEntry) (seat : Seat) : Prop :=
  l.length < 8 ∧ (s.classOf seat = .chair ∨ (l.filter fun e => s.classOf e.seat ≠ .chair).length < s.floor.maxOpen)

/-- A check can grant seats: IN_SESSION, in QUEUE mode, at a table that is not halted, with auto_advance at yes. -/
def State.Advancing (s : State) : Prop :=
  s.store.halted = false ∧ s.cal.session = .inSession ∧ s.floor.mode = .queue ∧ s.cfg.autoAdvance = true ∧ s.FloorOk

/-- A check has been made on the open list `kept` and the queue `waiting`, which some change of `s` left: the heads that
find room, and no more, have joined the end of the list in their order, their microphones OPENING; of the other seats only
those of `touched` have a microphone that moved. -/
def State.Advances (s t : State) (kept : List OpenEntry) (waiting : List QueueEntry) (touched : List Seat) : Prop :=
  let granted := fun n : Nat => (waiting.take n).map fun e => (⟨e.seat, s.clock.now, .queue⟩ : OpenEntry)
  ∃ k : Nat, k ≤ waiting.length ∧ t.floor.openList = kept ++ granted k ∧ t.floor.queue = waiting.drop k ∧
    (∀ (n : Nat) (e : QueueEntry), waiting[n]? = some e →
      (n < k → s.roomBeside (kept ++ granted n) e.seat) ∧ (n = k → ¬ s.roomBeside (kept ++ granted n) e.seat)) ∧
    (∀ e ∈ waiting.take k, (t.micOf e.seat).state = .opening ∧ (t.micOf e.seat).gap = s.cfg.openGap ∧
      (t.micOf e.seat).queued = false) ∧
    ∀ i, i ∉ touched → (∀ e ∈ waiting.take k, e.seat ≠ i) → t.micOf i = s.micOf i

/-- A microphone that was OPENING or OPEN goes through its close gap (05 R100). -/
def State.GapCloses (s t : State) (seat : Seat) : Prop :=
  (s.micOf seat).state = .opening ∨ (s.micOf seat).state = .opened →
    (t.micOf seat).state = .closing ∧ (t.micOf seat).gap = s.cfg.closeGap

/-- The units of the positions `gone` are lost, to the floor, the microphones and the displays: each seat's entries go with
reason LOST and its microphone is CLOSED at once (01 R13; 04 R90; 05 R101; 08 R155, R157); nothing else of the floor and of
the microphones moves, but for two things. In GRACE the removal of the last holder begins CLOSING; in IN_SESSION in QUEUE
mode a check follows each removal, which grants heads of the queue in their order (04 R79), a gone seat too before its own
loss is taken (the lowest position goes first: log 41). A loss that completes CLOSING can change the chair position, and with
it the seats that the later losses are told for. -/
def State.Loses (s t : State) (gone : Pos → Bool) : Prop :=
  let keptOpen := s.floor.openList.filter fun e => !gone (s.phys e.seat)
  let keptQueue := s.floor.queue.filter fun e => !gone (s.phys e.seat)
  (s.FloorOk → ∀ seat : Seat, gone (s.phys seat) = true → (t.micOf seat).state = .closed ∧
    t.disp.messages[seat] = none ∧ t.holds seat = false ∧ t.queued seat = false ∧
    (t.seats.chair = s.seats.chair → t.floor.blocked[seat] = false ∧ t.floor.seen[seat] = false)) ∧
  ((s.cal.session ≠ .grace ∧ s.cal.session ≠ .closing) ∨ t.cal.session = s.cal.session →
    t.seats.chair = s.seats.chair) ∧
  (s.cal.session = .inSession → t.cal = s.cal ∧ ∀ seat : Seat, gone (s.phys seat) = false →
    t.disp.messages[seat] = s.disp.messages[seat] ∧ t.floor.blocked[seat] = s.floor.blocked[seat]) ∧
  (s.cal.session = .inSession → s.noAdvance → t.floor.openList = keptOpen ∧
    (s.FloorOk → t.floor.queue = keptQueue) ∧
    ∀ seat : Seat, (gone (s.phys seat) = true → (t.micOf seat).state = .closed ∧ t.disp.messages[seat] = none ∧
        t.floor.blocked[seat] = false ∧ t.floor.seen[seat] = false) ∧
      (gone (s.phys seat) = false → t.micOf seat = s.micOf seat)) ∧
  (s.cal.session = .inSession → s.floor.mode = .queue → s.FloorOk → ∃ k : Fin 17,
    t.floor.openList = keptOpen ++ (keptQueue.take k.val).map (fun e => ⟨e.seat, s.clock.now, .queue⟩) ∧
    t.floor.queue = keptQueue.drop k.val ∧
    ((∀ e ∈ s.floor.openList, gone (s.phys e.seat) = false) → k.val = 0) ∧
    ((∃ e ∈ s.floor.openList, gone (s.phys e.seat) = true) → s.cfg.autoAdvance = true →
      (∀ e ∈ s.floor.queue, gone (s.phys e.seat) = false) →
      ∀ e, (keptQueue.drop k.val).head? = some e → t.room e.seat = false) ∧
    ∀ seat : Seat, gone (s.phys seat) = false →
      ((∃ e ∈ keptQueue.take k.val, e.seat = seat) → (t.micOf seat).state = .opening ∧
        (t.micOf seat).gap = s.cfg.openGap ∧ (t.micOf seat).queued = false) ∧
      ((∀ e ∈ keptQueue.take k.val, e.seat ≠ seat) → t.micOf seat = s.micOf seat)) ∧
  (s.cal.session = .grace → t.floor.openList = keptOpen ∧
    (keptOpen ≠ [] ∨ s.floor.openList = [] → t.cal = s.cal ∧ (s.FloorOk → t.floor.queue = keptQueue) ∧
      ∀ seat : Seat, gone (s.phys seat) = false → t.micOf seat = s.micOf seat) ∧
    (keptOpen = [] → s.floor.openList ≠ [] → t.floor.queue = [] ∧ t.cal.session ≠ .grace ∧
      (t.cal.lastReport.map (·.cause)) = some .floorEmpty))

/-! ## What the calendar brings, for statements about any command that brings it -/

/-- The session of the booking `b` has started; the records `rest` still wait (03 R54; 02 R24, R38, R41; 04 R71). -/
def State.Started (s t : State) (b : Booking) (rest : List Booking) : Prop :=
  t.cal.session = .inSession ∧ t.cal.actualStart = t.clock.now ∧ t.cal.endCause = none ∧
    t.activeBooking = some { b with active := true } ∧ waitingOf t.cal.bookings = rest ∧ (∀ r : Fin 8, t.cal.tally[r] = 0) ∧
    t.seats.chair = b.chair ∧ t.floor.mode = b.mode ∧ t.floor.maxOpen = b.maxOpen ∧ (∀ i : Seat, t.floor.blocked[i] = false) ∧
    t.mic.speakLimit = b.speakLimit ∧ t.mic.limitAction = b.limitAction ∧ t.mix.roomSend = b.roomSend ∧
    (∀ i : Seat, t.disp.messages[i] = none) ∧
    (∀ p : Pos, t.seats.recs[p].spoke = false ∧ t.seats.recs[p].changed = false ∧ t.seats.recs[p].turnCount = 0 ∧
      t.seats.recs[p].total = 0 ∧ t.seats.recs[p].lastTurn = 0) ∧
    (b.roster = none → ∀ p : Pos, t.seats.recs[p].participant = none) ∧
    ∀ r, b.roster = some r → ∀ p : Pos,
      ((∀ slot : Fin 64, ((s.cal.rosters[r])[slot]).map (·.position) ≠ some p) → t.seats.recs[p].participant = none) ∧
      ∀ (slot : Fin 64) (e : RosterEntry), (s.cal.rosters[r])[slot] = some e → e.position = p →
        (∀ other : Fin 64, other ≠ slot → ((s.cal.rosters[r])[other]).map (·.position) ≠ some p) →
        t.seats.recs[p].participant = some ⟨e.name, e.key, e.role, e.limit⟩

/-- An evaluation in VACANT or ARMED with the clock set: what is past goes as MISSED; the next booking starts when its start
has come, arms the table within its lead, and leaves it VACANT before (03 R52–R54, R63). -/
def State.EvaluatedIdle (s t : State) : Prop :=
  let now := t.clock.now.minute
  let left := s.cal.bookings.filter fun b => b.active || decide (now < b.start + b.duration)
  t.floor.openList = s.floor.openList ∧ t.floor.queue = s.floor.queue ∧
    match waitingOf left with
    | [] => t.cal.session = .vacant ∧ t.cal.bookings = left ∧ t.seats = s.seats ∧ t.floor.mode = s.floor.mode
    | b :: rest =>
      (b.start ≤ now → s.Started t b rest) ∧
      (now < b.start → t.cal.session = (if b.start ≤ now + t.cfg.lead then .armed else .vacant) ∧ t.cal.bookings = left ∧
        t.seats = s.seats ∧ t.floor.mode = s.floor.mode)

/-- CLOSING has completed: the ACTIVE record is gone, the seat table has done its end-of-session work, one-shot messages are
cleared, no step is pending, and with the clock set the calendar has evaluated (02 R36; 03 R58; 08 R157). -/
def State.Completed (s t : State) : Prop :=
  let v : State := { s with
    cal := { s.cal with bookings := s.cal.bookings.filter (fun b => !b.active), session := .vacant, stepPending := false }
    seats := { recs := mapAll s.seats.recs fun _ r =>
                 { r with participant := none, classOverride := none, limitOverride := none, seatMute := false }
               chair := 0, sessionMute := false, wingAMute := false, wingBMute := false } }
  (∀ i : Seat, t.disp.messages[i] = none) ∧ t.cal.stepPending = false ∧
    (s.clock.sync = .unsynced → t.cal.session = .vacant ∧ t.cal.bookings = v.cal.bookings ∧ t.seats = v.seats) ∧
    (s.clock.sync ≠ .unsynced → v.EvaluatedIdle t)

/-- CLOSING has begun with its cause: the floor is empty, its microphones are closing, the report is stored; where every
microphone was CLOSED it has completed already (03 R57, R58, R66; 04 R71; 08 R157). -/
def State.Closes (s t : State) (cause : EndCause) : Prop :=
  t.floor.openList = [] ∧ t.floor.queue = [] ∧ (∀ i : Seat, t.disp.messages[i] = none) ∧
    (∃ r, t.cal.lastReport = some r ∧ r.cause = cause ∧ r.start = s.cal.actualStart ∧ r.finish = t.clock.now ∧
      r.refusals = s.cal.tally ∧ ∀ b, s.activeBooking = some b → r.number = b.number ∧ r.title = b.title) ∧
    (∀ i : Seat, s.holds i = true → (s.micOf i).state = .opening ∨ (s.micOf i).state = .opened →
      (t.micOf i).state = .closing) ∧
    ((∃ i : Seat, (s.micOf i).state ≠ .closed) → t.cal.session = .closing ∧ t.cal.endCause = some cause ∧
      t.cal.actualEnd = t.clock.now ∧ t.cal.graceEnd = none ∧ t.cal.bookings = s.cal.bookings) ∧
    ((∀ i : Seat, (s.micOf i).state = .closed) →
      ({ s with floor := { s.floor with openList := [], queue := [] } }).Completed t)

/-- The session goes on in a state, with these bookings, and nothing of the floor has changed. -/
def State.GoesOn (s t : State) (x : Session) (bs : List Booking) : Prop :=
  t.cal.session = x ∧ t.cal.bookings = bs ∧ t.floor = s.floor ∧ t.mic = s.mic ∧ t.seats = s.seats

/-- An evaluation with the clock set, in any session state (03 R52, R55, R56, R59, R63, R64). -/
def State.Evaluated (s t : State) : Prop :=
  let now := t.clock.now.minute
  let left := s.cal.bookings.filter fun b => b.active || decide (now < b.start + b.duration)
  let u : State := { s with cal := { s.cal with bookings := left } }
  ((s.cal.session = .vacant ∨ s.cal.session = .armed) → s.EvaluatedIdle t) ∧
    (s.cal.session = .closing → s.GoesOn t .closing s.cal.bookings) ∧
    ∀ b, s.activeBooking = some b →
      let finish := b.start + b.duration
      let graceEnd := ((waitingOf left).map (·.start)).foldl min (finish + b.grace)
      (s.cal.session = .inSession ∨ s.cal.session = .grace → now < finish → s.GoesOn t .inSession left) ∧
      (s.cal.session = .inSession → finish ≤ now →
        ((0 < b.grace ∧ now < graceEnd ∧ s.floor.openList ≠ []) →
          s.GoesOn t .grace left ∧ t.cal.graceEnd = some graceEnd) ∧
        (¬ (0 < b.grace ∧ now < graceEnd ∧ s.floor.openList ≠ []) → u.Closes t .endTime)) ∧
      (s.cal.session = .grace → finish ≤ now →
        (graceEnd ≤ now → u.Closes t .graceEnd) ∧
        (now < graceEnd → s.GoesOn t .grace left ∧ t.cal.graceEnd = some graceEnd))

/-- What follows a cause of an evaluation, where `s` is the state with the change made: with the clock set an evaluation; in
UNSYNCED the end of an ad hoc booking alone is tested (03 R52). -/
def State.Settles (s t : State) : Prop :=
  let same := t.cal = s.cal ∧ t.floor = s.floor ∧ t.mic = s.mic ∧ t.seats = s.seats
  (s.clock.sync ≠ .unsynced → s.TableOk → (s.cal.session = .grace → s.noAdvance) → s.Evaluated t) ∧
    (s.clock.sync = .unsynced → (s.cal.session.runs = false ∨ s.activeBooking.map (·.number) ≠ some 0) → same) ∧
    ∀ b, s.activeBooking = some b → s.clock.sync = .unsynced → b.number = 0 → b.grace = 0 → s.cal.session = .inSession →
      (t.clock.now.minute < b.start + b.duration → same) ∧
      (b.start + b.duration ≤ t.clock.now.minute → s.Closes t .endTime)

/-- The seat's entry has left the open list by a removal that takes the microphone through its close gap; in GRACE the last
one begins CLOSING (04 R71, R73; 05 R100). -/
def State.LeavesTheFloor (s t : State) (seat : Seat) : Prop :=
  let rest := s.floor.openList.filter fun x => x.seat ≠ seat
  t.floor.openList = rest ∧ t.floor.mode = s.floor.mode ∧ t.floor.maxOpen = s.floor.maxOpen ∧
    ((s.micOf seat).state = .opening ∨ (s.micOf seat).state = .opened →
      (t.micOf seat).state = .closing ∧ (t.micOf seat).gap = s.cfg.closeGap) ∧
    (s.cal.session = .inSession ∨ rest ≠ [] → t.cal = s.cal ∧ t.floor.queue = s.floor.queue ∧
      ∀ i, i ≠ seat → t.micOf i = s.micOf i) ∧
    (s.cal.session = .grace → rest = [] → ((s.micOf seat).state = .opening ∨ (s.micOf seat).state = .opened) →
      s.Closes t .floorEmpty)

/-- CHAIN_CYCLE at this state finds nothing of the cycle to take, no restart, no voice operation and no end of a pass: what
remains are the steps of the boundary. -/
def State.quiet (s : State) : Prop :=
  s.powered = true ∧ s.mgmt.restart = .none ∧ (∀ p : Pos, s.pos[p].answer = none ∧ s.pos[p].event = none) ∧
    s.floor.mode ≠ .voice ∧ s.wingA.passEnds = false ∧ s.wingB.passEnds = false

/-- 10 Table 10-1, Table 10-2: at most four requests, and IDLE exactly when there is none. -/
def State.MgmtOk (s : State) : Prop :=
  s.mgmt.requests.length ≤ 4 ∧ (s.mgmt.engine = .idle ↔ s.mgmt.requests = [])

/-- 06 R120, R121: the output clip counters and the room send clip counter stop at 65535. -/
def State.ClipsOk (s : State) : Prop := s.mix.sendClips ≤ 65535 ∧ ∀ seat : Seat, s.mix.outClips[seat] ≤ 65535

/-- 03 R43: the ranges of the clock. -/
def State.ClockOk (s : State) : Prop :=
  s.clock.now.minute < minutes ∧ s.clock.now.second ≤ 59 ∧ s.clock.now.tenth ≤ 9 ∧ s.clock.cycles ≤ 199 ∧
    s.clock.age ≤ 65535

end Sys2Proof.Machine
end

