-- ==== Sys2Proof/Certificates/Slice0/Obligations.lean ====
section
/-! DEFINITION. The statements for the provers. `reaches` says that a management command is the operation the engine is at
and passes the checks of 10 R181 (log 3); `answers`, `answered` and `fails` say how it ends, its status and, where it is the
last of its request or fails, the reply and the auto-commit (10 R177, R178, R180; 06 R128; the count of 0 of a failed READ:
log 11); `keeps` lists the pieces a command may touch, every other being as it was; the room screens and the transmit queue
are among them because every command ends with the screens rendered (log 17). -/

open Sys2Proof Sys2Proof.Machine

/-! ## The step and the queue of commands -/

/-- A step runs the command at the front of the queue on the state with the queue's rest; with an empty queue it
changes nothing (log 1: the model's choice). -/
def Obligations.StepRunsTheFrontCommand : Prop :=
  (∀ (c : Instr) (rest : List Instr) (s : State), s.pending = c :: rest → step s = exec c { s with pending := rest }) ∧
  (∀ s : State, s.pending = [] → step s = .next s)

/-- Every command answers a next state in every state and leaves the queue of commands as it was: the manual names
nothing that stops the part. By the model's choice a command with nothing of its own to do changes nothing: any but
POWER_ON at a part without power (log 22), an operation the engine is not at (log 3), a boundary step that is not due
or was taken already (log 2), a status word or a press that the slot of the cycle does not carry (log 30). -/
def Obligations.EveryCommandAnswersANextState : Prop :=
  (∀ (c : Instr) (s : State), ∃ t, exec c s = .next t ∧ t.pending = s.pending) ∧
  (∀ (c : Instr) (s : State), s.powered = false → c ≠ .powerLoss → (∀ carrierA carrierB, c ≠ .powerOn carrierA carrierB) →
    exec c s = .next s) ∧
  (∀ (c : Instr) (op : Op) (s : State), c.op = some op → s.atOp op = false → exec c s = .next s) ∧
  (∀ (s : State) (seat : Seat), (s.early.contains (.mic seat) = true ∨ 2 ≤ (s.micOf seat).gap ∨
      (s.micOf seat).state = .closed ∨ (s.micOf seat).state = .opened) →
    ∃ t, exec (.gapEnd seat) s = .next t ∧ s.keeps t screenPieces) ∧
  (∀ (s : State) (seat : Seat), (s.early.contains (.mic seat) = true ∨ (s.micOf seat).cycles < 199 ∨
      (s.micOf seat).state ≠ .opened) →
    ∃ t, exec (.turnTimerAdvance seat) s = .next t ∧ s.keeps t screenPieces) ∧
  (∀ (s : State) (seat : Seat), (s.micOf seat).flash ≠ 1 →
    ∃ t, exec (.refusalFlashEnd seat) s = .next t ∧ s.keeps t screenPieces) ∧
  (∀ (s : State) (seat : Seat), (s.early.contains (.message seat) = true ∨
      ∀ m, s.disp.messages[seat] = some m → 2 ≤ m.counter) →
    ∃ t, exec (.messageStep seat) s = .next t ∧ s.keeps t screenPieces) ∧
  (∀ (s : State) (e : Fin 4), (s.early.contains (.screen e) = true ∨ s.disp.screens[e].window ≠ 1) →
    ∃ t, exec (.screenWindowEnd e) s = .next t ∧ s.keeps t screenPieces) ∧
  (∀ s : State, (s.early.contains .tenth = true ∨ s.clock.cycles < 199) →
    ∃ t, exec .clockTenth s = .next t ∧ s.keeps t screenPieces) ∧
  (∀ s : State, (s.early.contains .stagger = true ∨ s.mgmt.engine ≠ .stagger ∨ 2 ≤ s.mgmt.stagger) →
    ∃ t, exec .staggerExpiry s = .next t ∧ s.keeps t screenPieces) ∧
  (∀ (s : State) (p : Pos) (card : Option Key) (serial : Serial), s.pos[p].answer ≠ some (card, serial) →
    ∃ t, exec (.statusWord p card serial) s = .next t ∧ s.keeps t screenPieces) ∧
  (∀ (s : State) (p : Pos), s.pos[p].event ≠ some .button →
    ∃ t, exec (.button p) s = .next t ∧ s.keeps t screenPieces) ∧
  (∀ (s : State) (p : Pos), s.pos[p].event ≠ some .priority →
    ∃ t, exec (.priority p) s = .next t ∧ s.keeps t screenPieces)

/-- What reset leaves: the values the manual gives (the mix tables are 06 R124's, the level state 07 R134's, the screens
08 R145's). That the state after reset has a store that was never written (log 19) and no carrier on either wing (log 21)
is the model's choice. -/
def Obligations.ResetLeavesThePowerOnValues : Prop :=
  let r := State.reset
  (r.wingA.state = .down ∧ r.wingB.state = .down ∧ r.wingA.recorded = 0 ∧ r.wingB.assigned = 0 ∧ r.wingA.scanPos = 0) ∧
  (∀ p : Pos, r.pos[p].presence = .absent ∧ r.pos[p].serial = none ∧ r.pos[p].loss = 0 ∧
    r.pos[p].statusValid = false ∧ r.pos[p].card = none) ∧
  (∀ p : Pos, r.level[p].envelope = 0 ∧ r.level[p].meter = 0 ∧ r.level[p].clips = 0) ∧
  (∀ p : Pos, r.seats.recs[p].participant = none ∧ r.seats.recs[p].classOverride = none ∧
    r.seats.recs[p].seatMute = false ∧ r.seats.recs[p].turnCount = 0 ∧ r.seats.recs[p].limitOverride = none) ∧
  (r.seats.chair = 0 ∧ r.seats.sessionMute = false ∧ r.seats.wingAMute = false ∧ r.seats.wingBMute = false) ∧
  (r.clock.now = ⟨0, 0, 0⟩ ∧ r.clock.cycles = 0 ∧ r.clock.sync = .unsynced ∧ r.clock.age = 0) ∧
  (r.cal.session = .vacant ∧ r.cal.bookings = [] ∧ r.cal.stepPending = false ∧ r.cal.lastReport = none) ∧
  (r.floor.mode = .openFloor ∧ r.floor.maxOpen = 4 ∧ r.floor.openList = [] ∧ r.floor.queue = []) ∧
  (∀ seat : Seat, (r.micOf seat).state = .closed ∧ (r.micOf seat).flash = 0 ∧ (r.micOf seat).queued = false) ∧
  (∀ seat : Seat, r.mix.live.gin[seat] = 4096 ∧ r.mix.live.gout[seat] = 4096 ∧ r.mix.outClips[seat] = 0) ∧
  (r.mix.live.duckOwn = 0 ∧ r.mix.live.duckNear = 1024 ∧ r.mix.staged = r.mix.live ∧ r.mix.image = none) ∧
  (∀ e : Fin 4, r.disp.screens[e].addr = none ∧ r.disp.screens[e].waiting = false) ∧
  (r.link.up = false ∧ r.link.queue = [] ∧ r.link.learnt = false ∧ r.link.noticeDest = none ∧ r.link.audioDest = none) ∧
  (r.mgmt.engine = .idle ∧ r.mgmt.requests = [] ∧ r.mgmt.unlocked = false ∧ r.mgmt.stagger = 0) ∧
  (r.cfg.lead = 5 ∧ r.cfg.openGap = 2 ∧ r.cfg.closeGap = 40 ∧ r.cfg.warnTime = 30 ∧ r.cfg.autoAdvance = true) ∧
  (r.store.writing = none ∧ r.store.lastResult = none ∧ r.store.source = .defaults ∧ r.store.storeInvalid = true ∧
    r.store.halted = false)

/-! ## Invariants that every step keeps, from every state that has them -/

/-- The state after reset has every one of the invariants below. -/
def Obligations.ResetHasTheInvariants : Prop :=
  State.reset.FloorOk ∧ State.reset.MicOk ∧ State.reset.LinkOk ∧ State.reset.MgmtOk ∧ State.reset.ClockOk ∧
    State.reset.ClosingOk ∧ State.reset.TableOk ∧ State.reset.HoldersOk ∧ State.reset.ClipsOk

/-- The open list holds at most 8 seats and the request queue at most 16, no seat stands twice in the two together,
and both are empty outside IN_SESSION and GRACE and while the table is halted. With a booking table in its shape, no
more than max_open non-chair seats hold the floor, max_open is 1 to 6, and every seat of the two is PRESENT with a valid
status and permitted. -/
def Obligations.EveryStepKeepsTheFloorInvariant : Prop :=
  ∀ s t : State, s.FloorOk → step s = .next t → t.FloorOk ∧ (s.TableOk → s.HoldersOk → t.HoldersOk)

/-- A seat's microphone is OPENING or OPEN exactly while the seat holds the floor. -/
def Obligations.EveryStepKeepsMicrophonesWithTheFloor : Prop :=
  ∀ s t : State, s.FloorOk → s.MicOk → step s = .next t → t.MicOk

/-- The transmit queue holds at most 8 frames and the return buffer at most 2 blocks, none while UNLEARNT; a queued
frame is being sent only while the link is UP, and AUDIO_OUT frames wait behind no other frame than that one (log 23); at
most four requests are held, and the engine is IDLE exactly when there is none; the room clock, its cycle count and its
sync age stay in their ranges; the clip counters of the mix stop at 65535. -/
def Obligations.EveryStepKeepsTheLinkTheEngineAndTheClock : Prop :=
  ∀ s t : State, step s = .next t →
    (s.LinkOk → t.LinkOk) ∧ (s.MgmtOk → t.MgmtOk) ∧ (s.ClockOk → t.ClockOk) ∧ (s.ClipsOk → t.ClipsOk)

/-! ## Requests and slots as bytes -/

/-- A payload built from 1 to 16 operations that a request can carry is well formed and is read back as those
operations; an upstream slot built by its unit is taken as good, with every field as sent. -/
def Obligations.PayloadsAndSlotsAreReadBack : Prop :=
  (∀ (tag : BitVec 16) (key : Key) (silent : Bool) (ops : List Op), ops ≠ [] → ops.length ≤ 16 →
    (∀ o ∈ ops, o.wellFormed = true) →
    parseRequest (requestPayload tag key silent ops) =
      some { tag := tag, key := key, silent := silent, total := ops.length, reads := (ops.filter Op.isRead).length,
             ops := ops, statuses := [], returned := [], staged := false }) ∧
  (∀ u : UpSlot, u.event < 256 → u.status < 256 → u.key < 256 → readUpSlot u.bytes = some u)

/-- A REQUEST frame of a good length and check, addressed to the hub, joins the request queue with its source and
addressing, or is dropped and counted when four requests are held. The engine takes the head request when REQUEST_TAKE comes
(log 4): a well-formed one is in hand with its operations; a malformed one executes nothing and is counted, and ends with a
reply of status MALFORMED, no operation statuses, and its tag where the payload holds one, after its stagger where it is a
group request; where its reply mode can be read and is SILENT it leaves at once. An ACTION in hand whose code names none
fails BAD_VALUE when REQUEST_TAKE comes (log 36: no row of the table is it), whatever the key; with any other operation in
hand, in another state of the engine, or with no request, REQUEST_TAKE changes nothing. -/
def Obligations.RequestsJoinTheQueueAndAreTaken : Prop :=
  (∀ (s : State) (dest source : Addr) (payload : List Byte), s.powered = true → s.link.up = true →
    payload.length ≤ 1000 → s.link.accepts dest = true →
    ∃ t, exec (.request (frameBytes dest source 0x04 payload)) s = .next t ∧
      t.mgmt.requests = (if s.mgmt.requests.length < 4
        then s.mgmt.requests ++ [⟨source, decide (dest ≠ s.link.station), payload⟩] else s.mgmt.requests) ∧
      t.mgmt.dropped = (if s.mgmt.requests.length < 4 then s.mgmt.dropped else min 65535 (s.mgmt.dropped + 1)) ∧
      (s.mgmt.requests = [] → t.mgmt.engine = .executing) ∧
      (s.mgmt.requests ≠ [] → t.mgmt.engine = s.mgmt.engine) ∧
      t.mgmt.hand = s.mgmt.hand ∧ t.mgmt.unlocked = s.mgmt.unlocked ∧
      s.keeps t (.mgmt :: screenPieces)) ∧
  (∀ (s : State) (r : Request) (rest : List Request), s.powered = true → s.mgmt.engine = .executing →
    s.mgmt.hand = none → s.mgmt.restart = .none → s.mgmt.requests = r :: rest →
    ∃ t, exec .requestTake s = .next t ∧
      (∀ h, parseRequest r.payload = some h → t.mgmt = { s.mgmt with hand := some h } ∧ s.keeps t (.mgmt :: screenPieces)) ∧
      (parseRequest r.payload = none →
        let silent := decide (4 ≤ r.payload.length ∧ r.payload[3]? = some 1)
        let tag := if 2 ≤ r.payload.length then r.payload.take 2 else [0, 0]
        t.mgmt.malformed = min 65535 (s.mgmt.malformed + 1) ∧ t.mgmt.unlocked = s.mgmt.unlocked ∧
        t.mgmt.restart = .none ∧ s.keeps t (.mgmt :: screenPieces) ∧
        s.requestEnds t silent (tag ++ be8 Status.malformed.code ++ be8 0 ++ be8 0))) ∧
  (∀ (s : State) (code : Byte) (args : List Byte), code = 0 ∨ 0x11 < code.toNat → s.atOp (.action code args) = true →
    ∃ t, exec .requestTake s = .next t ∧ s.fails t .badValue) ∧
  (∀ s : State, s.powered = true →
    (s.mgmt.engine ≠ .executing ∨ s.mgmt.restart ≠ .none ∨ (s.mgmt.hand = none ∧ s.mgmt.requests = []) ∨
      ∃ h, s.mgmt.hand = some h ∧
        ∀ code args, h.ops.head? = some (.action code args) → 1 ≤ code.toNat ∧ code.toNat ≤ 0x11) →
    ∃ t, exec .requestTake s = .next t ∧ s.keeps t screenPieces)

/-! ## Power and the settings store -/

/-- Power-on and the reset input restore the current image, or take the factory defaults where there is none, and give
every other item its power-on value (log 28 where the manual gives none); a carrier that is there starts a pass (log 21),
and every room screen of the image is offered at once (log 17). Power loss keeps the two image areas alone (log 22), and
the next power-on restores the image that was current. -/
def Obligations.PowerCyclesRestoreTheCurrentImage : Prop :=
  (∀ (s : State) (carrierA carrierB : Bool) (i : Instr), (i = .powerOn carrierA carrierB ∨ (s.powered = true ∧ i = .resetInput carrierA carrierB)) →
    ∃ t, exec i s = .next t ∧
      let img := s.store.currentImage.getD Image.factory
      (t.powered = true ∧ t.cfg = img.cfg ∧ t.out = ⟨Vector.replicate 64 ⟨silence, some ⟨.off, none, false⟩⟩, none⟩ ∧
        t.early = []) ∧
      (∀ w : Wing, (t.wing w).recorded = 0 ∧ (t.wing w).assigned = 0 ∧ (t.wing w).scanPos = 0 ∧
        (t.wing w).command = .normal ∧ ((t.wing w).carrier = match w with | .a => carrierA | .b => carrierB) ∧
        ((t.wing w).carrier = true → t.passStarts w) ∧ ((t.wing w).carrier = false → (t.wing w).state = .down)) ∧
      t.pos = Vector.replicate 64 ⟨.absent, none, 0, false, none, .notTaken, silence, none, none⟩ ∧
      t.level = Vector.replicate 64 ⟨0, Vector.replicate 8 0, 0, 0, 0, false, false, false⟩ ∧
      t.seats = ⟨Vector.replicate 64 ⟨none, none, false, false, false, 0, 0, 0, none⟩, 0, false, false, false⟩ ∧
      t.clock = ⟨⟨0, 0, 0⟩, 0, .unsynced, 0⟩ ∧
      t.cal = ⟨img.bookings, img.rosters, .vacant, ⟨0, 0, 0⟩, ⟨0, 0, 0⟩, none, none, false, Vector.replicate 8 0, none⟩ ∧
      t.floor = ⟨.openFloor, 4, [], [], Vector.replicate 64 false, Vector.replicate 64 false⟩ ∧
      t.mic = ⟨Vector.replicate 64 ⟨.closed, 0, 0, 0, false, false, 0, false, false, .none⟩, 0, .warn⟩ ∧
      t.mix = ⟨img.mix, img.mix, none, false, false, Vector.replicate 64 0, 0, false, img.mix, 0, silence⟩ ∧
      (t.disp.templates = img.templates ∧ t.disp.messages = Vector.replicate 64 none ∧
        t.disp.delivery = Vector.replicate 64 ⟨none, none, false⟩) ∧
      (∀ e : Fin 4, t.disp.screens[e] =
        if img.screens[e].1.isSome then ⟨img.screens[e].1, img.screens[e].2, some (t.screenText img.screens[e].2), false, 200, false⟩
        else ⟨none, img.screens[e].2, none, false, 0, false⟩) ∧
      (t.link.station = factoryIdentity ∧ t.link.groups = img.groups ∧ t.link.noticeDest = img.noticeDest ∧
        t.link.audioDest = img.audioDest ∧ t.link.up = false ∧ t.link.learnt = false ∧ t.link.expected = 0 ∧
        t.link.buffer = [] ∧ t.link.outCounter = 0 ∧ t.link.begun = false ∧ t.link.held = [] ∧ t.link.line = [] ∧
        t.link.lastAdmitted = 3 ∧ t.link.counters = ⟨0, 0, 0, 0, 0, 0, 0, 0, 0, 0, 0, 0⟩ ∧
        t.link.queue = (numbers 4).filterMap fun e => (img.screens[e].1).map fun a =>
          ⟨a, factoryIdentity, .screen, be8 e.val ++ t.screenText img.screens[e].2⟩) ∧
      t.mgmt = ⟨[], .idle, false, 0, 0, 0, none, none, .none⟩ ∧
      t.store = ⟨s.store.areaA, s.store.areaB, none, none,
        if s.store.currentImage.isSome then .image else .defaults, s.store.currentImage.isNone, false⟩) ∧
  (∀ (s : State) (carrierA carrierB : Bool), ∃ t u, exec .powerLoss s = .next t ∧ t.powered = false ∧ t.store.areaA = s.store.areaA ∧
    t.store.areaB = s.store.areaB ∧ t.store.writing = none ∧
    exec (.powerOn carrierA carrierB) t = .next u ∧ u.cfg = (s.store.currentImage.getD Image.factory).cfg ∧
    u.mix.live = (s.store.currentImage.getD Image.factory).mix)

/-- A save never overwrites the current image, and when its writing completes the written image is the current one. SAVE
takes the contents of Table 11-1 as they stand and begins writing them into the other area; while a save is in progress it
fails BUSY. A save that completes makes the written area hold its image and reports the new generation; one that fails
leaves the areas as they were and reports STORE_FAIL. -/
def Obligations.SavesKeepTheCurrentImageUntilTheyComplete : Prop :=
  (∀ (st : Store) (img : Image), (∀ i, st.currentImage = some i → i.generation < 65536) →
    (∀ i, st.currentImage = some i → (st.beginSave img).currentImage = some i) ∧
    (st.currentImage = none → (st.beginSave img).currentImage = none) ∧
    (img.generation = st.nextGeneration → ((st.beginSave img).setArea st.target (some img)).currentImage = some img)) ∧
  (∀ s : State, s.reaches .save = true →
    ∃ t, exec .save s = .next t ∧ s.keeps t (.store :: opPieces) ∧
      (s.store.writing.isSome → s.fails t .busy) ∧
      (s.store.writing = none → s.answered t .ok ∧ ∃ w : Writing, t.store.writing = some w ∧ w.area = s.store.target ∧
        t.store.area w.area = none ∧ (∀ area, area ≠ w.area → t.store.area area = s.store.area area) ∧
        w.snapshot.cfg = s.cfg ∧ w.snapshot.bookings = s.cal.bookings.filter (fun b => !b.active) ∧
        w.snapshot.rosters = s.cal.rosters ∧ w.snapshot.templates = s.disp.templates ∧
        (∀ e : Fin 4, w.snapshot.screens[e] = (s.disp.screens[e].addr, s.disp.screens[e].template)) ∧
        w.snapshot.groups = s.link.groups ∧ w.snapshot.noticeDest = s.link.noticeDest ∧
        w.snapshot.audioDest = s.link.audioDest ∧ w.snapshot.mix = s.mix.live ∧
        w.snapshot.generation = (match s.store.currentImage with | some i => (i.generation + 1) % 65536 | none => 0))) ∧
  (∀ (s : State) (w : Writing) (ok : Bool), s.powered = true → s.store.writing = some w →
    ∃ t, exec (.saveComplete ok) s = .next t ∧ s.keeps t [.store, .linkCounters, .screens, .sending] ∧
      t.store.writing = none ∧ t.store.lastResult = some (if ok then .saved else .failed) ∧
      (∀ area, t.store.area area = if ok = true ∧ area = w.area then some w.snapshot else s.store.area area) ∧
      t.store.storeInvalid = (if ok then false else s.store.storeInvalid) ∧ t.store.halted = s.store.halted ∧
      (∀ d, s.link.noticeDest = some d → s.link.queue.length < 8 →
        s.link.queue ++ [⟨d, s.link.station, .notice,
          if ok then be8 0x07 ++ be16 w.snapshot.generation else be8 0x08⟩] <+: t.link.queue))

/-! ## The chain ports and the scanner -/

/-- A carrier gain and an ENUMERATE start a pass on the wing, in any state of it, and leave the other wing alone; an
ENUMERATE of a wing above 1 fails BAD_VALUE. A carrier loss ends a pass, makes every position of the wing ABSENT with its
serial kept, and the wing DOWN with both counts 0; the loss of each position that was PRESENT is told, the lowest first (log
41): the seat leaves the floor with reason LOST, its microphone is CLOSED at once, its level state is 0 (07 R141; the two
conditions stay for a READ: log 27), its transfer and its message are gone and its known text is unknown. The rest of the
floor moves as by any loss: in GRACE the last holder's begins CLOSING, and in QUEUE mode with auto-advance checks follow.
Nothing is told of a position that was ABSENT. -/
def Obligations.CarrierGainLossAndEnumerate : Prop :=
  (∀ (s : State) (w : Wing), s.powered = true →
    ∃ t, exec (.carrierGain w) s = .next t ∧ t.passStarts w ∧ (t.wing w).carrier = true ∧
      (∀ v, v ≠ w → t.wing v = s.wing v) ∧ s.keeps t (.wings :: screenPieces)) ∧
  (∀ (s : State) (b : Byte), s.reaches (.enumerate b) = true →
    ∃ t, exec (.enumerate b) s = .next t ∧ s.keeps t (.wings :: opPieces) ∧
      (b = 0 → s.answered t .ok ∧ t.passStarts .a ∧ t.wingB = s.wingB) ∧
      (b = 1 → s.answered t .ok ∧ t.passStarts .b ∧ t.wingA = s.wingA) ∧ (2 ≤ b.toNat → s.fails t .badValue)) ∧
  (∀ (s : State) (w : Wing), s.powered = true →
    let gone := fun p : Pos => decide (wingOf p = w ∧ s.pos[p].presence = .present)
    ∃ t, exec (.carrierLoss w) s = .next t ∧ s.keeps t ([.pos, .wings] ++ lossPieces) ∧
      (t.wing w).state = .down ∧ (t.wing w).carrier = false ∧ (t.wing w).recorded = 0 ∧ (t.wing w).assigned = 0 ∧
      (t.wing w).passCycle = 0 ∧ (t.wing w).passCount = none ∧ (∀ i : Fin 32, (t.wing w).reports[i] = none) ∧
      (∀ v, v ≠ w → t.wing v = s.wing v) ∧
      (∀ p : Pos, wingOf p = w → t.pos[p].presence = .absent ∧ t.pos[p].loss = 0 ∧ t.pos[p].statusValid = false ∧
        t.pos[p].card = none ∧ t.pos[p].serial = s.pos[p].serial) ∧
      (∀ p : Pos, wingOf p ≠ w → t.pos[p] = s.pos[p]) ∧
      (∀ p : Pos, (gone p = false → t.level[p] = s.level[p] ∧ t.disp.delivery[p] = s.disp.delivery[p]) ∧
        (gone p = true → t.level[p] = { LevelRec.powerOn with
            clips := s.level[p].clips, voiceStart := s.level[p].voiceStart, voiceIdle := s.level[p].voiceIdle } ∧
          t.disp.delivery[p] = { s.disp.delivery[p] with known := none, transfer := none })) ∧
      s.Loses t gone)

/-- A good slot of a PRESENT position in use hands its block on, returns the loss count to 0, and is a delivery report for
the chunk of the cycle; the status word of the position that the header named, and the press, are there to be taken (log 30:
what a slot carries with a key above 15 or an event above 2). The status word of any other position is not kept (log 29: the
model's reading of 01 R14). A bad slot hands on zeros and counts toward the loss; the third in a row makes the position
ABSENT with its serial kept, moves a RUNNING wing to DEGRADED, closes the seat's microphone and removes it from the floor,
which in GRACE can begin CLOSING (what an auto-advance check then grants: QueueModeQueuesWithdrawsAndAdvances). On a wing in
a pass a slot is a delivery report and an IDENTIFY report at most; any other slot is not taken. -/
def Obligations.GoodAndBadSlotsAreTaken : Prop :=
  (∀ (s : State) (p : Pos) (raw : List Byte) (u : UpSlot), s.powered = true → s.live p = true → readUpSlot raw = some u →
    ∃ t, exec (.upstreamSlot p raw) s = .next t ∧
      t.pos[p] = { s.pos[p] with
        slot := .good, block := u.block, loss := 0,
        answer := if (s.wing (wingOf p)).scanPos = p.val % 32 then u.answer else none, event := u.press } ∧
      (∀ q, q ≠ p → t.pos[q] = s.pos[q]) ∧
      t.level[p] = (s.level[p]).take s.cfg u.block ∧ (∀ q, q ≠ p → t.level[q] = s.level[q]) ∧
      t.disp.delivery[p] = (s.disp.delivery[p]).report true ∧
      (∀ q, q ≠ p → t.disp.delivery[q] = s.disp.delivery[q]) ∧
      s.keeps t ([.pos, .level, .delivery] ++ screenPieces)) ∧
  (∀ u : UpSlot, (u.event = 1 → u.press = some .button) ∧ (u.event = 2 → u.press = some .priority) ∧
    (u.event ≠ 1 → u.event ≠ 2 → u.press = none) ∧ (u.status ≠ 1 → u.answer = none) ∧
    (u.status = 1 → u.present = false → u.answer = some (none, u.serial)) ∧
    (u.status = 1 → u.present = true → ∀ k : Key, u.key = k.val → u.answer = some (some k, u.serial)) ∧
    (u.status = 1 → u.present = true → 16 ≤ u.key → u.answer = none)) ∧
  (∀ (s : State) (p : Pos) (raw : List Byte), s.powered = true → s.live p = true → readUpSlot raw = none →
    ∃ t, exec (.upstreamSlot p raw) s = .next t ∧ (∀ q, q ≠ p → t.pos[q] = s.pos[q]) ∧
      (s.pos[p].loss < 2 →
        t.pos[p] = { s.pos[p] with slot := .bad, block := silence, answer := none, event := none,
                                   loss := s.pos[p].loss + 1 } ∧
        t.level[p] = (s.level[p]).take s.cfg silence ∧ t.disp.delivery[p] = (s.disp.delivery[p]).report false ∧
        s.keeps t ([.pos, .level, .delivery] ++ screenPieces)) ∧
      (2 ≤ s.pos[p].loss →
        s.keeps t ([.pos, .wings] ++ lossPieces) ∧
        t.pos[p].presence = .absent ∧ t.pos[p].loss = 0 ∧ t.pos[p].statusValid = false ∧ t.pos[p].card = none ∧
        t.pos[p].serial = s.pos[p].serial ∧
        (t.wing (wingOf p)).state = .degraded ∧
        t.level[p].envelope = 0 ∧ t.level[p].meter = 0 ∧ t.level[p].clips = s.level[p].clips ∧
        t.disp.delivery[p].known = none ∧ t.disp.delivery[p].transfer = none ∧
        (t.micOf (s.logical p)).state = .closed ∧ t.disp.messages[s.logical p] = none ∧
        (s.cal.session = .inSession → s.floor.mode ≠ .queue →
          t.floor.openList = s.floor.openList.filter fun e => e.seat ≠ s.logical p) ∧
        (s.cal.session = .inSession → s.holds (s.logical p) = false → t.floor.openList = s.floor.openList ∧
          t.floor.queue = s.floor.queue.filter fun e => e.seat ≠ s.logical p) ∧
        (s.cal.session = .grace → t.floor.openList = s.floor.openList.filter fun e => e.seat ≠ s.logical p) ∧
        (s.cal.session = .grace → s.holds (s.logical p) = true → (∀ i, i ≠ s.logical p → s.holds i = false) →
          t.floor.queue = [] ∧ (t.cal.lastReport.map (·.cause)) = some .floorEmpty ∧ t.cal.session ≠ .grace))) ∧
  (∀ (s : State) (p : Pos) (raw : List Byte), s.powered = true → (s.wing (wingOf p)).state = .enumerating →
    ∃ t, exec (.upstreamSlot p raw) s = .next t ∧ s.keeps t ([.wings, .delivery] ++ screenPieces) ∧
      t.disp.delivery[p] = (s.disp.delivery[p]).report (readUpSlot raw).isSome ∧
      (∀ q, q ≠ p → t.disp.delivery[q] = s.disp.delivery[q]) ∧ (∀ v, v ≠ wingOf p → t.wing v = s.wing v) ∧
      (∀ u, readUpSlot raw = some u →
        (u.status = 2 → (s.wing (wingOf p)).command = .identify → 2 ≤ (s.wing (wingOf p)).passCycle →
          t.wing (wingOf p) = { s.wing (wingOf p) with
            reports := (s.wing (wingOf p)).reports.set (place p) (some u.serial) }) ∧
        ((u.status ≠ 2 ∨ (s.wing (wingOf p)).command ≠ .identify) → t.wing (wingOf p) = s.wing (wingOf p))) ∧
      (readUpSlot raw = none → t.wing (wingOf p) = s.wing (wingOf p))) ∧
  (∀ (s : State) (p : Pos) (raw : List Byte), s.live p = false → (s.wing (wingOf p)).state ≠ .enumerating →
    ∃ t, exec (.upstreamSlot p raw) s = .next t ∧ s.keeps t screenPieces)

/-- A good wing-end marker: a count that differs from the recorded count starts a pass in RUNNING and DEGRADED (01 R7), one
that is not 0 starts a pass in DOWN with carrier, and a count of 0 changes nothing there; in a pass the first cycle's marker
sets the pass count and a later one that disagrees restarts the pass (01 R8), also where the first cycle brought no good
marker (log 32: the model's reading). A bad marker changes nothing (01 R3): one whose length is wrong or whose check
disagrees (the form of the check: log 40), and one with a good check that counts above 63 (log 43: the model's choice); any
other is read as the count it carries. -/
def Obligations.WingEndMarkersWatchTheChain : Prop :=
  (∀ n : Nat, (n ≤ 63 → readMarker (markerBytes n) = some n) ∧ (64 ≤ n → n ≤ 255 → readMarker (markerBytes n) = none)) ∧
  (∀ raw : List Byte, (raw.length ≠ 3 ∨ raw.drop 1 ≠ crc16Bytes (raw.take 1)) → readMarker raw = none) ∧
  (∀ raw : List Byte, ∀ n, readMarker raw = some n → raw = markerBytes n ∧ n ≤ 63) ∧
  ∀ (s : State) (w : Wing) (raw : List Byte), s.powered = true →
    ∃ t, exec (.wingEndMarker w raw) s = .next t ∧ (∀ v, v ≠ w → t.wing v = s.wing v) ∧
      s.keeps t (.wings :: screenPieces) ∧
      (readMarker raw = none → t.wing w = s.wing w) ∧
      (∀ count, readMarker raw = some count →
        ((s.wing w).inUse = true → count ≠ (s.wing w).recorded → t.passStarts w) ∧
        ((s.wing w).inUse = true → count = (s.wing w).recorded → t.wing w = s.wing w) ∧
        ((s.wing w).state = .down → (s.wing w).carrier = true → count ≠ 0 → t.passStarts w) ∧
        ((s.wing w).state = .down → ((s.wing w).carrier = false ∨ count = 0) → t.wing w = s.wing w) ∧
        ((s.wing w).state = .enumerating → (s.wing w).passCycle = 1 →
          t.wing w = { s.wing w with passCount := some count }) ∧
        ((s.wing w).state = .enumerating → 2 ≤ (s.wing w).passCycle → (s.wing w).passCount = some count →
          t.wing w = s.wing w) ∧
        ((s.wing w).state = .enumerating → 2 ≤ (s.wing w).passCycle → (s.wing w).passCount ≠ some count → t.passStarts w))

/-- A pass completes at the end of its fourth cycle, here by its own command, which takes the step before the boundary (log
2: the model's choice): a position is PRESENT exactly when the pass found a serial there (of a report at or above the
assigned count it finds none: log 48, the model's reading of 01 R3 and Table 1-7), the counts are the pass's, and the wing
is RUNNING or DOWN. A unit that is new or new-found has no valid status and no card, one that is gone keeps its serial, and
the level state of each starts at 0. A unit that is gone or was replaced is lost to the floor, the microphones and the
displays, and nothing else of the floor and of the microphones moves, but for two things: in GRACE the removal of the last
holder begins CLOSING, and in IN_SESSION in QUEUE mode with auto-advance each removal is followed by a check (04 R79), which
grants the heads of the queue in their order while there is room. A queued seat that is gone is withdrawn with no check of
its own (04 R90). Of several losses the lowest position goes first (log 41), so a gone seat can be granted before its own
loss is taken; it has lost that grant when the pass has ended. A loss that completes CLOSING can change the chair position,
and with it the seat that a later loss of the pass is told for: the blocked and voice-seen marks of every gone seat are
cleared where the chair position stays, as it does unless CLOSING completes. -/
def Obligations.APassDecidesEveryPosition : Prop :=
  ∀ (s : State) (w : Wing), s.powered = true → (s.wing w).state = .enumerating → (s.wing w).passCycle = 4 →
    let gone := fun p : Pos => decide (wingOf p = w ∧ s.pos[p].presence = .present ∧
      ((s.wing w).found (place p) = none ∨ (s.wing w).found (place p) ≠ s.pos[p].serial))
    ∃ t, exec (.enumerationPassEnd w) s = .next t ∧ s.keeps t ([.pos, .wings] ++ lossPieces) ∧
      (∀ i : Fin 32, t.pos[wingPos w i].presence = (if ((s.wing w).found i).isSome then .present else .absent) ∧
        t.pos[wingPos w i].serial = (match (s.wing w).found i with
          | some serial => some serial
          | none => s.pos[wingPos w i].serial) ∧
        t.pos[wingPos w i].loss = 0 ∧
        t.disp.delivery[wingPos w i].known = none ∧ t.disp.delivery[wingPos w i].transfer = none) ∧
      (∀ p : Pos, wingOf p = w →
        (s.pos[p].presence = .present → gone p = false → t.pos[p] = { s.pos[p] with loss := 0 } ∧ t.level[p] = s.level[p]) ∧
        (s.pos[p].presence = .absent → (s.wing w).found (place p) = none →
          t.pos[p] = { s.pos[p] with loss := 0 } ∧ t.level[p] = s.level[p]) ∧
        (gone p = true ∨ (s.pos[p].presence = .absent ∧ (s.wing w).found (place p) ≠ none) →
          t.pos[p].statusValid = false ∧ t.pos[p].card = none ∧ t.level[p].envelope = 0 ∧ t.level[p].meter = 0 ∧
          t.level[p].idle = 0 ∧ t.level[p].clips = s.level[p].clips)) ∧
      (∀ p : Pos, wingOf p ≠ w → t.pos[p] = s.pos[p] ∧ t.level[p] = s.level[p]) ∧
      (t.wing w).recorded = (s.wing w).passCount.getD 0 ∧ (t.wing w).assigned = min 32 ((s.wing w).passCount.getD 0) ∧
      (t.wing w).scanPos = 0 ∧
      ((t.wing w).state = if (∃ i : Fin 32, ((s.wing w).found i).isSome = true) then .running else .down) ∧
      (∀ v, v ≠ w → t.wing v = s.wing v) ∧
      s.Loses t gone

/-- A status answer that the slot of the cycle carries, with the position's own serial, sets the status-valid mark and the
card; where it takes the seat's permission away in a session, a holder is removed with reason KEY through its close gap,
a queued seat is withdrawn, and nothing else of the floor moves. One with a foreign serial starts a pass on the wing and
changes no record. Where the slot carries a press too, the status word is taken first. The model's choices in it: the last
byte FFH of the removal's notice (log 16); a status word and a press wait with their position until they are taken, and a
press beside a foreign status word, which starts a pass, is never taken (log 30). -/
def Obligations.StatusWordsSetTheCard : Prop :=
  (∀ (s : State) (p : Pos) (card : Option Key) (serial : Serial), s.powered = true → s.live p = true →
    s.pos[p].answer = some (card, serial) →
    let known : State := s.setPos p fun r => { r with answer := none, statusValid := true, card := card }
    let loses := s.cal.session.runs = true ∧ s.permitted (s.logical p) = true ∧ known.permitted (s.logical p) = false
    ∃ t, exec (.statusWord p card serial) s = .next t ∧
      (s.pos[p].serial = some serial → t.pos = known.pos ∧ s.keeps t (.pos :: sessionPieces) ∧
        (¬ loses → s.keeps t (.pos :: screenPieces)) ∧
        (loses → s.noAdvance →
          (s.holds (s.logical p) = true → s.MicOk → s.LeavesTheFloor t (s.logical p) ∧
            ∀ e, s.floor.openList.find? (fun x => x.seat = s.logical p) = some e →
              (s.cal.session = .inSession → s.notified t 0x01
                (be8 (s.logical p).val ++ be8 1 ++ be8 0x0A ++ be8 e.source.code ++ be8 0xFF))) ∧
          (s.holds (s.logical p) = false → s.queued (s.logical p) = true → t.floor.openList = s.floor.openList ∧
            t.floor.queue = s.floor.queue.filter (fun e => e.seat ≠ s.logical p) ∧
            (t.micOf (s.logical p)).queued = false ∧ (∀ i, i ≠ s.logical p → t.micOf i = s.micOf i)) ∧
          (s.holds (s.logical p) = false → s.queued (s.logical p) = false → s.keeps t (.pos :: screenPieces)))) ∧
      (s.pos[p].serial ≠ some serial → t.passStarts (wingOf p) ∧ s.keeps t ([.wings, .pos] ++ screenPieces) ∧
        t.pos = s.pos.set p { s.pos[p] with answer := none })) ∧
  (∀ (s : State) (p : Pos) (card : Option Key) (serial : Serial), s.powered = true → s.live p = true →
    s.pos[p].answer = some (card, serial) → s.pos[p].event = some .button →
    let known : State := s.setPos p fun r => { r with answer := none, event := none, statusValid := true, card := card }
    ∃ t, exec (.button p) s = .next t ∧
      (s.pos[p].serial = some serial → s.cal.session = .inSession → s.floor.mode = .openFloor →
        s.permitted (s.logical p) = false → known.mayAsk (s.logical p) → s.holds (s.logical p) = false →
        s.queued (s.logical p) = false → known.room (s.logical p) = true →
        t.pos = known.pos ∧ t.floor.openList = s.floor.openList ++ [⟨s.logical p, s.clock.now, .button⟩] ∧
        s.keeps t (.pos :: floorPieces)) ∧
      (s.pos[p].serial ≠ some serial → t.passStarts (wingOf p) ∧ s.keeps t ([.wings, .pos] ++ screenPieces)))

/-! ## Presses and the floor -/

/-- A press is refused by the first check of the order that fails: the flash is loaded, the tally counts the reason, a
REFUSED notice is offered, and the floor is as it was. -/
def Obligations.APressIsRefusedByTheFirstFailingCheck : Prop :=
  ∀ (s : State) (seat : Seat) (r : Refuse), s.heard seat .button →
    (if s.store.halted = true then some Refuse.halted
     else if s.cal.session ≠ .inSession ∧ s.cal.session ≠ .grace then some .noSession
     else if s.cal.session = .grace ∧ s.holds seat = false then some .sessionEnding
     else if s.pos[s.phys seat].statusValid = false then some .notReady
     else if s.classOf seat = .observer then some .listenOnly
     else if s.permitted seat = false then some .notPermitted
     else none) = some r →
    ∃ t, exec (.button (s.phys seat)) s = .next t ∧ s.keeps t ([.pos, .mic, .cal, .linkCounters] ++ screenPieces) ∧
      s.pressTaken t seat ∧
      t.micOf seat = { s.micOf seat with flash := 2000 } ∧ (∀ i, i ≠ seat → t.micOf i = s.micOf i) ∧
      t.cal = { s.cal with tally := s.cal.tally.set r.index (min 65535 (s.cal.tally[r.index] + 1)) } ∧
      s.notified t 0x02 (be8 seat.val ++ be8 r.status.code ++ be8 0)

/-- The press of a seat that holds the floor releases it: the entry leaves, the microphone goes to CLOSING with the
close gap, and a turn that was OPEN is captured in the seat's record (the last byte of the notice: log 16). In GRACE the
release of the last entry begins CLOSING. In QUEUE mode with auto-advance the place that is freed goes to the head of the
queue. -/
def Obligations.APressOfAHolderReleasesTheFloor : Prop :=
  (∀ (s : State) (seat : Seat) (e : OpenEntry), s.heard seat .button → s.mayAsk seat → s.noAdvance →
    s.floor.openList.find? (fun x => x.seat = seat) = some e →
    ((s.micOf seat).state = .opening ∨ (s.micOf seat).state = .opened) →
    ∃ t, exec (.button (s.phys seat)) s = .next t ∧ s.keeps t (.pos :: floorPieces) ∧ s.pressTaken t seat ∧
      t.floor = { s.floor with
        openList := s.floor.openList.filter (fun x => x.seat ≠ seat)
        blocked := if s.floor.mode = .voice then s.floor.blocked.set seat true else s.floor.blocked } ∧
      (t.micOf seat).state = .closing ∧ (t.micOf seat).gap = s.cfg.closeGap ∧ (∀ i, i ≠ seat → t.micOf i = s.micOf i) ∧
      ((s.micOf seat).state = .opened →
        (t.micOf seat).timer = 0 ∧ (t.seatRec seat).lastTurn = (s.micOf seat).timer ∧
        (t.seatRec seat).total = min 65535 ((s.seatRec seat).total + (s.micOf seat).timer) ∧
        (t.seatRec seat).turnCount = min 65535 ((s.seatRec seat).turnCount + 1)) ∧
      ((s.micOf seat).state = .opening → t.seats = s.seats) ∧
      (∀ p, p ≠ s.phys seat → t.seats.recs[p] = s.seats.recs[p]) ∧ t.seats.chair = s.seats.chair ∧
      s.notified t 0x01 (be8 seat.val ++ be8 1 ++ be8 0 ++ be8 e.source.code ++ be8 0xFF)) ∧
  (∀ (s : State) (seat : Seat), s.heard seat .button → s.store.halted = false → s.cal.session = .grace →
    s.holds seat = true → s.pos[s.phys seat].statusValid = true → s.classOf seat ≠ .observer → s.permitted seat = true →
    ((s.micOf seat).state = .opening ∨ (s.micOf seat).state = .opened) →
    ∃ t, exec (.button (s.phys seat)) s = .next t ∧ s.keeps t (.pos :: sessionPieces) ∧ s.pressTaken t seat ∧
      s.LeavesTheFloor t seat) ∧
  (∀ (s : State) (seat : Seat), s.heard seat .button → s.mayAsk seat → s.floor.mode = .queue → s.cfg.autoAdvance = true →
    s.holds seat = true →
    let rest := s.floor.openList.filter fun x => x.seat ≠ seat
    ∃ t, exec (.button (s.phys seat)) s = .next t ∧ s.keeps t (.pos :: floorPieces) ∧ s.pressTaken t seat ∧
      rest <+: t.floor.openList ∧
      (s.floor.queue = [] → t.floor.openList = rest ∧ t.floor.queue = []) ∧
      (∀ e later, s.floor.queue = e :: later →
        let room := rest.length < 8 ∧ (s.classOf e.seat = .chair ∨
          (rest.filter fun x => s.classOf x.seat ≠ .chair).length < s.floor.maxOpen)
        (room → rest ++ [⟨e.seat, s.clock.now, .queue⟩] <+: t.floor.openList ∧ t.queued e.seat = false ∧
          (t.micOf e.seat).state = .opening) ∧
        (¬ room → t.floor.openList = rest ∧ t.floor.queue = s.floor.queue)))

/-- A press in OPEN mode by an admitted seat that neither holds nor waits for the floor: with room it is granted at
the end of the open list; without room it is refused, or under REPLACE takes the place of the oldest non-chair seat.
(The reason and last bytes of the notices: log 16.) -/
def Obligations.APressInOpenModeIsGrantedRefusedOrReplaces : Prop :=
  ∀ (s : State) (seat : Seat), s.heard seat .button → s.mayAsk seat → s.floor.mode = .openFloor → s.holds seat = false →
    s.queued seat = false →
    ∃ t, exec (.button (s.phys seat)) s = .next t ∧ s.pressTaken t seat ∧
      t.floor.blocked = s.floor.blocked.set seat false ∧
      t.floor.mode = s.floor.mode ∧ t.floor.maxOpen = s.floor.maxOpen ∧ t.floor.queue = s.floor.queue ∧
      (s.floor.openList.length < 8 → (s.classOf seat = .chair ∨ s.nonChair < s.floor.maxOpen) →
        t.floor.openList = s.floor.openList ++ [⟨seat, s.clock.now, .button⟩] ∧ s.keeps t (.pos :: floorPieces) ∧
        t.seats = s.seats ∧ t.micOf seat = { s.micOf seat with state := .opening, gap := s.cfg.openGap } ∧
        (∀ i, i ≠ seat → t.micOf i = s.micOf i) ∧
        s.notified t 0x01 (be8 seat.val ++ be8 0 ++ be8 0xFF ++ be8 0 ++ be8 0xFF)) ∧
      (¬ (s.floor.openList.length < 8 ∧ (s.classOf seat = .chair ∨ s.nonChair < s.floor.maxOpen)) →
        ((s.cfg.replace = false ∨ s.oldestNonChair = none) →
          s.keeps t ([.pos, .floor, .mic, .cal, .linkCounters] ++ screenPieces) ∧
          t.floor.openList = s.floor.openList ∧ t.micOf seat = { s.micOf seat with flash := 2000 } ∧
          (∀ i, i ≠ seat → t.micOf i = s.micOf i) ∧
          t.cal = { s.cal with tally := s.cal.tally.set 0 (min 65535 (s.cal.tally[0] + 1)) } ∧
          s.notified t 0x02 (be8 seat.val ++ be8 0x20 ++ be8 0)) ∧
        (∀ oldest, s.cfg.replace = true → s.oldestNonChair = some oldest →
          t.floor.openList = s.floor.openList.filter (fun x => x.seat ≠ oldest) ++ [⟨seat, s.clock.now, .button⟩] ∧
          s.keeps t (.pos :: floorPieces) ∧ (t.micOf seat).state = .opening ∧ (t.micOf seat).gap = s.cfg.openGap ∧
          (∀ i, i ≠ seat → i ≠ oldest → t.micOf i = s.micOf i) ∧
          ((s.micOf oldest).state = .opening ∨ (s.micOf oldest).state = .opened →
            (t.micOf oldest).state = .closing ∧ (t.micOf oldest).gap = s.cfg.closeGap)))

/-- A press in QUEUE mode by an admitted seat that does not hold the floor. A queued seat is withdrawn, whatever its class.
Of the others, one that is not CHAIR joins the tail, a full queue refuses it, and at an empty queue with room auto-advance
grants it at once; one that is CHAIR is granted directly while the list holds fewer than 8 entries, and meets the full
policy there. An auto-advance check in IN_SESSION grants the heads of the queue that find room, and no more (04 R79): after
a removal by release, loss, KEY, LIMIT and REVOKE (a lost microphone closes at once, any other by its close gap); after a
withdrawal by press, a press that queues, a priority press, QUEUE_PLACE, NEXT, a GRANT by force and CLOSE_ALL; and after a
change of max_open, a change to QUEUE mode, a write of auto_advance at yes, a holder's change of class to CHAIR and a return
from GRACE. (The reason and last bytes of the notices: log 16. What a slot carried waits until it is taken: log 30. The turn
timer's own command takes a step that is due: log 2.) -/
def Obligations.QueueModeQueuesWithdrawsAndAdvances : Prop :=
  (∀ (s : State) (seat : Seat), s.heard seat .button → s.mayAsk seat → s.floor.mode = .queue → s.holds seat = false →
    s.classOf seat ≠ .chair →
    ∃ t, exec (.button (s.phys seat)) s = .next t ∧ s.pressTaken t seat ∧
      (s.queued seat = true → s.cfg.autoAdvance = false →
        t.floor.queue = s.floor.queue.filter (fun x => x.seat ≠ seat) ∧ t.floor.openList = s.floor.openList ∧
        t.micOf seat = { s.micOf seat with queued := false } ∧ (∀ i, i ≠ seat → t.micOf i = s.micOf i) ∧
        s.keeps t (.pos :: floorPieces) ∧ t.seats = s.seats) ∧
      (s.queued seat = false → s.cfg.autoAdvance = false → s.floor.queue.length < 16 →
        t.floor.queue = s.floor.queue ++ [⟨seat, s.clock.now.minute, s.clock.now.second, .button⟩] ∧
        t.floor.openList = s.floor.openList ∧ t.micOf seat = { s.micOf seat with queued := true } ∧
        (∀ i, i ≠ seat → t.micOf i = s.micOf i) ∧ s.keeps t (.pos :: floorPieces) ∧ t.seats = s.seats ∧
        s.notified t 0x01 (be8 seat.val ++ be8 2 ++ be8 0xFF ++ be8 0 ++ be8 (s.floor.queue.length + 1))) ∧
      (s.queued seat = false → 16 ≤ s.floor.queue.length →
        t.floor = { s.floor with blocked := s.floor.blocked.set seat false } ∧
        t.micOf seat = { s.micOf seat with flash := 2000 } ∧ (∀ i, i ≠ seat → t.micOf i = s.micOf i) ∧
        t.cal = { s.cal with tally := s.cal.tally.set 1 (min 65535 (s.cal.tally[1] + 1)) }) ∧
      (s.floor.queue = [] → s.cfg.autoAdvance = true → s.floor.openList.length < 8 → s.nonChair < s.floor.maxOpen →
        t.floor.queue = [] ∧ t.floor.openList = s.floor.openList ++ [⟨seat, s.clock.now, .queue⟩] ∧
        (t.micOf seat).state = .opening ∧ (t.micOf seat).gap = s.cfg.openGap ∧
        (t.micOf seat).queued = false ∧ (∀ i, i ≠ seat → t.micOf i = s.micOf i) ∧ s.keeps t (.pos :: floorPieces) ∧
        t.seats = s.seats)) ∧
  (∀ (s : State) (seat : Seat), s.heard seat .button → s.mayAsk seat → s.floor.mode = .queue → s.holds seat = false →
    s.classOf seat = .chair →
    ∃ t, exec (.button (s.phys seat)) s = .next t ∧ s.pressTaken t seat ∧
      (s.queued seat = true → s.cfg.autoAdvance = false →
        t.floor.queue = s.floor.queue.filter (fun x => x.seat ≠ seat) ∧ t.floor.openList = s.floor.openList ∧
        t.micOf seat = { s.micOf seat with queued := false } ∧ (∀ i, i ≠ seat → t.micOf i = s.micOf i) ∧
        s.keeps t (.pos :: floorPieces) ∧ t.seats = s.seats) ∧
      (s.queued seat = false → s.floor.openList.length < 8 →
        t.floor.openList = s.floor.openList ++ [⟨seat, s.clock.now, .button⟩] ∧ t.floor.queue = s.floor.queue ∧
        t.micOf seat = { s.micOf seat with state := .opening, gap := s.cfg.openGap } ∧
        (∀ i, i ≠ seat → t.micOf i = s.micOf i) ∧ s.keeps t (.pos :: floorPieces) ∧ t.seats = s.seats ∧
        s.notified t 0x01 (be8 seat.val ++ be8 0 ++ be8 0xFF ++ be8 0 ++ be8 0xFF)) ∧
      (s.queued seat = false → 8 ≤ s.floor.openList.length → (s.cfg.replace = false ∨ s.oldestNonChair = none) →
        t.floor = { s.floor with blocked := s.floor.blocked.set seat false } ∧
        t.micOf seat = { s.micOf seat with flash := 2000 } ∧ (∀ i, i ≠ seat → t.micOf i = s.micOf i) ∧
        t.cal = { s.cal with tally := s.cal.tally.set 0 (min 65535 (s.cal.tally[0] + 1)) } ∧
        s.notified t 0x02 (be8 seat.val ++ be8 0x20 ++ be8 0)) ∧
      (∀ oldest, s.queued seat = false → s.floor.openList.length = 8 → s.cfg.replace = true →
        (s.cfg.autoAdvance = false ∨ s.FloorOk) → s.oldestNonChair = some oldest →
        t.floor.openList = s.floor.openList.filter (fun x => x.seat ≠ oldest) ++ [⟨seat, s.clock.now, .button⟩] ∧
        t.floor.queue = s.floor.queue ∧ (t.micOf seat).state = .opening ∧ s.keeps t (.pos :: floorPieces) ∧
        s.GapCloses t oldest)) ∧
  (∀ (s : State) (i : Instr) (seat : Seat), s.Advancing → s.holds seat = true →
    (i = .button (s.phys seat) ∧ s.heard seat .button ∧ s.mayAsk seat ∨
      (∃ raw, i = .upstreamSlot (s.phys seat) raw ∧ s.powered = true ∧ s.live (s.phys seat) = true ∧
        readUpSlot raw = none ∧ 2 ≤ s.pos[s.phys seat].loss) ∨
      (∃ card serial, i = .statusWord (s.phys seat) card serial ∧ s.powered = true ∧ s.live (s.phys seat) = true ∧
        s.pos[s.phys seat].answer = some (card, serial) ∧ s.pos[s.phys seat].serial = some serial ∧
        s.permitted seat = true ∧
        (s.setPos (s.phys seat) fun r => { r with answer := none, statusValid := true, card := card }).permitted seat =
          false) ∨
      (∃ l, i = .turnTimerAdvance seat ∧ s.powered = true ∧ s.early.contains (.mic seat) = false ∧
        (s.micOf seat).state = .opened ∧ 199 ≤ (s.micOf seat).cycles ∧ s.limitOf seat = some l ∧
        s.mic.limitAction = .auto ∧ l * 10 ≤ min 65535 ((s.micOf seat).timer + 1)) ∨
      (i = .revoke (BitVec.ofNat 8 seat.val) ∧ s.reaches i = true)) →
    ∃ t, exec i s = .next t ∧ t.cal = s.cal ∧ s.keeps t ([.pos, .wings, .early] ++ lossPieces ++ opPieces) ∧
      (s.reaches i = true → s.answered t .ok) ∧
      s.Advances t (s.floor.openList.filter fun x => x.seat ≠ seat) s.floor.queue [seat] ∧
      ((∀ p raw, i ≠ .upstreamSlot p raw) → s.GapCloses t seat) ∧
      ((∃ p raw, i = .upstreamSlot p raw) → (t.micOf seat).state = .closed)) ∧
  (∀ (s : State) (i : Instr) (seat : Seat) (kept : List OpenEntry) (waiting : List QueueEntry), s.Advancing →
    let others := s.floor.queue.filter fun x => x.seat ≠ seat
    let chairs := s.floor.openList.filter fun x => s.classOf x.seat = .chair
    (i = .button (s.phys seat) ∧ s.heard seat .button ∧ s.mayAsk seat ∧ s.queued seat = true ∧
        kept = s.floor.openList ∧ waiting = others ∨
      i = .button (s.phys seat) ∧ s.heard seat .button ∧ s.mayAsk seat ∧ s.classOf seat ≠ .chair ∧ s.holds seat = false ∧
        s.queued seat = false ∧ s.floor.queue.length < 16 ∧ kept = s.floor.openList ∧
        waiting = s.floor.queue ++ [⟨seat, s.clock.now.minute, s.clock.now.second, .button⟩] ∨
      i = .priority (s.phys seat) ∧ s.heard seat .priority ∧ s.mayAsk seat ∧ s.classOf seat = .chair ∧
        s.cfg.clearQueue = false ∧ (chairs.length < 8 ∨ s.holds seat = true) ∧
        kept = chairs ++ (if s.holds seat then [] else [⟨seat, s.clock.now, .button⟩]) ∧ waiting = others ∨
      (∃ (place : Byte) (e : QueueEntry), i = .queuePlace (BitVec.ofNat 8 seat.val) place ∧ s.reaches i = true ∧
        s.mayAsk seat ∧ s.holds seat = false ∧ 1 ≤ place.toNat ∧ place.toNat ≤ 16 ∧ kept = s.floor.openList ∧
        (s.floor.queue.find? (fun x => x.seat = seat) = some e ∨ s.queued seat = false ∧ s.floor.queue.length < 16 ∧
          e = ⟨seat, s.clock.now.minute, s.clock.now.second, .management⟩) ∧
        waiting = others.take (min place.toNat (others.length + 1) - 1) ++
          e :: others.drop (min place.toNat (others.length + 1) - 1)) ∨
      (i = .next ∧ s.reaches i = true ∧ s.floor.queue.head?.map (·.seat) = some seat ∧ s.room seat = true ∧
        kept = s.floor.openList ++ [⟨seat, s.clock.now, .management⟩] ∧ waiting = others) ∨
      (∃ oldest, i = .grant (BitVec.ofNat 8 seat.val) 1 ∧ s.reaches i = true ∧ s.mayAsk seat ∧ s.holds seat = false ∧
        s.room seat = false ∧ s.oldestNonChair = some oldest ∧
        kept = s.floor.openList.filter (fun x => x.seat ≠ oldest) ++ [⟨seat, s.clock.now, .management⟩] ∧
        waiting = others) ∨
      (i = .closeAll ∧ s.reaches i = true ∧ s.holds seat = true ∧ kept = [] ∧ waiting = s.floor.queue)) →
    ∃ t, exec i s = .next t ∧ s.keeps t (.pos :: (floorPieces ++ opPieces)) ∧ (s.reaches i = true → s.answered t .ok) ∧
      s.Advances t kept waiting (seat :: s.floor.openList.map (·.seat)) ∧
      (∀ e ∈ kept, s.holds e.seat = false →
        (t.micOf e.seat).state = .opening ∧ (t.micOf e.seat).gap = s.cfg.openGap) ∧
      (∀ e ∈ s.floor.openList, (∀ x ∈ kept, x.seat ≠ e.seat) → s.GapCloses t e.seat) ∧
      (∀ e ∈ kept, s.holds e.seat = true → t.micOf e.seat = s.micOf e.seat) ∧
      (∀ e ∈ s.floor.queue, (∀ x ∈ t.floor.queue, x.seat ≠ e.seat) → (t.micOf e.seat).queued = false) ∧
      (∀ e ∈ t.floor.queue, e ∉ s.floor.queue → (t.micOf e.seat).queued = true)) ∧
  (∀ (s u : State) (i : Instr) (kept : List OpenEntry) (touched : List Seat), u.Advancing → s.reaches i = true →
    let others := s.floor.openList.filter fun x => s.classOf x.seat ≠ .chair
    (∃ n : Nat, i = .maxOpenWrite 0 [BitVec.ofNat 8 n] ∧ 1 ≤ n ∧ n ≤ 6 ∧
        u = { s with floor := { s.floor with maxOpen := n } } ∧
        kept = s.floor.openList.filter (fun x => x ∉ others.take (s.nonChair - n)) ∧
        touched = (others.take (s.nonChair - n)).map (·.seat)) ∨
      (i = .floorModeWrite 0 [1] ∧ s.floor.mode ≠ .queue ∧ u = { s with floor := { s.floor with mode := .queue } } ∧
        kept = s.floor.openList ∧ touched = []) ∨
      (∃ b : Byte, i = .switchWrite 0 [b] ∧ b.toNat ≤ 31 ∧ b.getLsbD 1 = true ∧
        u = { s with cfg := { s.cfg with replace := b.getLsbD 0, autoAdvance := true, clearQueue := b.getLsbD 2,
                                         sendIdle := b.getLsbD 3, autoCommit := b.getLsbD 4 } } ∧
        kept = s.floor.openList ∧ touched = []) ∨
      (∃ seat : Seat, i = .classOverrideWrite (BitVec.ofNat 16 seat.val) [0] ∧ s.holds seat = true ∧
        s.classOf seat ≠ .chair ∧
        u = s.setRec (s.phys seat) (fun r => { r with classOverride := some .chair, changed := true }) ∧
        kept = s.floor.openList ∧ touched = [seat]) ∨
      (∃ (m : Byte) (b : Booking), i = .extend m ∧ s.cal.session = .grace ∧ s.clock.sync ≠ .unsynced ∧
        s.activeBooking = some b ∧ 1 ≤ m.toNat ∧ m.toNat ≤ 120 ∧ b.duration + m.toNat ≤ 1440 ∧
        (∀ x, s.nextBooking = some x → b.start + b.duration + m.toNat ≤ x.start) ∧
        s.clock.now.minute < b.start + b.duration + m.toNat ∧
        u = { s with cal := { s.cal with session := .inSession } } ∧ kept = s.floor.openList ∧ touched = []) →
    ∃ t, exec i s = .next t ∧ s.answered t .ok ∧ s.keeps t ([.cfg, .cal] ++ floorPieces ++ opPieces) ∧
      u.Advances t kept s.floor.queue touched ∧ ∀ e ∈ s.floor.openList, e ∉ kept → s.GapCloses t e.seat)

/-- A PRIORITY press of an admitted CHAIR-class seat takes the floor from every non-chair seat and grants the chair, and
in QUEUE mode one auto-advance check follows; where 8 chair entries stay, the chair is refused and the removals stand. The
first check that fails refuses it. One of any other seat changes nothing. -/
def Obligations.PriorityClearsTheFloorForTheChair : Prop :=
  (∀ (s : State) (seat : Seat), s.heard seat .priority →
    let chairs := s.floor.openList.filter fun e => s.classOf e.seat = .chair
    ∃ t, exec (.priority (s.phys seat)) s = .next t ∧ s.pressTaken t seat ∧
      (s.classOf seat ≠ .chair → s.keeps t (.pos :: screenPieces)) ∧
      (s.classOf seat = .chair → s.mayAsk seat → s.noAdvance → chairs.length < 8 →
        s.keeps t (.pos :: floorPieces) ∧ t.floor.mode = s.floor.mode ∧ t.floor.maxOpen = s.floor.maxOpen ∧
        t.floor.openList = chairs ++ (if s.holds seat then [] else [⟨seat, s.clock.now, .button⟩]) ∧
        (s.cfg.clearQueue = true → t.floor.queue = []) ∧
        (s.cfg.clearQueue = false → s.queued seat = false → t.floor.queue = s.floor.queue) ∧
        (s.cfg.clearQueue = false → s.holds seat = false →
          t.floor.queue = s.floor.queue.filter fun x => x.seat ≠ seat) ∧
        (s.holds seat = false → (t.micOf seat).state = .opening ∧ (t.micOf seat).gap = s.cfg.openGap) ∧
        (∀ i, s.holds i = true → s.classOf i ≠ .chair →
          ((s.micOf i).state = .opening ∨ (s.micOf i).state = .opened) →
          (t.micOf i).state = .closing ∧ (t.micOf i).gap = s.cfg.closeGap)) ∧
      (s.classOf seat = .chair → s.mayAsk seat → s.noAdvance → chairs.length = 8 → s.holds seat = false →
        t.floor.openList = chairs ∧ (s.cfg.clearQueue = false → t.floor.queue = s.floor.queue) ∧
        (t.micOf seat).flash = 2000 ∧ (t.micOf seat).state = (s.micOf seat).state ∧
        t.cal = { s.cal with tally := s.cal.tally.set 0 (min 65535 (s.cal.tally[0] + 1)) }) ∧
      (∀ e later, s.floor.queue = e :: later → s.classOf seat = .chair → s.mayAsk seat → s.floor.mode = .queue →
        s.cfg.autoAdvance = true → s.cfg.clearQueue = false → chairs.length < 7 → 0 < s.floor.maxOpen → e.seat ≠ seat →
        chairs ++ (if s.holds seat then [] else [⟨seat, s.clock.now, .button⟩]) ++ [⟨e.seat, s.clock.now, .queue⟩]
          <+: t.floor.openList)) ∧
  (∀ (s : State) (seat : Seat) (r : Refuse), s.heard seat .priority → s.classOf seat = .chair →
    (if s.store.halted = true then some Refuse.halted
     else if s.cal.session ≠ .inSession ∧ s.cal.session ≠ .grace then some .noSession
     else if s.cal.session = .grace then some .sessionEnding
     else if s.pos[s.phys seat].statusValid = false then some .notReady
     else if s.permitted seat = false then some .notPermitted
     else none) = some r →
    ∃ t, exec (.priority (s.phys seat)) s = .next t ∧ s.keeps t ([.pos, .mic, .cal, .linkCounters] ++ screenPieces) ∧
      s.pressTaken t seat ∧
      t.micOf seat = { s.micOf seat with flash := 2000 } ∧ (∀ i, i ≠ seat → t.micOf i = s.micOf i) ∧
      t.cal = { s.cal with tally := s.cal.tally.set r.index (min 65535 (s.cal.tally[r.index] + 1)) } ∧
      s.notified t 0x02 (be8 seat.val ++ be8 r.status.code ++ be8 1))

/-! ## The chain cycle and the mix -/

/-- CHAIN_CYCLE sends each seat in use its feed of the cycle that ended, silence on a wing in a pass, and a silent
slot to an ABSENT position; the cycle that begins has received nothing yet, and takes the microphone facts, the live
tables and the older return block. Before that it takes what is left of the cycle that ended: the status words and presses
that no command took (log 30), the end of a pass, the move of the scan; and at the boundary every counter moves and every
step that is due is taken, but for one that its own command took already (log 2): gaps, turns, flashes, messages, screen
windows, the clock, the stagger. (The order of the steps of a boundary: log 8.) With
them it settles the transfer of every position that gets chunks against the seat's present rendering. The rules it follows,
beside those cited: a pass moves on by a cycle and completes after its fourth (01 R6, R8, R9), status words and presses (R15,
R18), HOLDOVER and evaluations (03 R45, R52), turn limits (05 R104–R107), the tables that a commit left (06 R127), messages
(08 R158), screen windows (R160), the return block (09 R168), and the stagger (10 R179). The model's choices in it, beside
logs 2, 8 and 30: the command NORMAL and the silent slots, with a control part, of a DOWN wing (log 31); the end of a pass,
which finds nothing at or above the assigned count (log 48); gap 0 of a CLOSED microphone (log 27); no chunk while halted,
whatever 07 R142 says of the displays (log 52). -/
def Obligations.TheChainCycleSendsEverySlot : Prop :=
  (∀ s : State, s.powered = true → s.mgmt.restart = .none →
    ∃ t, exec .chainCycle s = .next t ∧
      (∀ p : Pos, (t.wing (wingOf p)).state = .enumerating → t.out.down[p] = ⟨silence, none⟩) ∧
      (∀ p : Pos, (t.wing (wingOf p)).state ≠ .enumerating → t.pos[p].presence = .absent →
        t.out.down[p] = ⟨silence, some ⟨.off, none, false⟩⟩) ∧
      (∀ p : Pos, t.live p = true → s.store.halted = false →
        t.out.down[p].samples = s.feed (t.logical p) ∧
        ∃ c, t.out.down[p].control = some c ∧ c.enable = true ∧ c.indicator = t.indicator (t.logical p) ∧
          c.chunk = (t.disp.delivery[p]).chunk) ∧
      (∀ p : Pos, t.live p = true → s.store.halted = true →
        t.out.down[p] = ⟨silence, some ⟨t.indicator (t.logical p), none, false⟩⟩) ∧
      (∀ p : Pos, t.pos[p].slot = .notTaken ∧ t.pos[p].block = silence ∧ t.pos[p].answer = none ∧ t.pos[p].event = none) ∧
      (s.wingA.passEnds = false → s.wingB.passEnds = false → ∀ p : Pos,
        let before := s.disp.delivery[p]
        let target := t.rendering (t.logical p)
        let towards := decide (before.transfer.map (·.text) = some target)
        (t.live p = false ∨ s.store.halted = true → t.disp.delivery[p] = { before with carried := false }) ∧
        (t.live p = true → s.store.halted = false →
          (towards = true → t.disp.delivery[p] = { before with carried := true }) ∧
          (towards = false → before.known = some target →
            t.disp.delivery[p] = { before with transfer := none, carried := false }) ∧
          (towards = false → before.known ≠ some target →
            t.disp.delivery[p] = { before with transfer := some ⟨target, 0⟩, carried := true }))) ∧
      (∀ seat : Seat, (t.micOf seat).cycleOpen = decide ((t.micOf seat).state = .opened)) ∧
      t.mix.cycleLive = t.mix.live ∧ (s.mix.due = true → ∀ m, s.mix.image = some m → t.mix.live = m) ∧
      (s.mix.due = false → t.mix.live = s.mix.live) ∧ t.mix.due = false ∧ t.mix.cycleChair = t.seats.chair ∧
      t.mix.cycleReturn = s.link.buffer.headD silence ∧ t.link.buffer = s.link.buffer.tail ∧
      (s.clock.cycles < 199 → Early.tenth ∉ s.early → t.clock.now = s.clock.now ∧ t.clock.cycles = s.clock.cycles + 1) ∧
      (Early.tenth ∈ s.early → t.clock.now = s.clock.now ∧ t.clock.cycles = s.clock.cycles) ∧
      t.early = [] ∧ t.cfg = s.cfg ∧ t.store = s.store ∧ t.disp.templates = s.disp.templates ∧
      t.mix.staged = s.mix.staged ∧ t.link.station = s.link.station ∧ t.link.groups = s.link.groups) ∧
  (∀ s : State, s.quiet → s.mic.limitAction = .warn → s.cal.session ≠ .closing →
    (s.clock.cycles < 199 ∨ Early.tenth ∈ s.early) →
    ∃ t, exec .chainCycle s = .next t ∧ t.cal = s.cal ∧ t.floor = { s.floor with seen := t.floor.seen } ∧
      ∀ seat : Seat,
        let m := s.micOf seat
        let n := t.micOf seat
        let spoke := (s.seatRec seat).spoke
        n.flash = m.flash - 1 ∧ n.queued = m.queued ∧
        (m.state = .closed ∨ s.early.contains (.mic seat) = true →
          n.state = m.state ∧ n.gap = m.gap ∧ n.timer = m.timer ∧ n.cycles = m.cycles ∧ t.seatRec seat = s.seatRec seat) ∧
        (s.early.contains (.mic seat) = false →
          (m.state = .opening ∨ m.state = .closing → 2 ≤ m.gap →
            n.state = m.state ∧ n.gap = m.gap - 1 ∧ t.seatRec seat = s.seatRec seat) ∧
          (m.state = .opening → m.gap ≤ 1 → n.state = .opened ∧ n.timer = 0 ∧ n.cycles = 0 ∧
            t.seatRec seat = { s.seatRec seat with spoke := s.cal.session.runs || spoke }) ∧
          (m.state = .closing → m.gap ≤ 1 → n.state = .closed ∧ n.gap = 0 ∧ t.seatRec seat = s.seatRec seat) ∧
          (m.state = .opened → m.cycles < 199 → n.state = .opened ∧ n.cycles = m.cycles + 1 ∧ n.timer = m.timer ∧
            n.warning = m.warning ∧ n.overMark = m.overMark) ∧
          (m.state = .opened → 199 ≤ m.cycles →
            n.state = .opened ∧ n.cycles = 0 ∧ n.timer = min 65535 (m.timer + 1) ∧
            (s.limitOf seat = none → n.warning = false ∧ n.overMark = false) ∧
            ∀ l, s.limitOf seat = some l → n.warning = decide ((l - s.cfg.warnTime) * 10 ≤ n.timer) ∧
              n.overMark = decide (l * 10 ≤ n.timer)))) ∧
  (∀ s : State, s.quiet → s.FloorOk → s.mic.limitAction = .auto → s.cal.session = .inSession → s.noAdvance →
    s.clock.cycles < 199 → s.early = [] →
    let reached := fun i : Seat => decide ((s.micOf i).state = .opened ∧ 199 ≤ (s.micOf i).cycles ∧
      ∃ l, s.limitOf i = some l ∧ l * 10 ≤ min 65535 ((s.micOf i).timer + 1))
    ∃ t, exec .chainCycle s = .next t ∧ t.cal = s.cal ∧ t.floor.queue = s.floor.queue ∧
      t.floor.openList = s.floor.openList.filter (fun e => !reached e.seat) ∧
      ∀ i : Seat, s.holds i = true → reached i = true → (t.micOf i).state = .closing ∧ (t.micOf i).gap = s.cfg.closeGap) ∧
  (∀ s : State, s.quiet → s.mic.limitAction = .warn → s.cal.session ≠ .closing → s.clock.cycles < 199 → s.early = [] →
    ∃ t, exec .chainCycle s = .next t ∧
      (∀ seat : Seat, (s.disp.messages[seat] = none → t.disp.messages[seat] = none) ∧
        ∀ m, s.disp.messages[seat] = some m →
          (2 ≤ m.counter → t.disp.messages[seat] = some { m with counter := m.counter - 1 }) ∧
          (m.counter ≤ 1 → t.disp.messages[seat] =
            (if m.step < m.text.length + 24 then some { m with step := m.step + 1, counter := 400 } else none))) ∧
      (∀ e : Fin 4, (2 ≤ s.disp.screens[e].window → t.disp.screens[e].window = s.disp.screens[e].window - 1) ∧
        (∀ a, s.disp.screens[e].addr = some a → s.disp.screens[e].window = 1 → s.disp.screens[e].waiting = false →
          let now := s.screenText s.disp.screens[e].template
          (s.disp.screens[e].lastSent ≠ some now → s.link.queue.length < 4 → (∀ i, s.limitOf i = none) →
            t.disp.screens[e].window = 200 ∧ t.disp.screens[e].lastSent = some now ∧
            ⟨a, s.link.station, .screen, be8 e.val ++ now⟩ ∈ t.link.queue) ∧
          (s.disp.screens[e].lastSent = some now →
            t.disp.screens[e] = { s.disp.screens[e] with window := 0, pending := false }))) ∧
      (∀ w : Wing,
        (t.wing w).scanPos = (if (s.wing w).inUse = true ∧ (s.wing w).command = .normal ∧ (s.wing w).assigned ≠ 0 ∧
          (s.wing w).scanPos + 1 < (s.wing w).assigned then (s.wing w).scanPos + 1
          else if (s.wing w).inUse = true ∧ (s.wing w).command = .normal ∧ (s.wing w).assigned ≠ 0 then 0
          else (s.wing w).scanPos) ∧
        (t.wing w).state = (s.wing w).state ∧
        ((s.wing w).state ≠ .enumerating → (t.wing w).command = .normal) ∧
        ((s.wing w).state = .enumerating → (s.wing w).passCycle = 0 →
          (t.wing w).passCycle = 1 ∧ (t.wing w).command = .assign) ∧
        ((s.wing w).state = .enumerating → 1 ≤ (s.wing w).passCycle → (s.wing w).passCycle ≤ 3 →
          (t.wing w).passCycle = (s.wing w).passCycle + 1 ∧ (t.wing w).command = .identify)) ∧
      (t.clock.sync = if s.clock.sync = .synced ∧ 36000 ≤ s.clock.age then .holdover else s.clock.sync) ∧
      (s.mgmt.engine ≠ .stagger → t.mgmt = s.mgmt) ∧
      (s.mgmt.engine = .stagger → 2 ≤ s.mgmt.stagger → t.mgmt = { s.mgmt with stagger := s.mgmt.stagger - 1 }) ∧
      (∀ f, s.mgmt.reply = some f → s.mgmt.engine = .stagger → s.mgmt.stagger ≤ 1 → t.mgmt.stagger = 0 ∧
        (s.link.queue.length < 4 → (∀ i, s.limitOf i = none) → f ∈ t.link.queue ∧
          t.mgmt.requests = s.mgmt.requests.tail))) ∧
  (∀ s : State, s.quiet → s.ClockOk → s.TableOk → s.clock.cycles = 199 → s.early = [] →
    (∀ seat : Seat, (s.micOf seat).state = .closed) → s.clock.sync ≠ .unsynced →
    ∃ t, exec .chainCycle s = .next t ∧
      t.clock.now.minute * 600 + t.clock.now.second * 10 + t.clock.now.tenth =
        (s.clock.now.minute * 600 + s.clock.now.second * 10 + s.clock.now.tenth + 1) % (4294967296 * 600) ∧
      t.clock.now.second < 60 ∧ t.clock.now.tenth < 10 ∧ t.clock.cycles = 0 ∧
      (t.clock.now.minute = s.clock.now.minute → t.cal = s.cal) ∧
      (t.clock.now.minute ≠ s.clock.now.minute → (s.cal.session = .vacant ∨ s.cal.session = .armed) → s.EvaluatedIdle t) ∧
      (∀ b, s.activeBooking = some b → t.clock.now.minute ≠ s.clock.now.minute → s.cal.session = .inSession →
        (t.clock.now.minute < b.start + b.duration → t.cal.session = .inSession) ∧
        (b.start + b.duration ≤ t.clock.now.minute → b.grace = 0 ∨ s.floor.openList = [] →
          t.floor.openList = [] ∧ (t.cal.lastReport.map (·.cause)) = some .endTime))) ∧
  (∀ (s : State) (w : Wing), s.powered = true → s.mgmt.restart = .none → s.floor.mode ≠ .voice →
    (∀ p : Pos, s.pos[p].answer = none ∧ s.pos[p].event = none) →
    (s.wing w).state = .enumerating → (s.wing w).passCycle = 4 → (s.wing w).command = .identify →
    ∃ t, exec .chainCycle s = .next t ∧ (t.wing w).scanPos = 0 ∧ (t.wing w).command = .normal ∧
      ((t.wing w).state = if (∃ i : Fin 32, ((s.wing w).found i).isSome = true) then .running else .down) ∧
      (t.wing w).recorded = (s.wing w).passCount.getD 0 ∧ (t.wing w).assigned = min 32 ((s.wing w).passCount.getD 0) ∧
      ∀ i : Fin 32, t.pos[wingPos w i].presence = (if ((s.wing w).found i).isSome then .present else .absent) ∧
        ∀ serial, (s.wing w).found i = some serial → t.pos[wingPos w i].serial = some serial) ∧
  (∀ (s : State) (p : Pos), s.powered = true → s.mgmt.restart = .none → s.floor.mode ≠ .voice →
    s.wingA.passEnds = false → s.wingB.passEnds = false → s.mic.limitAction = .warn → s.clock.cycles < 199 →
    (∀ q : Pos, q ≠ p → s.pos[q].answer = none ∧ s.pos[q].event = none) → s.live p = true → s.pos[p].slot = .good →
    ∃ t, exec .chainCycle s = .next t ∧
      (∀ (card : Option Key) (serial : Serial), s.pos[p].answer = some (card, serial) → s.pos[p].serial = some serial →
        t.pos[p].statusValid = true ∧ t.pos[p].card = card) ∧
      (∀ (card : Option Key) (serial : Serial), s.pos[p].answer = some (card, serial) → s.pos[p].serial ≠ some serial →
        (t.wing (wingOf p)).state = .enumerating ∧ (t.wing (wingOf p)).command = .assign) ∧
      (s.pos[p].answer = none → s.pos[p].event = some .button → s.store.halted = false →
        (s.cal.session = .vacant ∨ s.cal.session = .armed) →
        t.cal = { s.cal with tally := s.cal.tally.set 5 (min 65535 (s.cal.tally[5] + 1)) } ∧
        (t.micOf (s.logical p)).flash = 1999))

/-- A seat's feed is made from the room return and the other seats' contributions alone: its own block does not enter its
own feed, the room return does not enter the room send, and a muted seat's block enters no feed. Every sample of a feed and
of the room send is the exact value limited to the sample range, and each seat's output clip counter counts the samples of
its feed that this changed. The room send goes out in an AUDIO_OUT frame with the block counter while the link is UP and the
destination is held, as the session's switch says or outside a session send_idle; the frame goes on the line ahead of every
queued frame whose sending has not begun and follows one whose sending has begun, held with its clips (log 23). Its clips
are counted as it goes on the line; those of a held frame are counted with FRAME_SENT alone. (A seat's block is that of the
place which the cycle's mapping gives: log 46.) -/
def Obligations.FeedsCarryNoOwnVoiceAndAreSaturated : Prop :=
  (∀ (s : State) (seat : Seat) (k : Fin 16), s.feedExact seat k =
    scale (duckStage s.mix.cycleLive (s.micOf seat).cycleDuck
      (s.returned k + (((numbers 64).filter (· ≠ seat)).map fun i => s.contribution i k).sum)
        * (s.mix.cycleLive.gout[seat] : Int))) ∧
  (∀ (s : State) (seat : Seat) (b : Block),
    (s.setPos (s.cyclePhys seat) fun r => { r with block := b }).feed seat = s.feed seat) ∧
  (∀ (s : State) (b : Block), ({ s with mix := { s.mix with cycleReturn := b } }).send = s.send) ∧
  (∀ (s : State) (seat : Seat) (b : Block) (i : Seat), s.muted seat = true →
    (s.setPos (s.cyclePhys seat) fun r => { r with block := b }).feed i = s.feed i) ∧
  (∀ (s : State) (seat : Seat) (k : Fin 16), s.store.halted = false →
    ((s.feed seat)[k]).toInt = max (-32768) (min 32767 (s.feedExact seat k)) ∧
    ((s.send)[k]).toInt = max (-32768) (min 32767 (s.sendExact k))) ∧
  (∀ s : State, s.powered = true → s.mgmt.restart = .none → s.store.halted = false →
    let clips := fun (v : Fin 16 → Int) => ((numbers 16).filter fun k => v k < -32768 ∨ 32767 < v k).length
    ∃ t, exec .chainCycle s = .next t ∧
      let sends := s.link.up = true ∧ (if t.cal.session.isActive then t.mix.roomSend else s.cfg.sendIdle) = true
      (∀ seat : Seat,
        (t.live (t.phys seat) = true →
          t.mix.outClips[seat] = min 65535 (s.mix.outClips[seat] + clips (s.feedExact seat))) ∧
        (t.live (t.phys seat) = false → t.mix.outClips[seat] = s.mix.outClips[seat])) ∧
      ((s.link.audioDest = none ∨ ¬ sends) → t.out.audioOut = none ∧ t.link.outCounter = s.link.outCounter ∧
        t.mix.sendClips = s.mix.sendClips ∧ t.link.held = s.link.held ∧ t.link.line = t.link.line.take 1 ∧
        (s.link.begun = true → t.link.line = [])) ∧
      (∀ d, s.link.audioDest = some d → sends →
        let f : Frame := ⟨d, s.link.station, .audioOut, be16 s.link.outCounter ++ blockBytes s.send⟩
        t.out.audioOut = some f ∧ t.link.outCounter = (s.link.outCounter + 1) % 65536 ∧
        (s.link.begun = true → t.link.begun = true ∧ t.link.line = [] ∧
          t.link.held = s.link.held ++ [⟨f, clips s.sendExact⟩] ∧ t.mix.sendClips = s.mix.sendClips) ∧
        (s.link.begun = false → t.link.held = s.link.held ∧ t.link.line = f :: (t.link.queue.take 1) ∧
          t.mix.sendClips = min 65535 (s.mix.sendClips + clips s.sendExact)))) ∧
  (∀ s : State, s.powered = true → s.mgmt.restart = .none → s.store.halted = true →
    ∃ t, exec .chainCycle s = .next t ∧ t.mix.outClips = s.mix.outClips ∧
      (s.mix.sendClips ≤ 65535 → t.mix.sendClips = s.mix.sendClips) ∧
      ∀ f, t.out.audioOut = some f → ∀ d, s.link.audioDest = some d →
        f = ⟨d, s.link.station, .audioOut, be16 s.link.outCounter ++ blockBytes silence⟩)

/-- The duck stage follows the seat's duck class, once: OWN by duck_own, NEAR by duck_near, NONE not at all; a factor
of 4096 leaves the value and a factor of 0 makes it 0; the larger factor keeps more of it. The class latched for a
cycle is OWN exactly for a seat that is not CLOSED, whatever its neighbours do. -/
def Obligations.TheDuckStageFollowsTheDuckClass : Prop :=
  (∀ (t : MixTables) (m : Int), duckStage t .own m = (m * t.duckOwn + 2048) / 4096 ∧
    duckStage t .near m = (m * t.duckNear + 2048) / 4096 ∧ duckStage t .none m = m ∧
    (t.duckOwn = 4096 → duckStage t .own m = m) ∧ (t.duckNear = 4096 → duckStage t .near m = m) ∧
    (t.duckOwn = 0 → duckStage t .own m = 0) ∧ (t.duckNear = 0 → duckStage t .near m = 0) ∧
    (t.duckNear ≤ t.duckOwn → 0 ≤ m → duckStage t .near m ≤ duckStage t .own m) ∧
    (t.duckNear ≤ t.duckOwn → m ≤ 0 → duckStage t .own m ≤ duckStage t .near m)) ∧
  (∀ (s : State) (seat : Seat) (k : Fin 16), s.feedExact seat k =
    scale (duckStage s.mix.cycleLive (s.micOf seat).cycleDuck (s.bus k - s.contribution seat k)
      * (s.mix.cycleLive.gout[seat] : Int))) ∧
  (∀ (s : State) (seat : Seat) (k : Fin 16), s.mix.cycleLive = MixTables.default →
    ((s.micOf seat).cycleDuck = .own → s.feedExact seat k = 0) ∧
    ((s.micOf seat).cycleDuck = .near → s.feedExact seat k = (s.bus k - s.contribution seat k + 2) / 4)) ∧
  (∀ s : State, s.powered = true → ∃ t, exec .chainCycle s = .next t ∧ ∀ seat : Seat,
    ((t.micOf seat).state ≠ .closed ↔ (t.micOf seat).cycleDuck = .own) ∧
    ((t.micOf seat).cycleDuck = .near ↔ (t.micOf seat).state = .closed ∧ ∃ i : Seat, (t.micOf i).state ≠ .closed ∧
      some (t.phys seat) ∈ (t.mix.live.neighbours[t.phys i]).toList))

/-- A commit puts the staged tables into the image, or into the live tables while halted; the transfer makes an image that
is due the live tables, here by its own command, which takes the step before the boundary (log 2: the model's choice). -/
def Obligations.CommitThenTransferMakesTheTablesLive : Prop :=
  (∀ s : State, s.reaches .commit = true →
    ∃ t, exec .commit s = .next t ∧ s.keeps t opPieces ∧ s.answered t .ok ∧ t.mix.pending = false ∧
      (s.store.halted = false → t.mix.image = some s.mix.staged ∧ t.mix.due = true ∧ t.mix.live = s.mix.live) ∧
      (s.store.halted = true → t.mix.image = none ∧ t.mix.due = false ∧ t.mix.live = s.mix.staged)) ∧
  (∀ s : State, s.powered = true →
    ∃ t, exec .commitTransfer s = .next t ∧ s.keeps t (.tables :: screenPieces) ∧
      (∀ m, s.mix.due = true → s.mix.image = some m →
        t.mix.live = m ∧ t.mix.image = none ∧ t.mix.due = false ∧ t.mix.pending = s.mix.pending) ∧
      (s.mix.due = false → s.keeps t screenPieces))

/-- DISCARD needs key 0 and nothing else: it copies the live tables into the staged ones, clears the commit-pending
mark and cancels the waiting transfer, so that the boundary transfers nothing; the live tables and the changed marks
stay, and the end of a request that stores nothing after it makes no commit. -/
def Obligations.DiscardRestoresTheStagedTables : Prop :=
  (∀ s : State, s.reaches .discard = true →
    ∃ t, exec .discard s = .next t ∧ s.keeps t (.staged :: opPieces) ∧ s.answered t .ok ∧
      t.mix.staged = s.mix.live ∧ t.mix.live = s.mix.live ∧ t.mix.pending = false ∧ t.mix.image = none ∧
      t.mix.due = false ∧ t.transferDue.mix.live = s.mix.live ∧ t.seats = s.seats ∧
      (∀ g, t.mgmt.hand = some g → t.autoCommits g = false)) ∧
  (∀ (s : State) (h : Hand), s.atOp (.action 0x0C []) = true → s.mgmt.hand = some h →
    (h.key = 0 → s.reaches .discard = true) ∧
    (h.key ≠ 0 → ∃ t, exec .discard s = .next t ∧ s.fails t .protectedKey))

/-! ## Levels and displays -/

/-- The block peak is the largest magnitude, −32768 counting as 32767; a block that reaches an end of the range counts
one clip; the meter is the eighth part of the sum of the last eight peaks, shown by ^M, and enters no voice condition.
A block that is not taken moves nothing. -/
def Obligations.ThePeakTheInputClipsAndTheMeter : Prop :=
  (∀ b : Block, (∀ k : Fin 16, min 32767 (b[k]).toInt.natAbs ≤ peakOf b) ∧
    (∃ k : Fin 16, peakOf b = min 32767 (b[k]).toInt.natAbs) ∧ peakOf b ≤ 32767) ∧ peakOf silence = 0 ∧
  (∀ (cfg : Settings) (l : LevelRec) (b : Block),
    ((∃ k : Fin 16, (b[k]).toInt = 32767 ∨ (b[k]).toInt = -32768) → (l.take cfg b).clips = min 65535 (l.clips + 1)) ∧
    ((∀ k : Fin 16, (b[k]).toInt ≠ 32767 ∧ (b[k]).toInt ≠ -32768) → (l.take cfg b).clips = l.clips) ∧
    (l.take cfg silence).clips = l.clips ∧
    (l.take cfg b).peaks.toList = l.peaks.toList.tail ++ [peakOf b] ∧
    (l.take cfg b).meter = (l.take cfg b).peaks.toList.sum / 8 ∧
    ((∀ x ∈ l.peaks.toList, x ≤ 32767) → (l.take cfg b).peaks.toList.sum ≤ 262136 ∧ (l.take cfg b).meter ≤ 32767) ∧
    l.zero.peaks.toList = List.replicate 8 0 ∧ (l.zero.take cfg b).meter = peakOf b / 8 ∧
    (∀ bs : List Block, bs.length = 7 → ((bs ++ [b]).foldl (LevelRec.take cfg) l).peaks.toList = (bs ++ [b]).map peakOf) ∧
    (∀ l' : LevelRec, l'.envelope = l.envelope → l'.idle = l.idle →
      (l'.take cfg b).voiceStart = (l.take cfg b).voiceStart ∧ (l'.take cfg b).voiceIdle = (l.take cfg b).voiceIdle)) ∧
  (∀ (s : State) (p : Pos) (raw : List Byte), s.powered = true → s.live p = false →
    ∃ t, exec (.upstreamSlot p raw) s = .next t ∧ t.level = s.level) ∧
  (∀ (s : State) (p : Pos) (raw : List Byte), s.powered = true → s.live p = true →
    ∃ t, exec (.upstreamSlot p raw) s = .next t ∧ t.mix.outClips = s.mix.outClips ∧ t.mix.sendClips = s.mix.sendClips) ∧
  (∀ (s : State) (seat : Seat), s.fieldSeat seat 0x4D =
    some (fitLeft 8 (List.replicate ((s.level[s.phys seat]).meter / 4096) 0x23)))

/-- The envelope moves toward the peak by the two formulas, never passes it, stays within its range, and stops within
the stated distance of it; it is made from the settings in force when the block is taken. -/
def Obligations.TheEnvelopeFollowsThePeak : Prop :=
  (∀ (cfg : Settings) (l : LevelRec) (b : Block), 1 ≤ cfg.kAtt → cfg.kAtt ≤ 255 → 1 ≤ cfg.kRel → cfg.kRel ≤ 255 →
    l.envelope ≤ 32767 →
    let p := peakOf b
    let e := (l.take cfg b).envelope
    p ≤ 32767 ∧ e ≤ 32767 ∧
    (l.envelope < p → e = l.envelope + (p - l.envelope) * cfg.kAtt / 256 ∧ l.envelope ≤ e ∧ e < p) ∧
    (p ≤ l.envelope → e = l.envelope - (l.envelope - p) * cfg.kRel / 256 ∧ p ≤ e ∧ e ≤ l.envelope) ∧
    (l.envelope < p → (p - l.envelope) * cfg.kAtt < 256 → e = l.envelope) ∧
    (p ≤ l.envelope → (l.envelope - p) * cfg.kRel < 256 → e = l.envelope) ∧
    (l.envelope < p → (e = l.envelope ↔ p - l.envelope ≤ 255 / cfg.kAtt)) ∧
    (p ≤ l.envelope → (e = l.envelope ↔ l.envelope - p ≤ 255 / cfg.kRel))) ∧
  (∀ (cfg : Settings) (l : LevelRec) (b : Block), (∀ x ∈ l.peaks.toList, x ≤ 32767) → (l.take cfg b).meter ≤ 32767) ∧
  (∀ (s : State) (p : Pos) (raw : List Byte) (u : UpSlot), s.powered = true → s.live p = true → readUpSlot raw = some u →
    ∃ t, exec (.upstreamSlot p raw) s = .next t ∧ t.level[p] = (s.level[p]).take s.cfg u.block)

/-- The voice conditions follow the new envelope: voice-start at or above open_thr; the idle count of consecutive blocks
below close_thr, up to 4000; voice-idle from the hold-th of them. They never hold together, neither holds for a position
that is not taken, and they stand as they are during a pass. A READ of a seat's entry shows its envelope and the two
conditions as they held at its last taken block, the envelope as two bytes (log 10: the model's choice of width). A level
state set to 0 keeps those conditions for a READ, and hands none on until its next block (log 27). -/
def Obligations.TheVoiceConditionsFollowTheEnvelope : Prop :=
  (∀ (cfg : Settings) (l : LevelRec) (b : Block), let n := l.take cfg b
    n.voiceStart = decide (cfg.openThr ≤ n.envelope) ∧
    (n.envelope < cfg.closeThr → n.idle = min 4000 (l.idle + 1)) ∧ (cfg.closeThr ≤ n.envelope → n.idle = 0) ∧
    n.voiceIdle = decide (cfg.hold ≤ n.idle ∧ 1 ≤ n.idle) ∧
    (cfg.closeThr ≤ cfg.openThr → n.voiceStart = true → n.idle = 0 ∧ n.voiceIdle = false) ∧
    (cfg.closeThr ≤ n.envelope → n.envelope < cfg.openThr → n.voiceStart = false ∧ n.voiceIdle = false)) ∧
  (∀ (cfg : Settings) (l : LevelRec) (bs : List Block), cfg.hold ≤ 4000 → l.idle = 0 → bs ≠ [] →
    (∀ n, 1 ≤ n → n ≤ bs.length → ((bs.take n).foldl (LevelRec.take cfg) l).envelope < cfg.closeThr) →
    (bs.foldl (LevelRec.take cfg) l).voiceIdle = decide (max 1 cfg.hold ≤ bs.length)) ∧
  (∀ (s : State) (seat : Seat),
    (s.pos[s.phys seat].presence = .absent ∨ (s.wing (wingOf (s.phys seat))).state = .down) →
    s.voiceStart seat = false ∧ s.voiceIdle seat = false) ∧
  (∀ (s : State) (seat : Seat), s.pos[s.phys seat].presence = .present →
    (s.wing (wingOf (s.phys seat))).state = .enumerating → (s.level[s.phys seat]).fresh = true →
    s.voiceStart seat = (s.level[s.phys seat]).voiceStart ∧ s.voiceIdle seat = (s.level[s.phys seat]).voiceIdle) ∧
  (∀ (s : State) (seat : Seat), (s.level[s.phys seat]).fresh = false →
    s.voiceStart seat = false ∧ s.voiceIdle seat = false) ∧
  (∀ (cfg : Settings) (l : LevelRec) (b : Block), (l.take cfg b).fresh = true ∧ l.zero.fresh = false ∧ l.zero.envelope = 0 ∧
    l.zero.idle = 0 ∧ l.zero.voiceStart = l.voiceStart ∧ l.zero.voiceIdle = l.voiceIdle) ∧
  (∀ (s : State) (seat : Seat), s.reaches (.read 0x0A (BitVec.ofNat 16 seat.val) 1) = true →
    let l := s.level[s.phys seat]
    let entry := s.seatFields seat ++ s.micFields seat ++
      (be16 l.envelope ++ be8 (if l.voiceStart then 1 else 0) ++ be8 (if l.voiceIdle then 1 else 0)) ++ s.displayFields seat
    entry.length ≤ s.replyRoom →
    ∃ t, exec (.read 0x0A (BitVec.ofNat 16 seat.val) 1) s = .next t ∧ s.keeps t opPieces ∧
      s.answers t .ok [⟨1, entry⟩]) ∧
  (∀ (s : State) (p : Pos) (raw : List Byte), s.powered = true → (s.wing (wingOf p)).state = .enumerating →
    ∃ t, exec (.upstreamSlot p raw) s = .next t ∧ t.level = s.level)

/-- Twelve chunks received in order make a seat unit latch the whole text, whatever it held before; twelve rounds of
settle and delivery make the composer hold that text as known, and a chunk that is not delivered starts the transfer
again. (That a unit's display follows from the chunks it has received alone: log 24.) -/
def Obligations.ATextReachesItsDisplayInTwelveChunks : Prop :=
  (∀ (u : UnitDisplay) (t : Text), t.length = 48 →
    u.receiveAll (chunksOf t) = { partialText := none, shown := some t }) ∧
  (∀ (d : Delivery) (t : Text), d.transfer = none → d.known ≠ some t →
    (Nat.repeat (fun x : Delivery => ({ x.settle t with carried := true }).report true) 12 d) =
      { known := some t, transfer := none, carried := false }) ∧
  (∀ (d : Delivery) (t : Text) (n : Nat), d.transfer = some ⟨t, n⟩ → d.carried = true → n ≤ 11 →
    (d.report false).transfer = some ⟨t, 0⟩ ∧ (d.report false).known = if n = 11 then none else d.known)

/-! ## Steps of a boundary by their own commands -/

/-- A gap that ends makes an OPENING microphone OPEN with its timer at 0 and the spoke mark set while the session
runs, and a CLOSING one CLOSED (its idle gap of 0: log 27), in CLOSING too while another microphone is not CLOSED yet. The
turn timer advances by a tenth at its 200th cycle; with no limit nothing else follows, under WARN the two marks follow the
limit, and under AUTO a reached limit takes the floor from the seat, which in GRACE can begin CLOSING. (Their own commands
take steps that are due: log 2.) -/
def Obligations.GapsEndAndTurnsAdvance : Prop :=
  (∀ (s : State) (seat : Seat), s.powered = true → s.early.contains (.mic seat) = false → (s.micOf seat).gap ≤ 1 →
    ((s.micOf seat).state = .opening →
      ∃ t, exec (.gapEnd seat) s = .next t ∧ s.keeps t ([.mic, .seats, .early, .linkCounters] ++ screenPieces) ∧
        (t.micOf seat).state = .opened ∧ (t.micOf seat).timer = 0 ∧ (t.micOf seat).cycles = 0 ∧
        (t.micOf seat).overMark = false ∧
        (t.micOf seat).warning = (match s.limitOf seat with | some l => decide (l ≤ s.cfg.warnTime) | none => false) ∧
        (∀ i, i ≠ seat → t.micOf i = s.micOf i) ∧
        t.seatRec seat = { s.seatRec seat with spoke := s.cal.session.runs || (s.seatRec seat).spoke } ∧
        (∀ p, p ≠ s.phys seat → t.seats.recs[p] = s.seats.recs[p])) ∧
    ((s.micOf seat).state = .closing →
      (s.cal.session ≠ .closing ∨ ∃ i, i ≠ seat ∧ (s.micOf i).state ≠ .closed) →
      ∃ t, exec (.gapEnd seat) s = .next t ∧ s.keeps t ([.mic, .early] ++ screenPieces) ∧
        t.micOf seat = { s.micOf seat with state := .closed, gap := 0 } ∧ (∀ i, i ≠ seat → t.micOf i = s.micOf i))) ∧
  (∀ (s : State) (seat : Seat), s.powered = true → s.early.contains (.mic seat) = false →
    (s.micOf seat).state = .opened → 199 ≤ (s.micOf seat).cycles →
    let timer := min 65535 ((s.micOf seat).timer + 1)
    ∃ t, exec (.turnTimerAdvance seat) s = .next t ∧
      (s.limitOf seat = none → s.keeps t ([.mic, .early] ++ screenPieces) ∧ (∀ i, i ≠ seat → t.micOf i = s.micOf i) ∧
        t.micOf seat = { s.micOf seat with timer := timer, cycles := 0, warning := false, overMark := false }) ∧
      (∀ l, s.limitOf seat = some l → (s.mic.limitAction = .warn ∨ timer < l * 10) →
        s.keeps t ([.mic, .early, .linkCounters] ++ screenPieces) ∧ (∀ i, i ≠ seat → t.micOf i = s.micOf i) ∧
        t.micOf seat = { s.micOf seat with timer := timer, cycles := 0,
                                           warning := decide ((l - s.cfg.warnTime) * 10 ≤ timer),
                                           overMark := decide (s.mic.limitAction = .warn ∧ l * 10 ≤ timer) } ∧
        ((s.micOf seat).warning = false → (l - s.cfg.warnTime) * 10 ≤ timer →
          s.notified t 0x03 (be8 seat.val ++ be16 l ++ be16 timer))) ∧
      (∀ l, s.limitOf seat = some l → s.mic.limitAction = .auto → l * 10 ≤ timer → s.holds seat = true →
        s.cal.session = .inSession → s.noAdvance →
        s.keeps t (.early :: floorPieces) ∧ (∀ i, i ≠ seat → t.micOf i = s.micOf i) ∧
        (t.micOf seat).state = .closing ∧ (t.micOf seat).gap = s.cfg.closeGap ∧ (t.seatRec seat).lastTurn = timer ∧
        t.floor.openList = s.floor.openList.filter (fun x => x.seat ≠ seat) ∧ t.floor.queue = s.floor.queue) ∧
      (∀ l, s.limitOf seat = some l → s.mic.limitAction = .auto → l * 10 ≤ timer → s.holds seat = true →
        s.cal.session = .grace →
        s.keeps t (.early :: sessionPieces) ∧ s.LeavesTheFloor t seat ∧ (t.micOf seat).timer = 0))

/-- The refusal flash ends at its last boundary; a message moves on by a step, or goes after its last; the window of a room
screen ends, and an entry whose rendering then differs from the text last sent hands a frame with it, or waits where the
queue is full; an entry whose rendering has come back to that text hands none. (Their own commands take steps that are due:
log 2.) -/
def Obligations.FlashesMessagesAndWindowsEnd : Prop :=
  (∀ (s : State) (seat : Seat), s.powered = true → (s.micOf seat).flash = 1 →
    ∃ t, exec (.refusalFlashEnd seat) s = .next t ∧ s.keeps t (.mic :: screenPieces) ∧
      t.micOf seat = { s.micOf seat with flash := 0 } ∧ (∀ i, i ≠ seat → t.micOf i = s.micOf i)) ∧
  (∀ (s : State) (seat : Seat) (m : Message), s.powered = true → s.early.contains (.message seat) = false →
    s.disp.messages[seat] = some m → m.counter ≤ 1 →
    ∃ t, exec (.messageStep seat) s = .next t ∧ s.keeps t ([.messages, .early] ++ screenPieces) ∧
      t.disp.messages[seat] = (if m.step = m.text.length + 24 ∨ m.text.length + 24 < m.step then none
        else some { m with step := m.step + 1, counter := 400 }) ∧
      (∀ i, i ≠ seat → t.disp.messages[i] = s.disp.messages[i])) ∧
  (∀ (s : State) (e : Fin 4) (a : Addr), s.powered = true → s.early.contains (.screen e) = false →
    s.disp.screens[e].window = 1 → s.disp.screens[e].addr = some a → s.disp.screens[e].waiting = false →
    ∃ t, exec (.screenWindowEnd e) s = .next t ∧ s.keeps t (.early :: screenPieces) ∧
      let now := s.screenText s.disp.screens[e].template
      (s.disp.screens[e].lastSent ≠ some now → s.link.queue.length < 8 →
        t.disp.screens[e].window = 200 ∧ t.disp.screens[e].lastSent = some now ∧ t.disp.screens[e].pending = false ∧
        ⟨a, s.link.station, .screen, be8 e.val ++ now⟩ ∈ t.link.queue) ∧
      (s.disp.screens[e].lastSent ≠ some now → 8 ≤ s.link.queue.length → t.disp.screens[e].waiting = true ∧
        t.disp.screens[e].pending = false ∧ t.link.queue = s.link.queue) ∧
      (s.disp.screens[e].lastSent = some now →
        t.disp.screens[e] = { s.disp.screens[e] with window := 0, pending := false } ∧
        ∃ shown, t.link.queue = s.link.queue ++ shown ∧ ∀ f ∈ shown, f.payload.take 1 ≠ be8 e.val))

/-- The clock advances by one tenth, rolling at ten tenths, sixty seconds and 4,294,967,296 minutes; within a minute
nothing else follows, and a change of the minute causes an evaluation: none in CLOSING, which holds the roll to 0 pending as
a backward step (log 34), and in UNSYNCED the end of an ad hoc booking alone is tested. SYNCED becomes HOLDOVER once the sync
age has reached 36,000 tenths, and nothing else does. (Its own command takes a step that is due: log 2.) -/
def Obligations.TheClockAdvancesAndFallsToHoldover : Prop :=
  (∀ s : State, s.powered = true → s.ClockOk → 199 ≤ s.clock.cycles → s.early.contains .tenth = false →
    ∃ t, exec .clockTenth s = .next t ∧
      t.clock.now.minute * 600 + t.clock.now.second * 10 + t.clock.now.tenth =
        (s.clock.now.minute * 600 + s.clock.now.second * 10 + s.clock.now.tenth + 1) % (4294967296 * 600) ∧
      t.clock.now.second < 60 ∧ t.clock.now.tenth < 10 ∧ t.clock.cycles = 0 ∧
      t.clock.age = min 65535 (s.clock.age + 1) ∧ t.clock.sync = s.clock.sync ∧
      (t.clock.now.minute = s.clock.now.minute → s.keeps t ([.clock, .early] ++ screenPieces)) ∧
      s.keeps t ([.clock, .early] ++ sessionPieces) ∧
      (t.clock.now.minute ≠ s.clock.now.minute → s.cal.session = .closing →
        s.keeps t ([.clock, .cal, .early] ++ screenPieces) ∧
        t.cal = { s.cal with stepPending := s.cal.stepPending || decide (t.clock.now.minute < s.clock.now.minute) }) ∧
      (t.clock.now.minute ≠ s.clock.now.minute → s.cal.session ≠ .closing → s.Settles t)) ∧
  (∀ s : State, s.powered = true →
    ∃ t, exec .holdover s = .next t ∧ s.keeps t (.clock :: screenPieces) ∧
      t.clock = { s.clock with sync := if s.clock.sync = .synced ∧ 36000 ≤ s.clock.age then .holdover else s.clock.sync })

/-- In CLOSING some microphone is not CLOSED, in every state that a step leads to; the event that closes the last one
completes CLOSING: the end of its gap, by its own command (log 2) or at a boundary, the loss of its position, HALT. Then the
ACTIVE record goes, the seat table is emptied of the session, and the table is VACANT; with the clock set the calendar
evaluates. CLOSING_COMPLETE itself finds CLOSING with every microphone CLOSED in no state that a run reaches, and where it
does not it completes nothing. -/
def Obligations.ClosingCompletesWhenEveryMicrophoneIsClosed : Prop :=
  (∀ s t : State, s.FloorOk → s.ClosingOk → step s = .next t → t.ClosingOk) ∧
  (∀ s : State, s.powered = true →
    ∃ t, exec .closingComplete s = .next t ∧
      ((s.cal.session ≠ .closing ∨ ∃ seat, (s.micOf seat).state ≠ .closed) → s.keeps t screenPieces) ∧
      (s.cal.session = .closing → (∀ seat, (s.micOf seat).state = .closed) → s.TableOk →
        s.keeps t sessionPieces ∧ s.Completed t ∧
        (s.clock.sync = .unsynced → s.keeps t ([.cal, .seats, .messages] ++ screenPieces)))) ∧
  (∀ (s : State) (seat : Seat), s.powered = true → s.early.contains (.mic seat) = false → s.cal.session = .closing →
    (s.micOf seat).state = .closing → (s.micOf seat).gap ≤ 1 → (∀ i, i ≠ seat → (s.micOf i).state = .closed) → s.TableOk →
    ∃ t, exec (.gapEnd seat) s = .next t ∧ s.keeps t (.early :: sessionPieces) ∧ s.Completed t ∧
      (t.micOf seat).state = .closed) ∧
  (∀ s : State, s.quiet → s.cal.session = .closing → s.early = [] → s.clock.cycles < 199 →
    (∀ i, (s.micOf i).state = .closed ∨ ((s.micOf i).state = .closing ∧ (s.micOf i).gap ≤ 1)) →
    (∃ i, (s.micOf i).state = .closing) → s.TableOk →
    ∃ t, exec .chainCycle s = .next t ∧ s.Completed t ∧ (∀ i, (t.micOf i).state = .closed)) ∧
  (∀ (s : State) (p : Pos) (raw : List Byte), s.powered = true → s.live p = true → readUpSlot raw = none →
    2 ≤ s.pos[p].loss → s.cal.session = .closing → (s.micOf (s.logical p)).state ≠ .closed →
    (∀ i, i ≠ s.logical p → (s.micOf i).state = .closed) → s.FloorOk → s.MicOk → s.TableOk →
    ∃ t, exec (.upstreamSlot p raw) s = .next t ∧ s.keeps t ([.pos, .wings] ++ lossPieces) ∧ s.Completed t ∧
      (t.micOf (s.logical p)).state = .closed) ∧
  (∀ s : State, s.reaches .halt = true → s.store.halted = false → s.cal.session = .closing → s.FloorOk → s.MicOk →
    s.TableOk → (∃ i, (s.micOf i).state ≠ .closed) →
    ∃ t, exec .halt s = .next t ∧ s.Completed t ∧ (∀ i, (t.micOf i).state = .closed))

/-- At the end of the stagger the reply is offered: with a place in the queue it enters and the request leaves,
otherwise the engine waits in REPLY_WAIT. (Its own command takes the step when it is due: log 2.) -/
def Obligations.TheStaggerEndsWithTheReply : Prop :=
  ∀ (s : State) (f : Frame) (r : Request) (rest : List Request), s.powered = true → s.mgmt.engine = .stagger →
    s.mgmt.stagger ≤ 1 → s.early.contains .stagger = false → s.mgmt.reply = some f → s.mgmt.requests = r :: rest →
    ∃ t, exec .staggerExpiry s = .next t ∧ s.keeps t ([.mgmt, .early] ++ screenPieces) ∧ t.mgmt.stagger = 0 ∧
      (s.link.queue.length < 8 → s.link.queue ++ [f] <+: t.link.queue ∧ t.mgmt.requests = rest ∧
        t.mgmt.hand = none ∧ t.mgmt.engine = (if rest = [] then .idle else .executing)) ∧
      (8 ≤ s.link.queue.length → t.link.queue = s.link.queue ∧ t.mgmt.engine = .replyWait ∧
        t.mgmt.requests = s.mgmt.requests ∧ t.mgmt.reply = some f)

/-! ## The room link -/

/-- The link state: UP changes nothing but the state, lets a waiting STORE_INVALID notice go, and the sending of the head of
the queue begins, but not while a restart is due (log 5); DOWN unlearns the audio return, empties its buffer and counts the
loss, and the queue stays: the frame that was being sent is sent again in full after the next UP, and an AUDIO_OUT frame that
was to follow it is not sent (log 23). -/
def Obligations.LinkUpAndLinkDown : Prop :=
  (∀ s : State, s.powered = true →
    ∃ t, exec .linkUp s = .next t ∧ t.link.up = true ∧ s.link.queue <+: t.link.queue ∧
      ((∀ silent, s.mgmt.restart ≠ .due silent) → s.link.begun = false → s.link.queue ≠ [] → t.link.begun = true ∧
        t.link.line = s.link.line ++ s.link.queue.take 1) ∧
      (∀ silent, s.mgmt.restart = .due silent → t.link.begun = s.link.begun ∧ t.link.line = s.link.line) ∧
      (s.link.up = true → s.keeps t screenPieces) ∧
      ((s.store.storeInvalid = false ∨ s.link.noticeDest = none) → s.keeps t (.linkState :: screenPieces)) ∧
      (s.link.up = false → s.store.storeInvalid = true → s.link.noticeDest.isSome = true →
        s.keeps t ([.linkState, .store, .linkCounters] ++ screenPieces) ∧
        t.store = { s.store with storeInvalid := false } ∧ s.notified t 0x09 [])) ∧
  (∀ s : State, s.powered = true →
    ∃ t, exec .linkDown s = .next t ∧ t.link.up = false ∧ s.link.queue <+: t.link.queue ∧
      (s.link.up = false → s.keeps t screenPieces) ∧
      (s.link.up = true → s.keeps t ([.linkState, .audioReturn, .linkCounters] ++ screenPieces) ∧
        t.link.learnt = false ∧ t.link.expected = 0 ∧ t.link.buffer = [] ∧ t.link.begun = false ∧ t.link.held = [] ∧
        t.link.line = s.link.line ∧
        t.link.counters = { s.link.counters with linkLosses := min 65535 (s.link.counters.linkLosses + 1) }))

/-- The receive filter counts a dropped frame under the first check that fails, and changes nothing else: the flags byte is
in no check. A frame that the filter accepts, be it AUDIO_IN, TIME or REQUEST, changes nothing by this row (log 7). -/
def Obligations.DroppedFramesAreCountedOnce : Prop :=
  ∀ (s : State) (raw : List Byte), s.powered = true → s.link.up = true →
    ∃ t, exec (.frameDropped raw) s = .next t ∧ s.keeps t (.linkCounters :: screenPieces) ∧
      (raw.length < 20 → t.link.counters = { s.link.counters with runts := min 65535 (s.link.counters.runts + 1) }) ∧
      (1020 < raw.length →
        t.link.counters = { s.link.counters with oversize := min 65535 (s.link.counters.oversize + 1) }) ∧
      (20 ≤ raw.length → raw.length ≤ 1020 → raw.drop (raw.length - 4) ≠ crc32Bytes (raw.take (raw.length - 4)) →
        t.link.counters = { s.link.counters with crcErrors := min 65535 (s.link.counters.crcErrors + 1) }) ∧
      (∀ (dest source : Addr) (kind flags : Byte) (length : BitVec 16) (payload : List Byte), payload.length ≤ 1000 →
        let covered := addrBytes dest ++ addrBytes source ++ [kind, flags] ++ be16 length.toNat ++ payload
        let sizeGood := length.toNat = payload.length ∧ (kind = 0x01 → payload.length = 34) ∧
          (kind = 0x03 → payload.length = 6)
        let ours := dest = s.link.station ∨ dest = broadcast ∨ ∃ g : Fin 4, s.link.groups[g] = some dest
        raw = covered ++ crc32Bytes covered →
        (¬ sizeGood →
          t.link.counters = { s.link.counters with lengthErrors := min 65535 (s.link.counters.lengthErrors + 1) }) ∧
        (sizeGood → ¬ ours →
          t.link.counters = { s.link.counters with addressMisses := min 65535 (s.link.counters.addressMisses + 1) }) ∧
        (sizeGood → ours → ((kind ≠ 0x01 ∧ kind ≠ 0x03 ∧ kind ≠ 0x04) ∨ (kind = 0x01 ∧ dest ≠ s.link.station)) →
          t.link.counters = { s.link.counters with kindRejects := min 65535 (s.link.counters.kindRejects + 1) }) ∧
        (sizeGood → ours → kind = 0x03 → (59 < field payload 4 1 ∨ 9 < field payload 5 1) →
          t.link.counters = { s.link.counters with timeRejects := min 65535 (s.link.counters.timeRejects + 1) }) ∧
        (sizeGood → ours → (kind = 0x04 ∨ (kind = 0x01 ∧ dest = s.link.station) ∨
            (kind = 0x03 ∧ field payload 4 1 ≤ 59 ∧ field payload 5 1 ≤ 9)) →
          t.link.counters = s.link.counters))

/-- An AUDIO_IN frame addressed to the station: the first is taken whatever its counter; the expected one is taken;
one ahead counts the missing blocks; one behind is dropped and counted; a full buffer loses its older block. -/
def Obligations.AudioReturnBlocksJoinTheBuffer : Prop :=
  ∀ (s : State) (source : Addr) (k : Nat) (b : Block), s.powered = true → s.link.up = true → k < 65536 →
    s.link.expected < 65536 →
    ∃ t, exec (.audioIn (frameBytes s.link.station source 0x01 (be16 k ++ blockBytes b))) s = .next t ∧
      s.keeps t ([.audioReturn, .linkCounters] ++ screenPieces) ∧
      let ahead := (k + 65536 - s.link.expected) % 65536
      let taken := s.link.learnt = false ∨ ahead ≤ 32767
      (taken → t.link.learnt = true ∧ t.link.expected = (k + 1) % 65536 ∧
        (s.link.buffer.length < 2 → t.link.buffer = s.link.buffer ++ [b] ∧
          t.link.counters = { s.link.counters with
            returnGaps := if s.link.learnt ∧ ahead ≠ 0 then min 65535 (s.link.counters.returnGaps + ahead)
              else s.link.counters.returnGaps }) ∧
        (2 ≤ s.link.buffer.length → t.link.buffer = s.link.buffer.tail ++ [b] ∧
          t.link.counters.returnOverruns = min 65535 (s.link.counters.returnOverruns + 1))) ∧
      (¬ taken → t.link.learnt = s.link.learnt ∧ t.link.expected = s.link.expected ∧ t.link.buffer = s.link.buffer ∧
        t.link.counters = { s.link.counters with lateBlocks := min 65535 (s.link.counters.lateBlocks + 1) })

/-- A TIME frame of good values sets the clock to its time in SYNCED with age 0, and the calendar evaluates at it; in CLOSING
the evaluation is held pending, and with no booking and no session nothing else follows. The first TIME frame in UNSYNCED
moves the ad hoc booking that runs into the new time: its remaining time counts from the new minute, past WAITING records go
as MISSED, and it is cut at the start of the next one. -/
def Obligations.ATimeFrameSetsTheClock : Prop :=
  ∀ (s : State) (dest source : Addr) (m : BitVec 32) (sec tenth : Nat), s.powered = true → s.link.up = true →
    (dest = s.link.station ∨ dest = broadcast ∨ ∃ g : Fin 4, s.link.groups[g] = some dest) → sec ≤ 59 → tenth ≤ 9 →
    let now : RoomTime := ⟨m.toNat, sec, tenth⟩
    let u : State := { s with clock := { now := now, cycles := 0, sync := .synced, age := 0 } }
    ∃ t, exec (.time (frameBytes dest source 0x03 (be32 m.toNat ++ be8 sec ++ be8 tenth))) s = .next t ∧
      t.clock = u.clock ∧ t.cfg = s.cfg ∧ s.keeps t (.clock :: sessionPieces) ∧
      (s.cal.session = .closing → s.keeps t ([.clock, .cal] ++ screenPieces) ∧
        t.cal = { s.cal with stepPending := true }) ∧
      (s.cal.session = .vacant → s.cal.bookings = [] → s.keeps t (.clock :: screenPieces)) ∧
      (s.cal.session ≠ .closing → (s.clock.sync ≠ .unsynced ∨ s.activeBooking = none) → u.Settles t) ∧
      (∀ b, s.activeBooking = some b → s.cal.session = .inSession → s.clock.sync = .unsynced → b.grace = 0 → s.TableOk →
        let waiting := waitingOf (s.cal.bookings.filter fun x => x.active || decide (m.toNat < x.start + x.duration))
        let finish := m.toNat + (b.start + b.duration - s.clock.now.minute)
        let cut := ((waiting.map (·.start)).map (max m.toNat)).foldl min finish
        let moved := { b with start := m.toNat, duration := cut - m.toNat }
        let v : State := { u with cal := { s.cal with bookings := placeBooking moved waiting, actualStart := now } }
        (m.toNat < cut → v.GoesOn t .inSession v.cal.bookings ∧ t.cal.actualStart = now) ∧
        (cut ≤ m.toNat → v.Closes t .endTime))

/-- A frame that completes its sending leaves the queue; the AUDIO_OUT frames that had to follow it go on the line and their
clips are counted, to 65535, whatever the destination or the session have become since they were built (log 23); then the
sending of the next queued frame begins. The place goes to a waiting reply, otherwise to the first waiting room screen after
the one last admitted, with its present rendering; the rest keep their order. A restart that is due takes effect before the
frame is sent, so that the counter starts afresh before those clips, and the reply that waits enters after it (log 5). -/
def Obligations.ASentFrameFreesAPlace : Prop :=
  ∀ (s : State) (f : Frame) (rest : List Frame), s.powered = true → s.link.up = true → s.link.queue = f :: rest →
    let counted := fun (n : Nat) => if s.link.held = [] then n else min 65535 (n + (s.link.held.map (·.clips)).sum)
    ∃ t, exec .frameSent s = .next t ∧ rest <+: t.link.queue ∧ t.link.held = [] ∧
      t.link.line = s.link.line ++ (if s.link.begun then [] else [f]) ++ s.link.held.map (·.frame) ++ t.link.queue.take 1 ∧
      (t.link.begun = true ↔ t.link.queue ≠ []) ∧
      ((∀ silent, s.mgmt.restart ≠ .due silent) → s.keeps t ([.mgmt, .mixCycle] ++ screenPieces) ∧
        t.mix = { s.mix with sendClips := counted s.mix.sendClips } ∧
        (∀ r q qs, s.mgmt.engine = .replyWait → s.mgmt.reply = some r → s.mgmt.requests = q :: qs →
          rest ++ [r] <+: t.link.queue ∧ t.mgmt.requests = qs ∧ t.mgmt.reply = none ∧
          t.link.lastAdmitted = s.link.lastAdmitted ∧ t.mgmt.engine = (if qs = [] then .idle else .executing)) ∧
        (s.mgmt.engine ≠ .replyWait → t.mgmt = s.mgmt) ∧
        (∀ (n : Fin 4) (a : Addr), s.mgmt.engine ≠ .replyWait →
          s.disp.screens[s.link.lastAdmitted + 1 + n].waiting = true →
          (∀ k : Fin 4, k < n → s.disp.screens[s.link.lastAdmitted + 1 + k].waiting = false) →
          s.disp.screens[s.link.lastAdmitted + 1 + n].addr = some a →
          t.link.lastAdmitted = s.link.lastAdmitted + 1 + n ∧
          t.disp.screens[s.link.lastAdmitted + 1 + n].waiting = false ∧
          rest ++ [⟨a, s.link.station, .screen, be8 (s.link.lastAdmitted + 1 + n).val ++
            s.screenText s.disp.screens[s.link.lastAdmitted + 1 + n].template⟩] <+: t.link.queue) ∧
        (s.mgmt.engine ≠ .replyWait → (∀ e : Fin 4, s.disp.screens[e].waiting = false) →
          t.link.lastAdmitted = s.link.lastAdmitted)) ∧
      (∀ silent, s.mgmt.restart = .due silent → t.passStarts .a ∧ t.passStarts .b ∧ t.floor.openList = [] ∧
        t.floor.queue = [] ∧ t.link.learnt = false ∧ t.mgmt.restart = .none ∧ t.mix.sendClips = counted 0 ∧
        s.keeps t [.wings, .level, .seats, .cal, .floor, .mic, .mixCycle, .messages, .delivery, .screens, .audioReturn,
          .sending, .linkCounters, .mgmt, .store] ∧
        (silent = true → t.mgmt.requests = s.mgmt.requests.tail) ∧
        (silent = false → ∀ r q qs, s.mgmt.engine = .replyWait → s.mgmt.reply = some r → s.mgmt.requests = q :: qs →
          r ∈ t.link.queue ∧ t.mgmt.requests = qs))

/-! ## The management engine -/

/-- An operation that a check turns away changes nothing of its object, and its request ends with that status: an object or
an action that the table does not have, a WRITE or a flag operation on a read-only object, a READ_CLEAR of another object
than COUNTERS, a key that is not admitted, an address without UNLOCK. Key 0 is admitted everywhere; the session key while a
session is active for WRITE of SEATS and FLOOR, for flag operations on the writable fields of SEATS (log 47), and for the
actions of the floor and the session. READ and UNLOCK need no key. (A READ or READ_CLEAR that is turned away counts 0
entries in the reply: log 11.) -/
def Obligations.AnOperationTurnedAwayChangesNothing : Prop :=
  (∀ (s : State) (i : Instr) (op : Op) (h : Hand) (st : Status), i.op = some op → s.atOp op = true →
    s.mgmt.hand = some h → s.check h.key op = some st → ∃ t, exec i s = .next t ∧ s.fails t st) ∧
  (∀ (s : State) (key : Key) (obj : Byte) (index : BitVec 16) (fld : Byte) (vals : List Byte),
    (obj = 0 ∨ 0x13 < obj.toNat → s.check key (.write obj index fld vals) = some .badObject) ∧
    (obj ∈ [0x01, 0x0C, 0x0E, 0x0F, 0x10, 0x12, 0x13] → s.check key (.write obj index fld vals) = some .badObject) ∧
    (obj ∈ [0x05, 0x06, 0x07, 0x08, 0x09, 0x0B, 0x11] →
      s.check key (.write obj index fld vals) = if key = 0 then none else some .protectedKey) ∧
    (obj ∈ [0x02, 0x03, 0x04] → s.check key (.write obj index fld vals) =
      if key ≠ 0 then some .protectedKey else if s.mgmt.unlocked then none else some .locked) ∧
    (obj = 0x0A ∨ obj = 0x0D → s.check key (.write obj index fld vals) =
      if key = 0 ∨ (s.cal.session.isActive = true ∧ s.activeBooking.map (·.key) = some key) then none
      else some .protectedKey)) ∧
  (∀ (s : State) (key : Key) (obj : Byte) (first count : BitVec 16),
    s.check key (.read obj first count) = if obj = 0 ∨ 0x13 < obj.toNat then some .badObject else none) ∧
  (∀ (s : State) (key : Key) (obj part : Byte),
    s.check key (.readClear obj part) =
      if obj ≠ 0x11 then some .badObject else if key = 0 then none else some .protectedKey) ∧
  (∀ (s : State) (key : Key) (k : FlagOp) (obj : Byte) (index : BitVec 16) (fld : Byte) (mask : BitVec 16),
    (obj = 0 ∨ 0x13 < obj.toNat → s.check key (.flags k obj index fld mask) = some .badObject) ∧
    (obj ∈ [0x01, 0x0C, 0x0E, 0x0F, 0x10, 0x12, 0x13] → s.check key (.flags k obj index fld mask) = some .badObject) ∧
    (obj ∈ [0x05, 0x06, 0x07, 0x08, 0x09, 0x0B, 0x0D, 0x11] →
      s.check key (.flags k obj index fld mask) = if key = 0 then none else some .protectedKey) ∧
    (obj ∈ [0x02, 0x03, 0x04] → s.check key (.flags k obj index fld mask) =
      if key ≠ 0 then some .protectedKey else if s.mgmt.unlocked then none else some .locked) ∧
    (obj = 0x0A → s.check key (.flags k obj index fld mask) =
      if key = 0 ∨ (((index.toNat < 64 ∧ fld.toNat ≤ 2) ∨ (index = 64 ∧ fld = 0)) ∧ s.cal.session.isActive = true ∧
        s.activeBooking.map (·.key) = some key) then none else some .protectedKey)) ∧
  (∀ (s : State) (key : Key) (code : Byte) (args : List Byte),
    (code = 0 ∨ 0x11 < code.toNat → s.check key (.action code args) = some .badValue) ∧
    (code ∈ [0x01, 0x02, 0x03, 0x04, 0x05, 0x06, 0x08, 0x09, 0x0A] → s.check key (.action code args) =
      if key = 0 ∨ (s.cal.session.isActive = true ∧ s.activeBooking.map (·.key) = some key) then none
      else some .protectedKey) ∧
    (code ∈ [0x07, 0x0B, 0x0C, 0x0D, 0x0E, 0x0F, 0x10, 0x11] →
      s.check key (.action code args) = if key = 0 then none else some .protectedKey)) ∧
  (∀ (s : State) (key : Key) (value : Byte), s.check key (.unlock value) = none)

/-- READ answers whole entries in index order, as many as the reply has room for, brings a count past the last entry down
with CLAMPED, and fails BAD_INDEX past the end (BOOKINGS holds as many entries as records, none in an empty table: log 12);
READ_CLEAR answers a part of COUNTERS and sets it to 0, where the reply has room for it. Neither changes anything else. (A
SILENT request keeps the same account of the room: log 54; one that fails counts 0 entries in the reply: log 11.) -/
def Obligations.ReadAnswersEntriesAndReadClearClears : Prop :=
  (∀ (s : State) (obj : Byte) (o : Object) (first count : BitVec 16), s.reaches (.read obj first count) = true →
    Object.ofCode obj.toNat = some o →
    let kept := min count.toNat (s.entryCount o - first.toNat)
    let entries := (List.range kept).map fun i => s.entry o (first.toNat + i)
    ∃ t, exec (.read obj first count) s = .next t ∧ s.keeps t opPieces ∧
      (s.entryCount o ≤ first.toNat → s.fails t .badIndex) ∧
      (first.toNat < s.entryCount o → entries.flatten.length ≤ s.replyRoom →
        s.answers t (if kept < count.toNat then .clamped else .ok) [⟨kept, entries.flatten⟩]) ∧
      (∀ k : Fin 512, first.toNat < s.entryCount o → k.val < kept →
        (entries.take k.val).flatten.length ≤ s.replyRoom → s.replyRoom < (entries.take (k.val + 1)).flatten.length →
        s.answers t .clamped [⟨k.val, (entries.take k.val).flatten⟩])) ∧
  (∀ (s : State) (part : Byte), s.reaches (.readClear 0x11 part) = true →
    ∃ t, exec (.readClear 0x11 part) s = .next t ∧
      (3 < part.toNat → s.fails t .badIndex) ∧
      (part.toNat ≤ 3 → s.replyRoom < (s.counterPart part.toNat).length → s.keeps t opPieces ∧
        s.answers t .clamped [⟨0, []⟩]) ∧
      (part.toNat ≤ 3 → (s.counterPart part.toNat).length ≤ s.replyRoom →
        s.answers t .ok [⟨1, s.counterPart part.toNat⟩] ∧ s.keeps t ([.mixCycle, .level, .linkCounters] ++ opPieces) ∧
        (part = 0 → t.link.counters = LinkCounters.zero ∧ t.level = s.level ∧ t.mix.outClips = s.mix.outClips) ∧
        (part = 1 → (∀ i : Fin 64, t.mix.outClips[i] = 0) ∧ t.mix.sendClips = 0 ∧ t.level = s.level ∧
          t.link.counters = s.link.counters) ∧
        (part = 2 → (∀ p : Pos, t.level[p] = { s.level[p] with clips := 0 }) ∧ t.mix.outClips = s.mix.outClips ∧
          t.link.counters = s.link.counters) ∧
        (part = 3 → t.mgmt.dropped = 0 ∧ t.mgmt.malformed = 0 ∧ t.level = s.level ∧
          t.link.counters = s.link.counters)))

/-- UNLOCK with the value 0x5C sets the unlock mark for the rest of its request; any other value fails LOCKED; the end of
the request clears the mark. RESTART ends its request with a reply of status OK and takes effect after the reply has been
offered: the reply stands behind every frame of the queue, or waits in REPLY_WAIT where the queue is full, or waits out the
stagger of a group request; a SILENT one sends no reply and is due at once; staged values of its request are committed under
auto_commit (06 R128) (log 5; the screens that the operation renders go ahead of the reply: log 17). -/
def Obligations.UnlockEndsWithItsRequestAndRestartWaits : Prop :=
  (∀ (s : State) (value : Byte), s.reaches (.unlock value) = true →
    ∃ t, exec (.unlock value) s = .next t ∧ s.keeps t opPieces ∧
      (value ≠ 0x5C → s.fails t .locked ∧ t.mgmt.unlocked = false) ∧
      (value = 0x5C → s.answered t .ok ∧
        (∀ h x y rest, s.mgmt.hand = some h → h.ops = x :: y :: rest → t.mgmt.unlocked = true) ∧
        (∀ h x, s.mgmt.hand = some h → h.ops = [x] → t.mgmt.unlocked = false))) ∧
  (∀ (s : State) (h : Hand) (r : Request) (rest : List Request), s.reaches .restart = true → s.mgmt.hand = some h →
    s.mgmt.requests = r :: rest →
    let f : Frame := ⟨r.source, s.link.station, .reply,
      replyPayload h.tag .ok (h.statuses.length + 1) 0 (h.statuses ++ [.ok]) h.returned⟩
    ∃ t, exec .restart s = .next t ∧ s.keeps t opPieces ∧ t.mgmt.unlocked = false ∧
      (s.cfg.autoCommit = true → h.staged = true → s.commitsTo t) ∧
      (s.cfg.autoCommit = false ∨ h.staged = false → s.agrees t .tables) ∧
      ∃ shown : List Frame, (∀ g ∈ shown, g.kind = .screen) ∧
        (h.silent = true → t.mgmt.restart = .due true ∧ t.mgmt.requests = s.mgmt.requests ∧
          t.link.queue = s.link.queue ++ shown) ∧
        (h.silent = false → (r.group = false ∨ staggerCycles s.link.station = 0) → t.mgmt.restart = .due false ∧
          (s.link.queue.length + shown.length < 8 →
            t.link.queue = s.link.queue ++ shown ++ [f] ∧ t.mgmt.requests = rest) ∧
          (8 ≤ s.link.queue.length + shown.length → t.link.queue = s.link.queue ++ shown ∧
            t.mgmt.engine = .replyWait ∧ t.mgmt.reply = some f ∧ t.mgmt.requests = s.mgmt.requests)) ∧
        (h.silent = false → r.group = true → 0 < staggerCycles s.link.station →
          t.mgmt.restart = .scheduled ∧ t.mgmt.engine = .stagger ∧ t.mgmt.stagger = staggerCycles s.link.station ∧
          t.mgmt.reply = some f ∧ t.mgmt.requests = s.mgmt.requests ∧ t.link.queue = s.link.queue ++ shown))

/-- The warm restart that is due: the floor, the microphones, the level and display state, the audio return and the counters
start afresh, the clip counters of the feeds and of the room send too, an active session ends, in any session state the seat
table does its end-of-session work, both wings begin a pass; the settings, the waiting bookings, the tables, the clock and
the requests that wait are kept. With the clock set the calendar then evaluates, which can start a session. With no restart
due nothing changes, also while an accepted RESTART waits for its reply to be offered after the stagger (10 R188). -/
def Obligations.AWarmRestartKeepsSettingsAndRequests : Prop :=
  (∀ (s : State) (silent : Bool), s.powered = true → s.mgmt.restart = .due silent → s.TableOk →
    let ended : SeatTable :=
      { recs := mapAll s.seats.recs fun _ r =>
          { r with participant := none, classOverride := none, limitOverride := none, seatMute := false }
        chair := 0, sessionMute := false, wingAMute := false, wingBMute := false }
    let v : State := { s with
      cal := { s.cal with bookings := s.cal.bookings.filter (fun b => !b.active),
                          session := if s.cal.session.isActive then .vacant else s.cal.session }
      seats := ended
      floor := { s.floor with openList := [], queue := [] } }
    ∃ t, exec .restartTakesEffect s = .next t ∧
      t.passStarts .a ∧ t.passStarts .b ∧ t.pos = s.pos ∧
      t.floor.openList = [] ∧ t.floor.queue = [] ∧
      (∀ seat : Seat, (t.micOf seat).state = .closed ∧ (t.micOf seat).flash = 0 ∧ (t.micOf seat).queued = false ∧
        t.floor.blocked[seat] = false ∧ t.disp.messages[seat] = none) ∧
      (∀ p : Pos, t.level[p].envelope = 0 ∧ t.level[p].meter = 0 ∧ t.level[p].clips = 0 ∧
        t.disp.delivery[p].known = none ∧ t.disp.delivery[p].transfer = none) ∧
      t.cal.stepPending = false ∧
      (s.clock.sync = .unsynced → t.cal.session = v.cal.session ∧ t.cal.bookings = v.cal.bookings ∧ t.seats = ended ∧
        t.floor.mode = s.floor.mode ∧ t.floor.maxOpen = s.floor.maxOpen) ∧
      (s.clock.sync ≠ .unsynced → v.EvaluatedIdle t) ∧
      t.link.learnt = false ∧ t.link.buffer = [] ∧ (s.clock.sync = .unsynced → t.link.counters = LinkCounters.zero) ∧
      t.mgmt.unlocked = false ∧ t.mgmt.dropped = 0 ∧ t.mgmt.malformed = 0 ∧ t.mgmt.restart = .none ∧
      t.mgmt.requests = (if silent then s.mgmt.requests.tail else s.mgmt.requests) ∧ t.store.halted = false ∧
      t.mix.live = s.mix.live ∧ t.mix.staged = s.mix.staged ∧
      (∀ seat : Seat, t.mix.outClips[seat] = 0) ∧ t.mix.sendClips = 0 ∧
      s.keeps t [.wings, .level, .seats, .cal, .floor, .mic, .mixCycle, .messages, .delivery, .screens, .audioReturn,
        .sending, .linkCounters, .mgmt, .store]) ∧
  (∀ s : State, s.powered = true → (s.mgmt.restart = .none ∨ s.mgmt.restart = .scheduled) →
    ∃ t, exec .restartTakesEffect s = .next t ∧ s.keeps t screenPieces)

/-- SET_FLAGS, CLEAR_FLAGS and TOGGLE_FLAGS on the CONFIG switches, on the mutes of a seat and of the whole table, and on
the flags of a booking store the bits that result; a mask with a bit outside the set fails BAD_VALUE, and an empty one
changes nothing. A booking's flags change as the record does: the ACTIVE record takes none, and an evaluation follows; of
the ACTIVE record a mask outside the set answers BAD_VALUE and an empty one OK, before ACTIVE (log 33: the model's reading).
-/
def Obligations.FlagOperationsStoreTheResultingBits : Prop :=
  (∀ (s : State) (i : Instr) (mask : BitVec 16) (result : Nat), s.reaches i = true →
    (i = .setFlags 0x05 0 1 mask ∧ result = s.cfg.switches ||| mask.toNat ∨
      i = .clearFlags 0x05 0 1 mask ∧ result = s.cfg.switches &&& (31 ^^^ mask.toNat) ∨
      i = .toggleFlags 0x05 0 1 mask ∧ result = s.cfg.switches ^^^ mask.toNat) →
    ∃ t, exec i s = .next t ∧
      (31 < mask.toNat → s.fails t .badValue) ∧
      (mask.toNat ≤ 31 → s.answered t .ok ∧ t.cfg.switches = result ∧ result < 32 ∧
        t.cfg.lead = s.cfg.lead ∧ t.cfg.openGap = s.cfg.openGap ∧ t.cfg.closeGap = s.cfg.closeGap ∧
        (s.floor.mode ≠ .queue → s.keeps t (.cfg :: opPieces)))) ∧
  (∀ (s : State) (i : Instr) (seat : Seat) (mask : BitVec 16) (result : Bool), s.reaches i = true →
    (i = .setFlags 0x0A (BitVec.ofNat 16 seat.val) 0 mask ∧ result = true ∨
      i = .clearFlags 0x0A (BitVec.ofNat 16 seat.val) 0 mask ∧ result = false ∨
      i = .toggleFlags 0x0A (BitVec.ofNat 16 seat.val) 0 mask ∧ result = !(s.seatRec seat).seatMute) →
    ∃ t, exec i s = .next t ∧ s.keeps t (.seats :: opPieces) ∧
      (mask = 0 → s.answered t .ok ∧ t.seats = s.seats) ∧ (1 < mask.toNat → s.fails t .badValue) ∧
      (mask = 1 → s.answered t .ok ∧ t.seatRec seat = { s.seatRec seat with seatMute := result, changed := true } ∧
        ∀ p, p ≠ s.phys seat → t.seats.recs[p] = s.seats.recs[p])) ∧
  (∀ (s : State) (i : Instr) (mask : BitVec 16) (result : Bool → Bool → Bool), s.reaches i = true →
    (i = .setFlags 0x0A 64 0 mask ∧ result = (fun held named => held || named) ∨
      i = .clearFlags 0x0A 64 0 mask ∧ result = (fun held named => held && !named) ∨
      i = .toggleFlags 0x0A 64 0 mask ∧ result = (fun held named => held ^^ named)) →
    ∃ t, exec i s = .next t ∧ s.keeps t (.seats :: opPieces) ∧
      (7 < mask.toNat → s.fails t .badValue) ∧
      (mask.toNat ≤ 7 → s.answered t .ok ∧ t.seats = { s.seats with
        sessionMute := result s.seats.sessionMute (mask.getLsbD 0), wingAMute := result s.seats.wingAMute (mask.getLsbD 1),
        wingBMute := result s.seats.wingBMute (mask.getLsbD 2) })) ∧
  (∀ (s : State) (i : Instr) (r : Booking) (before after : List Booking) (mask : BitVec 16) (result : Bool → Bool → Bool),
    s.reaches i = true → s.TableOk → s.cal.bookings = before ++ r :: after → r.number ≠ 0 →
    (i = .setFlags 0x06 (BitVec.ofNat 16 r.number) 0x10 mask ∧ result = (fun held named => held || named) ∨
      i = .clearFlags 0x06 (BitVec.ofNat 16 r.number) 0x10 mask ∧ result = (fun held named => held && !named) ∨
      i = .toggleFlags 0x06 (BitVec.ofNat 16 r.number) 0x10 mask ∧ result = (fun held named => held ^^ named)) →
    let q : Booking := { r with guestAdmit := result r.guestAdmit (mask.getLsbD 0),
                                roomSend := result r.roomSend (mask.getLsbD 1) }
    ∃ t, exec i s = .next t ∧ s.keeps t (sessionPieces ++ opPieces) ∧
      (3 < mask.toNat → s.fails t .badValue) ∧
      (mask = 0 → s.answered t .ok ∧ s.keeps t opPieces) ∧
      (1 ≤ mask.toNat → mask.toNat ≤ 3 →
        (r.active = true → s.fails t .active) ∧
        (r.active = false → r.start + r.duration ≤ s.clock.now.minute → s.fails t .past) ∧
        (r.active = false → s.clock.now.minute < r.start + r.duration → s.answered t .ok ∧
          ({ s with cal := { s.cal with bookings := before ++ q :: after } }).Settles t)))

/-! ## Writes -/

/-- A template takes the printable text cut to its length, by its own row or by WRITE. A roster slot takes a whole entry or is
emptied by the empty form, whose one byte is ignored (log 13); an entry whose position another slot of the roster holds fails
DUPLICATE. -/
def Obligations.TemplatesAndRostersTakeTheirValues : Prop :=
  (∀ (s : State) (n : Fin 20) (txt : Text) (i : Instr), txt.length ≤ 250 → s.reaches i = true →
    (i = .templateWrite (BitVec.ofNat 16 n.val) 0 (textBytes txt) ∨
      i = .write 0x08 (BitVec.ofNat 16 n.val) 0 (textBytes txt)) →
    let width := if n.val < 16 then 64 else 160
    ∃ t, exec i s = .next t ∧ s.keeps t (.templates :: opPieces) ∧
      s.answered t (if width < txt.length then .clamped else .ok) ∧
      t.disp.templates = s.disp.templates.set n
        ((txt.map fun c => if 0x20 ≤ c.toNat ∧ c.toNat ≤ 0x7E then c else 0x3F).take width)) ∧
  (∀ (s : State) (r : Fin 8) (slot : Fin 64) (e : RosterEntry), e.name.length ≤ 24 → takeIn e.name = e.name →
    (∀ l, e.limit = some l → l ≤ 3600) →
    let c : Instr := .rosterWrite (BitVec.ofNat 16 (64 * r.val + slot.val)) 0xFF
      (be8 e.position.val ++ textBytes e.name ++ be8 e.key.val ++ be8 e.role.code ++ be16 (e.limit.getD 0xFFFF))
    s.reaches c = true →
    ∃ t, exec c s = .next t ∧
      ((∃ other, other ≠ slot ∧ ((s.cal.rosters[r])[other]).map (·.position) = some e.position) → s.fails t .duplicate) ∧
      ((∀ other, other ≠ slot → ((s.cal.rosters[r])[other]).map (·.position) ≠ some e.position) →
        s.keeps t (.cal :: opPieces) ∧ s.answered t .ok ∧
        t.cal = { s.cal with rosters := s.cal.rosters.set r ((s.cal.rosters[r]).set slot (some e)) })) ∧
  (∀ (s : State) (r : Fin 8) (slot : Fin 64) (b : Byte),
    s.reaches (.rosterWrite (BitVec.ofNat 16 (64 * r.val + slot.val)) 0xFE [b]) = true →
    ∃ t, exec (.rosterWrite (BitVec.ofNat 16 (64 * r.val + slot.val)) 0xFE [b]) s = .next t ∧
      s.keeps t (.cal :: opPieces) ∧ s.answered t .ok ∧
      t.cal = { s.cal with rosters := s.cal.rosters.set r ((s.cal.rosters[r]).set slot none) })

/-- A room screen entry takes its address and its room template and starts afresh: no last sent text, no frame waiting
of the old entry; an entry that is on is sent at once where there is room. -/
def Obligations.ARoomScreenEntryStartsAfresh : Prop :=
  ∀ (s : State) (e : Fin 4) (addr : Addr) (n : Byte),
    let c : Instr := .roomScreenWrite (BitVec.ofNat 16 e.val) 0xFF (addrBytes addr ++ [n])
    s.reaches c = true →
    ∃ t, exec c s = .next t ∧ s.keeps t opPieces ∧
      (n.toNat < 16 ∨ 20 ≤ n.toNat → s.fails t .badValue) ∧
      (∀ k : Fin 4, n.toNat = 16 + k.val → s.answered t .ok ∧
        (addr = 0 → t.disp.screens[e] = ⟨none, k, none, false, 0, false⟩) ∧
        (addr ≠ 0 → t.disp.screens[e].addr = some addr ∧ t.disp.screens[e].template = k ∧
          (s.link.queue.length < 4 → t.disp.screens[e].lastSent = some (s.screenText k) ∧
            t.disp.screens[e].window = 200 ∧ ∃ f ∈ t.link.queue, f.dest = addr ∧ f.kind = .screen)) ∧
        (∀ i : Fin 4, i ≠ e → t.disp.screens[i].addr = s.disp.screens[i].addr ∧
          t.disp.screens[i].template = s.disp.screens[i].template))

/-- The addresses of the link: the station takes an individual address, a group slot a group address other than broadcast or
none, a destination any address or none. Where the store-invalid mark waits at a link that is UP, a write that leaves a
notice destination lets the STORE_INVALID notice go to it, once: it stands next in the queue, or is dropped and counted
where the queue is full, and the mark is cleared (11 R194; screens come after it: log 17). -/
def Obligations.AddressWrites : Prop :=
  (∀ (s : State) (addr : Addr), s.reaches (.stationWrite 0 0 (addrBytes addr)) = true →
    ∃ t, exec (.stationWrite 0 0 (addrBytes addr)) s = .next t ∧
      (isGroup addr = true ∨ addr = 0 → s.fails t .badValue) ∧
      (isGroup addr = false → addr ≠ 0 → s.keeps t (.addresses :: opPieces) ∧ s.answered t .ok ∧
        t.link.station = addr ∧ t.link.groups = s.link.groups ∧ t.link.noticeDest = s.link.noticeDest ∧
        t.link.audioDest = s.link.audioDest)) ∧
  (∀ (s : State) (g : Fin 4) (addr : Addr), s.reaches (.groupsWrite (BitVec.ofNat 16 g.val) 0 (addrBytes addr)) = true →
    ∃ t, exec (.groupsWrite (BitVec.ofNat 16 g.val) 0 (addrBytes addr)) s = .next t ∧
      (addr ≠ 0 → (isGroup addr = false ∨ addr = broadcast) → s.fails t .badValue) ∧
      (addr = 0 ∨ (isGroup addr = true ∧ addr ≠ broadcast) → s.keeps t (.addresses :: opPieces) ∧ s.answered t .ok ∧
        t.link.groups = s.link.groups.set g (if addr = 0 then none else some addr) ∧ t.link.station = s.link.station ∧
        t.link.noticeDest = s.link.noticeDest ∧ t.link.audioDest = s.link.audioDest)) ∧
  (∀ (s : State) (index : Bool) (addr : Addr),
    s.reaches (.destinationsWrite (if index then 1 else 0) 0 (addrBytes addr)) = true →
    let dest := if index then s.link.noticeDest else if addr = 0 then none else some addr
    ∃ t, exec (.destinationsWrite (if index then 1 else 0) 0 (addrBytes addr)) s = .next t ∧
      s.keeps t ([.addresses, .store, .linkCounters] ++ opPieces) ∧ s.answered t .ok ∧ t.link.station = s.link.station ∧
      t.link.groups = s.link.groups ∧ t.link.noticeDest = dest ∧
      t.link.audioDest = (if index then (if addr = 0 then none else some addr) else s.link.audioDest) ∧
      (s.store.storeInvalid = false ∨ s.link.up = false ∨ dest = none → s.keeps t (.addresses :: opPieces)) ∧
      (∀ d, s.store.storeInvalid = true → s.link.up = true → dest = some d →
        t.store = { s.store with storeInvalid := false } ∧
        (s.link.queue.length < 8 → t.link.counters = s.link.counters ∧
          s.link.queue ++ [⟨d, s.link.station, .notice, be8 0x09⟩] <+: t.link.queue) ∧
        (8 ≤ s.link.queue.length → t.link.queue = s.link.queue ∧ t.link.counters =
          { s.link.counters with noticesDropped := min 65535 (s.link.counters.noticesDropped + 1) })))

/-- Gains, duck factors and neighbour lists are staged within their limits, and the live tables do not change; a staged gain
marks the seat changed, and a neighbour list that names its own position or one twice fails BAD_VALUE. The commit-pending
mark is yes, and the request has stored a staged value; where that operation is the last of its request, auto_commit at yes
commits the staged tables at its end, and at no the mark stays and nothing is committed. -/
def Obligations.MixValuesAreStaged : Prop :=
  (∀ (s : State) (fld : Byte) (seat : Seat) (n : BitVec 16), fld.toNat ≤ 5 → (2 ≤ fld.toNat → seat = 0) →
    let c : Instr := .mixStagedWrite (BitVec.ofNat 16 seat.val) fld (be16 n.toNat)
    let limit := if fld = 2 ∨ fld = 3 then 4096 else 8191
    let v := min limit n.toNat
    s.reaches c = true →
    ∃ t, exec c s = .next t ∧ s.keeps t ([.staged, .seats] ++ opPieces) ∧
      s.answered t (if limit < n.toNat then .clamped else .ok) ∧
      (s.store.halted = false → t.mix.live = s.mix.live) ∧
      s.stages t ∧
      (fld = 0 → t.mix.staged = { s.mix.staged with gin := s.mix.staged.gin.set seat v }) ∧
      (fld = 1 → t.mix.staged = { s.mix.staged with gout := s.mix.staged.gout.set seat v }) ∧
      (fld = 2 → t.mix.staged = { s.mix.staged with duckOwn := v }) ∧
      (fld = 3 → t.mix.staged = { s.mix.staged with duckNear := v }) ∧
      (fld = 4 → t.mix.staged = { s.mix.staged with returnGain := v }) ∧
      (fld = 5 → t.mix.staged = { s.mix.staged with sendGain := v }) ∧
      (2 ≤ fld.toNat → t.seats = s.seats) ∧
      (fld.toNat ≤ 1 → t.seatRec seat = { s.seatRec seat with changed := true } ∧
        ∀ p, p ≠ s.phys seat → t.seats.recs[p] = s.seats.recs[p])) ∧
  (∀ (s : State) (p : Pos) (l : Vector (Option Pos) 4),
    let slot := fun k : Fin 4 => BitVec.ofNat 8 ((l[k].map (·.val)).getD 0xFF)
    let c : Instr := .mixStagedWrite (BitVec.ofNat 16 p.val) 6 [slot 0, slot 1, slot 2, slot 3]
    s.reaches c = true →
    ∃ t, exec c s = .next t ∧
      ((∃ k : Fin 4, l[k] = some p) ∨ (∃ j k : Fin 4, j ≠ k ∧ l[j] = l[k] ∧ l[j] ≠ none) → s.fails t .badValue) ∧
      ((∀ k : Fin 4, l[k] ≠ some p) → (∀ j k : Fin 4, j ≠ k → l[j] = l[k] → l[j] = none) →
        s.keeps t (.staged :: opPieces) ∧ s.answered t .ok ∧
        s.stages t ∧ t.mix.staged = { s.mix.staged with neighbours := s.mix.staged.neighbours.set p l }))

/-- A mode write clears every voice-blocked mark, and the queue when QUEUE mode turns to OPEN or any mode to VOICE; a write
of the mode held changes nothing, and a code that names none fails BAD_VALUE. max_open is brought into 1 to 6; where more
non-chair seats hold the floor the oldest are removed until it is met, in GRACE too. Both are taken in every session state
and while halted. (What an auto-advance check grants after them: QueueModeQueuesWithdrawsAndAdvances.) -/
def Obligations.ModeAndMaxOpenWrites : Prop :=
  (∀ (s : State) (b : Byte), s.reaches (.floorModeWrite 0 [b]) = true →
    ∃ t, exec (.floorModeWrite 0 [b]) s = .next t ∧ s.keeps t (floorPieces ++ opPieces) ∧
      (2 < b.toNat → s.fails t .badValue) ∧
      (b.toNat = s.floor.mode.code → s.answered t .ok ∧ t.floor = s.floor ∧ t.mic = s.mic) ∧
      (∀ m : Mode, b.toNat = m.code → m ≠ s.floor.mode →
        (m ≠ .queue ∨ s.cfg.autoAdvance = false ∨ s.floor.queue = [] ∨ s.cal.session ≠ .inSession ∨
          s.store.halted = true) → s.answered t .ok ∧ t.seats = s.seats ∧
        t.floor.mode = m ∧ t.floor.maxOpen = s.floor.maxOpen ∧ t.floor.openList = s.floor.openList ∧
        (∀ i : Seat, t.floor.blocked[i] = false) ∧ t.floor.seen = s.floor.seen ∧
        t.floor.queue = (if (s.floor.mode = .queue ∧ m = .openFloor) ∨ m = .voice then [] else s.floor.queue))) ∧
  (∀ (s : State) (b : Byte), s.reaches (.maxOpenWrite 0 [b]) = true →
    (s.noAdvance ∨ s.cal.session ≠ .inSession ∨ s.store.halted = true) → s.cal.session ≠ .grace →
    let n := max 1 (min 6 b.toNat)
    ∃ t, exec (.maxOpenWrite 0 [b]) s = .next t ∧ s.keeps t (floorPieces ++ opPieces) ∧
      s.answered t (if n = b.toNat then .ok else .clamped) ∧ t.floor.maxOpen = n ∧ t.floor.mode = s.floor.mode ∧
      t.floor.queue = s.floor.queue ∧
      (s.nonChair ≤ n → t.floor = { s.floor with maxOpen := n } ∧ t.mic = s.mic ∧ t.seats = s.seats) ∧
      (s.FloorOk → n ≤ s.nonChair → t.floor.openList.Sublist s.floor.openList ∧
        (t.floor.openList.filter fun e => s.classOf e.seat ≠ .chair) =
          (s.floor.openList.filter fun e => s.classOf e.seat ≠ .chair).drop (s.nonChair - n) ∧
        (t.floor.openList.filter fun e => s.classOf e.seat = .chair) =
          s.floor.openList.filter fun e => s.classOf e.seat = .chair)) ∧
  (∀ (s : State) (b : Byte), s.reaches (.maxOpenWrite 0 [b]) = true → s.cal.session = .grace → s.FloorOk →
    let n := max 1 (min 6 b.toNat)
    ∃ t, exec (.maxOpenWrite 0 [b]) s = .next t ∧ s.keeps t (floorPieces ++ opPieces) ∧ t.floor.maxOpen = n ∧
      t.floor.queue = s.floor.queue ∧
      (n ≤ s.nonChair → (t.floor.openList.filter fun e => s.classOf e.seat ≠ .chair) =
        (s.floor.openList.filter fun e => s.classOf e.seat ≠ .chair).drop (s.nonChair - n)))

/-- The mutes of a seat and of the whole table are stored in any session state and touch no microphone. The class and limit
overrides fail NO_SESSION outside a session and are otherwise stored in the record of the seat; a seat made OBSERVER that held
the floor by permission loses it, its turn captured where it was OPEN, and a limit override of an OPEN microphone moves its
marks at once. A mute byte outside its flag set fails BAD_VALUE (log 15). -/
def Obligations.MutesAndOverrides : Prop :=
  (∀ (s : State) (seat : Seat) (b : Byte), s.reaches (.muteWrite (BitVec.ofNat 16 seat.val) [b]) = true →
    ∃ t, exec (.muteWrite (BitVec.ofNat 16 seat.val) [b]) s = .next t ∧ s.keeps t (.seats :: opPieces) ∧
      (1 < b.toNat → s.fails t .badValue) ∧
      (b.toNat ≤ 1 → s.answered t .ok ∧
        t.seatRec seat = { s.seatRec seat with seatMute := decide (b = 1), changed := true } ∧
        (∀ p, p ≠ s.phys seat → t.seats.recs[p] = s.seats.recs[p]) ∧ t.seats.sessionMute = s.seats.sessionMute ∧
        t.seats.wingAMute = s.seats.wingAMute ∧ t.seats.wingBMute = s.seats.wingBMute)) ∧
  (∀ (s : State) (b : Byte), s.reaches (.muteWrite 64 [b]) = true →
    ∃ t, exec (.muteWrite 64 [b]) s = .next t ∧ s.keeps t (.seats :: opPieces) ∧
      (7 < b.toNat → s.fails t .badValue) ∧
      (b.toNat ≤ 7 → s.answered t .ok ∧ t.seats = { s.seats with
        sessionMute := b.getLsbD 0, wingAMute := b.getLsbD 1, wingBMute := b.getLsbD 2 })) ∧
  (∀ (s : State) (seat : Seat) (b : Byte) (c : Option SeatClass),
    (b = 0xFF ∧ c = none ∨ ∃ k : SeatClass, b.toNat = k.code ∧ c = some k) →
    s.reaches (.classOverrideWrite (BitVec.ofNat 16 seat.val) [b]) = true →
    ∃ t, exec (.classOverrideWrite (BitVec.ofNat 16 seat.val) [b]) s = .next t ∧
      (s.cal.session.isActive = false → s.fails t .noSession) ∧
      (s.cal.session.isActive = true → s.answered t .ok ∧
        (s.holds seat = false → s.queued seat = false → (s.micOf seat).state ≠ .opened →
          s.keeps t (.seats :: opPieces) ∧ t.seatRec seat = { s.seatRec seat with classOverride := c, changed := true } ∧
          ∀ p, p ≠ s.phys seat → t.seats.recs[p] = s.seats.recs[p]) ∧
        (c = some .observer → s.cal.session = .inSession → s.holds seat = true → s.permitted seat = true →
          s.present (s.phys seat) = true → s.noAdvance → (s.micOf seat).state ≠ .opened →
          t.classOf seat = .observer ∧ t.holds seat = false ∧
          t.floor.openList = s.floor.openList.filter (fun e => e.seat ≠ seat) ∧ t.floor.queue = s.floor.queue) ∧
        (c = some .observer → s.cal.session = .inSession → s.holds seat = true → s.permitted seat = true →
          s.present (s.phys seat) = true → s.noAdvance → (s.micOf seat).state = .opened →
          s.keeps t (floorPieces ++ opPieces) ∧ t.classOf seat = .observer ∧ t.holds seat = false ∧
          t.floor.openList = s.floor.openList.filter (fun e => e.seat ≠ seat) ∧ t.floor.queue = s.floor.queue ∧
          (t.micOf seat).state = .closing ∧ (t.micOf seat).gap = s.cfg.closeGap ∧ (t.micOf seat).timer = 0 ∧
          (∀ i, i ≠ seat → t.micOf i = s.micOf i) ∧
          t.seatRec seat = { s.seatRec seat with
            classOverride := c, changed := true, lastTurn := (s.micOf seat).timer,
            total := min 65535 ((s.seatRec seat).total + (s.micOf seat).timer),
            turnCount := min 65535 ((s.seatRec seat).turnCount + 1) } ∧
          ∀ p, p ≠ s.phys seat → t.seats.recs[p] = s.seats.recs[p]))) ∧
  (∀ (s : State) (seat : Seat) (n : BitVec 16),
    s.reaches (.limitOverrideWrite (BitVec.ofNat 16 seat.val) (be16 n.toNat)) = true →
    ∃ t, exec (.limitOverrideWrite (BitVec.ofNat 16 seat.val) (be16 n.toNat)) s = .next t ∧
      (s.cal.session.isActive = false → s.fails t .noSession) ∧
      (s.cal.session.isActive = true → (s.micOf seat).state ≠ .opened →
        s.keeps t (.seats :: opPieces) ∧ s.answered t (if n ≠ 0xFFFF ∧ 3600 < n.toNat then .clamped else .ok) ∧
        t.seatRec seat = { s.seatRec seat with
          limitOverride := if n = 0xFFFF then none else some (min 3600 n.toNat), changed := true } ∧
        ∀ p, p ≠ s.phys seat → t.seats.recs[p] = s.seats.recs[p]) ∧
      (s.cal.session.isActive = true → (s.micOf seat).state = .opened → s.mic.limitAction = .warn →
        s.classOf seat ≠ .chair →
        s.keeps t ([.seats, .mic, .linkCounters] ++ opPieces) ∧ (∀ i, i ≠ seat → t.micOf i = s.micOf i) ∧
        (1 ≤ n.toNat → n.toNat ≤ 3600 → t.micOf seat = { s.micOf seat with
          warning := decide ((n.toNat - s.cfg.warnTime) * 10 ≤ (s.micOf seat).timer),
          overMark := decide (n.toNat * 10 ≤ (s.micOf seat).timer) }) ∧
        (n = 0 → t.micOf seat = { s.micOf seat with warning := false, overMark := false })))

/-- The switches, gaps, warn time, detector settings and pages are stored within their ranges; close_thr never stands above
open_thr after a detector write. The lead is held at most 15 and a write of it causes an evaluation: with the clock set and
no session, a booking within the lead arms the table, and one that is not leaves it VACANT. A switch byte outside its flag
set fails BAD_VALUE (log 15). A write of warn_time evaluates the limit of every OPEN seat (05 R106, R111), the lowest seat
first (log 14): the marks follow the new warn point, a new warning offers its LIMIT_WARN notice, before the removal of the
same evaluation (log 50), and under AUTO every seat whose limit is reached loses the floor, which in GRACE can begin
CLOSING. -/
def Obligations.SettingsAreStoredAndTheLeadArms : Prop :=
  (∀ (s : State) (n : BitVec 16), s.reaches (.leadWrite 0 (be16 n.toNat)) = true →
    ∃ t, exec (.leadWrite 0 (be16 n.toNat)) s = .next t ∧
      s.answered t (if 15 < n.toNat then .clamped else .ok) ∧ t.cfg = { s.cfg with lead := min 15 n.toNat } ∧
      s.keeps t (.cfg :: (sessionPieces ++ opPieces)) ∧ ({ s with cfg := t.cfg }).Settles t ∧
      (s.clock.sync = .unsynced → (s.cal.session = .vacant ∨ s.cal.session = .armed) → s.keeps t (.cfg :: opPieces)) ∧
      (∀ b, s.clock.sync ≠ .unsynced → (s.cal.session = .vacant ∨ s.cal.session = .armed) →
        (∀ x ∈ s.cal.bookings, s.clock.now.minute < x.start + x.duration) → s.nextBooking = some b →
        s.clock.now.minute < b.start →
        s.keeps t ([.cfg, .cal] ++ opPieces) ∧ t.cal.bookings = s.cal.bookings ∧
        t.cal.session = (if b.start ≤ s.clock.now.minute + min 15 n.toNat then .armed else .vacant))) ∧
  (∀ (s : State) (b : Byte), s.reaches (.switchWrite 0 [b]) = true →
    ∃ t, exec (.switchWrite 0 [b]) s = .next t ∧
      (31 < b.toNat → s.fails t .badValue) ∧
      (b.toNat ≤ 31 → s.answered t .ok ∧ t.cfg = { s.cfg with
          replace := b.getLsbD 0, autoAdvance := b.getLsbD 1, clearQueue := b.getLsbD 2, sendIdle := b.getLsbD 3,
          autoCommit := b.getLsbD 4 } ∧
        ((b.getLsbD 1 = false ∨ s.floor.mode ≠ .queue) → s.keeps t (.cfg :: opPieces)))) ∧
  (∀ (s : State) (fld : Byte) (n : BitVec 16), (fld = 2 ∨ fld = 3 ∨ fld = 4) →
    s.reaches (.gapWarnWrite 0 fld (be16 n.toNat)) = true →
    let limit := if fld = 2 then 15 else if fld = 3 then 255 else 300
    ∃ t, exec (.gapWarnWrite 0 fld (be16 n.toNat)) s = .next t ∧
      s.answered t (if limit < n.toNat then .clamped else .ok) ∧
      (fld = 2 → t.cfg = { s.cfg with openGap := min 15 n.toNat }) ∧
      (fld = 3 → t.cfg = { s.cfg with closeGap := min 255 n.toNat }) ∧
      (fld = 4 → t.cfg = { s.cfg with warnTime := min 300 n.toNat }) ∧
      ((fld ≠ 4 ∨ ∀ seat, (s.micOf seat).state ≠ .opened) → s.keeps t (.cfg :: opPieces))) ∧
  (∀ (s : State) (n : BitVec 16), s.reaches (.gapWarnWrite 0 4 (be16 n.toNat)) = true →
    let warns := fun (i : Seat) (l : Nat) => decide ((l - min 300 n.toNat) * 10 ≤ (s.micOf i).timer)
    let reached := fun i : Seat => decide ((s.micOf i).state = .opened ∧ ∃ l, s.limitOf i = some l ∧ l * 10 ≤ (s.micOf i).timer)
    let kept := s.floor.openList.filter fun e => !reached e.seat
    ∃ t, exec (.gapWarnWrite 0 4 (be16 n.toNat)) s = .next t ∧ s.keeps t (.cfg :: (sessionPieces ++ opPieces)) ∧
      (s.mic.limitAction = .warn ∨ (∀ i, reached i = false) →
        s.keeps t ([.cfg, .mic, .linkCounters] ++ opPieces) ∧ ∀ i : Seat,
          ((s.micOf i).state ≠ .opened → t.micOf i = s.micOf i) ∧
          ((s.micOf i).state = .opened →
            (s.limitOf i = none → t.micOf i = { s.micOf i with warning := false, overMark := false }) ∧
            ∀ l, s.limitOf i = some l → t.micOf i = { s.micOf i with
              warning := warns i l, overMark := decide (s.mic.limitAction = .warn ∧ l * 10 ≤ (s.micOf i).timer) })) ∧
      (∀ (i : Seat) (l : Nat), s.limitOf i = some l → (s.micOf i).state = .opened → (s.micOf i).warning = false →
        warns i l = true →
        (∀ j : Seat, j < i → ¬ ((s.micOf j).state = .opened ∧ ∃ m, s.limitOf j = some m ∧
          ((s.micOf j).warning = false ∧ warns j m = true ∨ s.mic.limitAction = .auto ∧ reached j = true))) →
        s.notified t 0x03 (be8 i.val ++ be16 l ++ be16 (s.micOf i).timer)) ∧
      (s.mic.limitAction = .auto → s.FloorOk → s.MicOk → s.cal.session = .inSession →
        t.cal = s.cal ∧ (∀ i, reached i = true → s.GapCloses t i) ∧
        (s.noAdvance → t.floor.openList = kept ∧ t.floor.queue = s.floor.queue) ∧
        (s.Advancing → (∃ i, reached i = true) →
          s.Advances t kept s.floor.queue ((numbers 64).filter fun i => (s.micOf i).state = .opened))) ∧
      (s.mic.limitAction = .auto → s.FloorOk → s.MicOk → s.cal.session = .grace → t.floor.openList = kept ∧
        (kept ≠ [] ∨ s.floor.openList = [] → t.cal = s.cal ∧ t.floor.queue = s.floor.queue) ∧
        (kept = [] → s.floor.openList ≠ [] → t.floor.queue = [] ∧ t.cal.session = .closing ∧
          (t.cal.lastReport.map (·.cause)) = some .floorEmpty))) ∧
  (∀ (s : State) (i : Instr) (n : BitVec 16) (b : Byte) (cfg : Settings) (clamped : Bool), s.reaches i = true →
    (i = .detectorSettingsWrite 0 5 [b] ∧ cfg = { s.cfg with kAtt := max 1 b.toNat } ∧ clamped = decide (b = 0) ∨
      i = .detectorSettingsWrite 0 6 [b] ∧ cfg = { s.cfg with kRel := max 1 b.toNat } ∧ clamped = decide (b = 0) ∨
      i = .detectorSettingsWrite 0 7 (be16 n.toNat) ∧ cfg = { s.cfg with openThr := min 32767 n.toNat } ∧
        clamped = decide (32767 < n.toNat) ∨
      i = .detectorSettingsWrite 0 8 (be16 n.toNat) ∧ cfg = { s.cfg with closeThr := min 32767 n.toNat } ∧
        clamped = decide (32767 < n.toNat) ∨
      i = .detectorSettingsWrite 0 9 (be16 n.toNat) ∧ cfg = { s.cfg with hold := min 4000 n.toNat } ∧
        clamped = decide (4000 < n.toNat)) →
    ∃ t, exec i s = .next t ∧ s.keeps t (.cfg :: opPieces) ∧
      s.answered t (if clamped ∨ cfg.openThr < cfg.closeThr then .clamped else .ok) ∧
      t.cfg = { cfg with closeThr := min cfg.openThr cfg.closeThr } ∧ t.cfg.closeThr ≤ t.cfg.openThr) ∧
  (∀ (s : State) (fld b : Byte), 10 ≤ fld.toNat → fld.toNat ≤ 15 → s.reaches (.pageSelectionWrite 0 fld [b]) = true →
    ∃ t, exec (.pageSelectionWrite 0 fld [b]) s = .next t ∧
      (16 ≤ b.toNat → s.fails t .badValue) ∧
      (∀ k : Fin 16, b.toNat = k.val → s.keeps t (.cfg :: opPieces) ∧ s.answered t .ok ∧
        (fld = 10 → t.cfg = { s.cfg with idlePage := k }) ∧ (fld = 11 → t.cfg = { s.cfg with armedPage := k }) ∧
        (fld = 12 → t.cfg = { s.cfg with delegatePage := k }) ∧ (fld = 13 → t.cfg = { s.cfg with chairPage := k }) ∧
        (fld = 14 → t.cfg = { s.cfg with observerPage := k }) ∧ (fld = 15 → t.cfg = { s.cfg with guestPage := k })))

/-- An insert takes a record whose window is to come and shares no minute with another, in start order; a number held
fails DUPLICATE, a full table FULL, a window gone PAST, and one that shares a minute OVERLAP, in this order. A change
replaces every field of a WAITING record but its number, and the delete form (whose byte is ignored: log 13) removes it; the
ACTIVE record takes neither, and a number that names no record fails BAD_INDEX. A write that is accepted causes an
evaluation. Windows may pass the last minute that a field holds (log 25). Every step keeps the shape of the table. -/
def Obligations.BookingsAreInsertedChangedAndDeleted : Prop :=
  (∀ s t : State, s.TableOk → step s = .next t → t.TableOk) ∧
  (∀ (s : State) (b : Booking), b.inRange → s.reaches (.bookingInsert (be16 b.number ++ b.written)) = true →
    let shares := fun r : Booking =>
      ∃ m, b.start ≤ m ∧ m < b.start + b.duration ∧ r.start ≤ m ∧ m < r.start + r.duration
    ∃ t, exec (.bookingInsert (be16 b.number ++ b.written)) s = .next t ∧
      ((∃ r ∈ s.cal.bookings, r.number = b.number) → s.fails t .duplicate) ∧
      ((∀ r ∈ s.cal.bookings, r.number ≠ b.number) →
        (32 ≤ s.cal.bookings.length → s.fails t .full) ∧
        (s.cal.bookings.length < 32 →
          (b.start + b.duration ≤ s.clock.now.minute → s.fails t .past) ∧
          (s.clock.now.minute < b.start + b.duration →
            ((∃ r ∈ s.cal.bookings, shares r) → s.fails t .overlap) ∧
            ((∀ r ∈ s.cal.bookings, ¬ shares r) → s.keeps t (sessionPieces ++ opPieces) ∧ s.answered t .ok ∧
              ∃ before after, s.cal.bookings = before ++ after ∧
                (∀ r ∈ before, r.start ≤ b.start) ∧ (∀ r ∈ after.head?, b.start ≤ r.start) ∧
                ({ s with cal := { s.cal with bookings := before ++ b :: after } }).Settles t))))) ∧
  (∀ (s : State) (b r : Booking) (before after : List Booking), b.inRange → s.cal.bookings = before ++ r :: after →
    r.number = b.number → (∀ x ∈ before ++ after, x.number ≠ b.number) →
    s.reaches (.bookingChange (BitVec.ofNat 16 b.number) 0xFF b.written) = true →
    ∃ t, exec (.bookingChange (BitVec.ofNat 16 b.number) 0xFF b.written) s = .next t ∧
      (r.active = true → s.fails t .active) ∧
      (r.active = false → b.start + b.duration ≤ s.clock.now.minute → s.fails t .past) ∧
      (r.active = false → s.clock.now.minute < b.start + b.duration →
        (∃ x ∈ before ++ after, x.start < b.start + b.duration ∧ b.start < x.start + x.duration) →
        (∀ x ∈ before ++ after, 0 < x.duration) → s.fails t .overlap) ∧
      (r.active = false → s.clock.now.minute < b.start + b.duration →
        (∀ x ∈ before ++ after, x.start + x.duration ≤ b.start ∨ b.start + b.duration ≤ x.start) →
        s.keeps t (sessionPieces ++ opPieces) ∧ s.answered t .ok ∧
        ∃ front back, before ++ after = front ++ back ∧
          (∀ x ∈ front, x.start ≤ b.start) ∧ (∀ x ∈ back.head?, b.start ≤ x.start) ∧
          ({ s with cal := { s.cal with bookings := front ++ b :: back } }).Settles t)) ∧
  (∀ (s : State) (r : Booking) (before after : List Booking) (x : Byte), 0 < r.number → r.number < 65536 →
    s.cal.bookings = before ++ r :: after → (∀ y ∈ before ++ after, y.number ≠ r.number) →
    s.reaches (.bookingDelete (BitVec.ofNat 16 r.number) [x]) = true →
    ∃ t, exec (.bookingDelete (BitVec.ofNat 16 r.number) [x]) s = .next t ∧
      (r.active = true → s.fails t .active) ∧
      (r.active = false → s.keeps t (sessionPieces ++ opPieces) ∧ s.answered t .ok ∧
        ({ s with cal := { s.cal with bookings := before ++ after } }).Settles t)) ∧
  (∀ (s : State) (i : Instr) (b : Booking) (n : BitVec 16) (x : Byte), n ≠ 0 → b.inRange →
    (∀ r ∈ s.cal.bookings, r.number ≠ n.toNat) → (i = .bookingDelete n [x] ∨ i = .bookingChange n 0xFF b.written) →
    s.reaches i = true → ∃ t, exec i s = .next t ∧ s.fails t .badIndex)

/-! ## Actions -/

/-- Floor actions fail by the state of the table before anything else: HALTED, then NO_SESSION; then a seat above 63 fails
BAD_INDEX, and a force byte that is neither yes nor no (log 39), a position outside 1 to 16, and QUEUE_PLACE outside QUEUE
mode or of a seat that holds the floor fail BAD_VALUE; in GRACE a grant of a seat that does not hold the floor, NEXT and
QUEUE_PLACE fail SESSION_ENDING; a seat that is not admitted fails NOT_READY, LISTEN_ONLY or NOT_PERMITTED, the first that
applies. GRANT: an admitted seat that does not hold the floor is granted where there is room; without room it fails
FLOOR_FULL, or with force takes the place of the oldest non-chair seat; a seat that holds the floor keeps it with OK. NEXT
grants the head of the queue, QUEUE_PLACE puts a seat at a position or moves it there with its source and time, and
CLEAR_QUEUE empties the queue and tells how many entries went (the bytes that the notices leave open, and a count of 0: log
16). -/
def Obligations.FloorActionsAndGrant : Prop :=
  (∀ (s : State) (i : Instr) (x y : Byte), s.reaches i = true →
    (i = .grant x y ∨ i = .revoke x ∨ i = .next ∨ i = .queuePlace x y ∨ i = .clearQueue ∨ i = .closeAll) →
    ∃ t, exec i s = .next t ∧
      (s.store.halted = true → s.fails t .halted) ∧
      (s.store.halted = false → s.cal.session ≠ .inSession → s.cal.session ≠ .grace → s.fails t .noSession)) ∧
  (∀ (s : State) (seat : Seat) (force : Bool), s.mayAsk seat →
    let c : Instr := .grant (BitVec.ofNat 8 seat.val) (if force then 1 else 0)
    s.reaches c = true →
    ∃ t, exec c s = .next t ∧ s.keeps t (floorPieces ++ opPieces) ∧
      (s.holds seat = true → s.answered t .ok ∧ t.floor = s.floor ∧ t.mic = s.mic) ∧
      (s.holds seat = false → s.room seat = true → s.answered t .ok ∧
        t.floor.openList = s.floor.openList ++ [⟨seat, s.clock.now, .management⟩] ∧
        t.floor.queue = s.floor.queue.filter (fun x => x.seat ≠ seat) ∧
        t.micOf seat = { s.micOf seat with state := .opening, gap := s.cfg.openGap,
                                           queued := if s.queued seat then false else (s.micOf seat).queued } ∧
        (∀ i, i ≠ seat → t.micOf i = s.micOf i) ∧ t.seats = s.seats ∧
        s.notified t 0x01 (be8 seat.val ++ be8 0 ++ be8 0xFF ++ be8 1 ++ be8 0xFF)) ∧
      (s.holds seat = false → s.room seat = false → (force = false ∨ s.oldestNonChair = none) → s.fails t .floorFull) ∧
      (∀ oldest, s.holds seat = false → s.room seat = false → force = true → s.oldestNonChair = some oldest →
        s.noAdvance → s.answered t .ok ∧ s.GapCloses t oldest ∧
        t.floor.openList = s.floor.openList.filter (fun x => x.seat ≠ oldest) ++ [⟨seat, s.clock.now, .management⟩] ∧
        (t.micOf seat).state = .opening)) ∧
  (∀ (s : State) (i : Instr) (x y : Byte), s.reaches i = true → s.store.halted = false → s.cal.session.runs = true →
    64 ≤ x.toNat → (i = .grant x y ∨ i = .revoke x ∨ i = .queuePlace x y) → ∃ t, exec i s = .next t ∧ s.fails t .badIndex) ∧
  (∀ (s : State) (i : Instr) (seat : Seat) (y : Byte), s.reaches i = true → s.store.halted = false →
    s.cal.session.runs = true →
    (i = .grant (BitVec.ofNat 8 seat.val) y ∧ 2 ≤ y.toNat ∨
      i = .queuePlace (BitVec.ofNat 8 seat.val) y ∧ (y = 0 ∨ 17 ≤ y.toNat ∨ s.floor.mode ≠ .queue ∨
        s.cal.session = .inSession ∧ s.holds seat = true)) → ∃ t, exec i s = .next t ∧ s.fails t .badValue) ∧
  (∀ (s : State) (i : Instr) (seat : Seat) (y : Byte) (st : Status), s.reaches i = true → s.store.halted = false →
    (if s.pos[s.phys seat].presence = .absent ∨ s.pos[s.phys seat].statusValid = false then some Status.notReady
     else if s.classOf seat = .observer then some .listenOnly
     else if s.permitted seat = false then some .notPermitted
     else none) = some st →
    (i = .grant (BitVec.ofNat 8 seat.val) y ∧ y.toNat ≤ 1 ∧
        (s.cal.session = .inSession ∨ s.cal.session = .grace ∧ s.holds seat = true) ∨
      i = .queuePlace (BitVec.ofNat 8 seat.val) y ∧ 1 ≤ y.toNat ∧ y.toNat ≤ 16 ∧ s.floor.mode = .queue ∧
        s.cal.session = .inSession ∧ s.holds seat = false) → ∃ t, exec i s = .next t ∧ s.fails t st) ∧
  (∀ (s : State) (i : Instr) (seat : Seat) (x : Byte), s.reaches i = true → s.store.halted = false → s.cal.session = .grace →
    (i = .next ∨ (i = .grant (BitVec.ofNat 8 seat.val) x ∧ x.toNat ≤ 1 ∧ s.holds seat = false) ∨
      (i = .queuePlace (BitVec.ofNat 8 seat.val) x ∧ s.floor.mode = .queue ∧ 1 ≤ x.toNat ∧ x.toNat ≤ 16)) →
    ∃ t, exec i s = .next t ∧ s.fails t .sessionEnding) ∧
  (∀ s : State, s.reaches .next = true → s.store.halted = false → s.cal.session = .inSession →
    ∃ t, exec .next s = .next t ∧ s.keeps t (floorPieces ++ opPieces) ∧
      (s.floor.queue = [] → s.fails t .empty) ∧
      (∀ e rest, s.floor.queue = e :: rest → s.room e.seat = false → s.fails t .floorFull) ∧
      (∀ e rest, s.floor.queue = e :: rest → s.room e.seat = true → s.answered t .ok ∧
        s.floor.openList ++ [⟨e.seat, s.clock.now, .management⟩] <+: t.floor.openList ∧ t.queued e.seat = false ∧
        (t.micOf e.seat).state = .opening ∧ (t.micOf e.seat).queued = false ∧
        (s.noAdvance → t.floor.openList = s.floor.openList ++ [⟨e.seat, s.clock.now, .management⟩] ∧
          t.floor.queue = s.floor.queue.filter (fun x => x.seat ≠ e.seat) ∧
          ∀ i, i ≠ e.seat → t.micOf i = s.micOf i))) ∧
  (∀ (s : State) (seat : Seat) (place : Byte), s.mayAsk seat → s.floor.mode = .queue → s.holds seat = false →
    s.cfg.autoAdvance = false → 1 ≤ place.toNat → place.toNat ≤ 16 →
    s.reaches (.queuePlace (BitVec.ofNat 8 seat.val) place) = true →
    let rest := s.floor.queue.filter fun x => x.seat ≠ seat
    let p := min place.toNat (rest.length + 1)
    ∃ t, exec (.queuePlace (BitVec.ofNat 8 seat.val) place) s = .next t ∧ s.keeps t (floorPieces ++ opPieces) ∧
      (s.queued seat = false → 16 ≤ s.floor.queue.length → s.fails t .queueFull) ∧
      (s.queued seat = true ∨ s.floor.queue.length < 16 →
        s.answered t .ok ∧ t.floor.openList = s.floor.openList ∧ (t.micOf seat).queued = true ∧
        (∀ i, i ≠ seat → t.micOf i = s.micOf i) ∧ t.seats = s.seats) ∧
      (s.queued seat = false → s.floor.queue.length < 16 →
        t.floor.queue = rest.take (p - 1) ++
          ⟨seat, s.clock.now.minute, s.clock.now.second, .management⟩ :: rest.drop (p - 1) ∧
        s.notified t 0x01 (be8 seat.val ++ be8 2 ++ be8 0xFF ++ be8 1 ++ be8 p)) ∧
      (∀ e, s.floor.queue.find? (fun x => x.seat = seat) = some e →
        t.floor.queue = rest.take (p - 1) ++ e :: rest.drop (p - 1) ∧
        s.notified t 0x01 (be8 seat.val ++ be8 2 ++ be8 0xFF ++ be8 e.source.code ++ be8 p))) ∧
  (∀ s : State, s.reaches .clearQueue = true → s.store.halted = false →
    (s.cal.session = .inSession ∨ s.cal.session = .grace) →
    ∃ t, exec .clearQueue s = .next t ∧ s.keeps t (floorPieces ++ opPieces) ∧ s.answered t .ok ∧
      t.floor = { s.floor with queue := [] } ∧ (∀ i, s.queued i = true → (t.micOf i).queued = false) ∧
      (∀ i, (t.micOf i).state = (s.micOf i).state) ∧ t.seats = s.seats ∧
      s.notified t 0x01 (be8 0xFF ++ be8 4 ++ be8 5 ++ be8 0xFF ++ be8 s.floor.queue.length))

/-- REVOKE takes the floor from a holder or the place from a queued seat, and CLOSE_ALL takes the floor from every seat. In
GRACE the removal that empties the list begins CLOSING. (What an auto-advance check grants after the removals:
QueueModeQueuesWithdrawsAndAdvances.) -/
def Obligations.RevokeAndCloseAllTakeTheFloor : Prop :=
  (∀ (s : State) (seat : Seat), s.reaches (.revoke (BitVec.ofNat 8 seat.val)) = true → s.store.halted = false →
    s.cal.session = .inSession →
    ∃ t, exec (.revoke (BitVec.ofNat 8 seat.val)) s = .next t ∧ s.keeps t (floorPieces ++ opPieces) ∧
      (s.holds seat = true → s.noAdvance → s.answered t .ok ∧ t.floor.queue = s.floor.queue ∧
        t.floor.openList = s.floor.openList.filter (fun x => x.seat ≠ seat) ∧
        ((s.micOf seat).state = .opening ∨ (s.micOf seat).state = .opened →
          (t.micOf seat).state = .closing ∧ (t.micOf seat).gap = s.cfg.closeGap) ∧
        (∀ i, i ≠ seat → t.micOf i = s.micOf i)) ∧
      (s.holds seat = false → s.queued seat = true → s.answered t .ok ∧ t.floor.openList = s.floor.openList ∧
        t.floor.queue = s.floor.queue.filter (fun x => x.seat ≠ seat) ∧ (t.micOf seat).queued = false) ∧
      (s.holds seat = false → s.queued seat = false → s.fails t .notHolding)) ∧
  (∀ s : State, s.reaches .closeAll = true → s.store.halted = false → s.cal.session = .inSession →
    (s.noAdvance ∨ s.floor.openList = []) →
    ∃ t, exec .closeAll s = .next t ∧ s.keeps t (floorPieces ++ opPieces) ∧ s.answered t .ok ∧
      t.floor.openList = [] ∧ t.floor.queue = s.floor.queue ∧ (s.floor.openList = [] → s.keeps t opPieces) ∧
      (∀ seat, s.holds seat = true → (s.micOf seat).state = .opening ∨ (s.micOf seat).state = .opened →
        (t.micOf seat).state = .closing)) ∧
  (∀ (s : State) (seat : Seat), s.reaches (.revoke (BitVec.ofNat 8 seat.val)) = true → s.store.halted = false →
    s.cal.session = .grace →
    ∃ t, exec (.revoke (BitVec.ofNat 8 seat.val)) s = .next t ∧ s.keeps t (sessionPieces ++ opPieces) ∧
      (s.holds seat = true → s.answered t .ok ∧ (s.MicOk → s.LeavesTheFloor t seat)) ∧
      (s.holds seat = false → s.queued seat = true → s.answered t .ok ∧ t.floor.openList = s.floor.openList ∧
        t.cal = s.cal ∧ t.floor.queue = s.floor.queue.filter (fun x => x.seat ≠ seat) ∧ (t.micOf seat).queued = false) ∧
      (s.holds seat = false → s.queued seat = false → s.fails t .notHolding)) ∧
  (∀ s : State, s.reaches .closeAll = true → s.store.halted = false → s.cal.session = .grace →
    ∃ t, exec .closeAll s = .next t ∧ s.keeps t (sessionPieces ++ opPieces) ∧ s.answered t .ok ∧
      (s.floor.openList = [] → t.cal = s.cal ∧ t.floor = s.floor ∧ t.mic = s.mic) ∧
      (∀ e rest, s.floor.openList = e :: rest → (s.micOf e.seat).state = .opening ∨ (s.micOf e.seat).state = .opened →
        s.Closes t .floorEmpty))

/-- VOICE mode at the end of a cycle with nothing to take: the seats whose voice-idle holds lose the floor first (log 8, log
42); then the seats whose voice-start holds are granted in order of envelope, the lower seat first among equals, each that is
ADMITTED, not blocked, not holding, and finds room. In GRACE such a seat is refused SESSION_ENDING in the first cycle of its
run, and the list that voice-idle empties begins CLOSING. The voice-seen marks follow voice-start in every mode, and in other
modes the conditions move nothing; the boundary that ends the last close gap of CLOSING can start the next session in the same
cycle, which clears the blocked marks and the tally (03 R54, R58). A press in VOICE mode by a seat that neither holds nor
waits clears its blocked mark and does nothing else. -/
def Obligations.VoiceConditionsMoveTheFloor : Prop :=
  (∀ s : State, s.powered = true → s.mgmt.restart = .none → (∀ p : Pos, s.pos[p].answer = none ∧ s.pos[p].event = none) →
    s.wingA.passEnds = false → s.wingB.passEnds = false → s.clock.cycles < 199 → s.mic.limitAction = .warn →
    let kept := s.floor.openList.filter fun e => !s.voiceIdle e.seat
    let asks := fun i : Seat => decide (s.voiceStart i = true ∧ (∀ e ∈ kept, e.seat ≠ i) ∧ s.floor.blocked[i] = false ∧
      s.pos[s.phys i].presence = .present ∧ s.pos[s.phys i].statusValid = true ∧ s.classOf i ≠ .observer ∧
      s.permitted i = true)
    let before := fun i j : Seat => s.envelope j < s.envelope i ∨ (s.envelope j = s.envelope i ∧ i < j)
    ∃ t, exec .chainCycle s = .next t ∧ (∀ i : Seat, t.floor.seen[i] = s.voiceStart i) ∧
      (s.floor.mode ≠ .voice → t.floor.openList = s.floor.openList ∧ t.floor.queue = s.floor.queue ∧
        (s.cal.session ≠ .closing → t.floor.blocked = s.floor.blocked ∧ t.cal.tally = s.cal.tally)) ∧
      (s.floor.mode = .voice → s.store.halted = true → s.cal.session = .inSession → t.floor.openList = kept) ∧
      (s.floor.mode = .voice → s.store.halted = false → s.cal.session = .inSession →
        t.floor.blocked = s.floor.blocked ∧ t.cal.tally = s.cal.tally ∧ kept <+: t.floor.openList ∧
        let granted := (t.floor.openList.drop kept.length).map (·.seat)
        (∀ e ∈ t.floor.openList.drop kept.length, e.time = s.clock.now ∧ e.source = .voice ∧ asks e.seat = true) ∧
        granted.Pairwise before ∧
        (∀ i : Seat, asks i = true → i ∉ granted →
          (8 ≤ t.floor.openList.length ∨ (s.classOf i ≠ .chair ∧
            s.floor.maxOpen ≤ (t.floor.openList.filter fun e => s.classOf e.seat ≠ .chair).length)) ∧
          ∀ j ∈ granted, before i j → s.classOf j = .chair ∧ s.classOf i ≠ .chair)) ∧
      (s.floor.mode = .voice → s.store.halted = false → s.cal.session = .grace →
        (s.MicOk → t.floor.openList = kept) ∧
        (kept ≠ [] ∨ s.floor.openList = [] →
          t.cal.session = .grace ∧ t.floor.blocked = s.floor.blocked ∧
          (∀ i : Seat, asks i = true → s.floor.seen[i] = false → (t.micOf i).flash = 1999) ∧
          t.cal.tally = s.cal.tally.set 6 (if (∃ i : Seat, asks i = true ∧ s.floor.seen[i] = false) then
            min 65535 (s.cal.tally[6] + ((numbers 64).filter fun i => asks i && !s.floor.seen[i]).length)
            else s.cal.tally[6])) ∧
        (kept = [] → s.floor.openList ≠ [] → t.floor.queue = [] ∧ t.cal.session ≠ .grace ∧
          (t.cal.lastReport.map (·.cause)) = some .floorEmpty ∧
          (s.MicOk → 2 ≤ s.cfg.closeGap → t.cal.session = .closing ∧ t.floor.blocked = s.floor.blocked)))) ∧
  (∀ (s : State) (seat : Seat), s.heard seat .button → s.mayAsk seat → s.floor.mode = .voice → s.holds seat = false →
    s.queued seat = false →
    ∃ t, exec (.button (s.phys seat)) s = .next t ∧ s.keeps t ([.pos, .floor] ++ screenPieces) ∧ s.pressTaken t seat ∧
      t.floor = { s.floor with blocked := s.floor.blocked.set seat false })

/-- OPEN_ADHOC starts a session at once in VACANT, with the values brought into range, and offers its SESSION_START notice;
ARMED answers BOOKED and an active session ACTIVE. In VACANT a key above 15, a chair position above 63 and a mode that is
none fail BAD_VALUE, a full table FULL, and an end that passes the next start OVERLAP, in this order. -/
def Obligations.OpenAdhocStartsASession : Prop :=
  (∀ (s : State) (duration : BitVec 16) (key chair mode maxOpen : Byte),
    s.reaches (.openAdhoc duration key chair mode maxOpen) = true →
    ∃ t, exec (.openAdhoc duration key chair mode maxOpen) s = .next t ∧
      (s.cal.session = .armed → s.fails t .booked) ∧ (s.cal.session.isActive = true → s.fails t .active) ∧
      (s.cal.session = .vacant → 16 ≤ key.toNat ∨ 64 ≤ chair.toNat ∨ 3 ≤ mode.toNat → s.fails t .badValue)) ∧
  ∀ (s : State) (duration : BitVec 16) (key : Key) (chair : Pos) (mode : Mode) (maxOpen : Byte),
    let c : Instr := .openAdhoc duration (BitVec.ofNat 8 key.val) (BitVec.ofNat 8 chair.val) (BitVec.ofNat 8 mode.code) maxOpen
    let d := max 5 (min 1440 duration.toNat)
    let n := max 1 (min 6 maxOpen.toNat)
    s.reaches c = true →
    ∃ t, exec c s = .next t ∧
      (s.cal.session = .vacant → 32 ≤ s.cal.bookings.length → s.fails t .full) ∧
      (∀ b, s.cal.session = .vacant → s.cal.bookings.length < 32 → s.nextBooking = some b →
        b.start < s.clock.now.minute + d → s.fails t .overlap) ∧
      (s.cal.session = .vacant → s.cal.bookings.length < 32 → (∀ b ∈ s.cal.bookings, b.active = false ∧ b.number ≠ 0) →
        (∀ b, s.nextBooking = some b → s.clock.now.minute + d ≤ b.start) →
        s.answered t (if d = duration.toNat ∧ n = maxOpen.toNat then .ok else .clamped) ∧
        t.cal.session = .inSession ∧ t.cal.actualStart = s.clock.now ∧ t.cal.endCause = none ∧
        s.notified t 0x04 (be16 0 ++ textBytes (text "AD HOC") ++ be32 s.clock.now.minute ++
          be32 (s.clock.now.minute + d) ++ timeBytes s.clock.now) ∧
        (∃ b, t.activeBooking = some b ∧ b.number = 0 ∧ b.start = s.clock.now.minute ∧ b.duration = d ∧ b.key = key ∧
          b.chair = chair ∧ b.grace = 0 ∧ b.roster = none ∧ b.roomSend = true) ∧
        t.seats.chair = chair ∧ t.floor.mode = mode ∧ t.floor.maxOpen = n ∧ t.floor.openList = s.floor.openList ∧
        t.mic.speakLimit = 0 ∧ t.mic.limitAction = .warn ∧ t.mix.roomSend = true ∧
        (∀ r : Fin 8, t.cal.tally[r] = 0) ∧
        (∀ p : Pos, t.seats.recs[p].participant = none ∧ t.seats.recs[p].spoke = false ∧
          t.seats.recs[p].changed = false ∧ t.seats.recs[p].turnCount = 0) ∧
        s.keeps t ([.cal, .seats, .floor, .mic, .mixCycle, .messages, .linkCounters] ++ opPieces))

/-- EXTEND lengthens the ACTIVE booking by 1 to 120 minutes, to 1,440 at most, and an evaluation follows, which in GRACE
returns to IN_SESSION when the new end lies ahead; an end past the next start fails OVERLAP, and one that cannot grow
changes nothing. END_SESSION ends the session's floor with a report, and completes at once where every microphone is CLOSED.
Neither is taken where no session runs. -/
def Obligations.ExtendAndEndSession : Prop :=
  (∀ (s : State) (minutes : Byte), s.reaches (.extend minutes) = true →
    ∃ t, exec (.extend minutes) s = .next t ∧
      (s.cal.session = .closing → s.fails t .active) ∧
      (s.cal.session = .vacant ∨ s.cal.session = .armed → s.fails t .noSession)) ∧
  (∀ (s : State) (minutes : Byte) (before after : List Booking) (b : Booking), s.reaches (.extend minutes) = true →
    (s.cal.session = .inSession ∨ s.cal.session = .grace) → s.cal.bookings = before ++ b :: after → b.active = true →
    (∀ x ∈ before ++ after, x.active = false) →
    let n := max 1 (min 120 minutes.toNat)
    let e := min n (1440 - b.duration)
    let u : State := { s with cal := { s.cal with bookings := before ++ { b with duration := b.duration + e } :: after } }
    ∃ t, exec (.extend minutes) s = .next t ∧
      (e = 0 → s.answered t .clamped ∧ s.keeps t opPieces) ∧
      (∀ x, s.nextBooking = some x → 0 < e → x.start < b.start + b.duration + e → s.fails t .overlap) ∧
      (0 < e → (∀ x, s.nextBooking = some x → b.start + b.duration + e ≤ x.start) →
        s.answered t (if n = minutes.toNat ∧ e = n then .ok else .clamped) ∧ s.keeps t (sessionPieces ++ opPieces) ∧
        u.Settles t ∧
        (s.clock.sync ≠ .unsynced → s.cal.session = .grace → s.clock.now.minute < b.start + b.duration + e →
          t.cal.session = .inSession ∧ t.cal.graceEnd = none))) ∧
  (∀ s : State, s.reaches .endSession = true →
    ∃ t, exec .endSession s = .next t ∧
      (s.cal.session ≠ .inSession → s.cal.session ≠ .grace → s.fails t .noSession) ∧
      (s.cal.session = .inSession ∨ s.cal.session = .grace →
        s.answered t .ok ∧ s.keeps t (sessionPieces ++ opPieces) ∧ (s.TableOk → s.Closes t .endSession) ∧
        ∃ r, t.cal.lastReport = some r ∧
          ∀ seat : Seat, (∃ x ∈ r.speakers, x.seat = seat) ↔ (s.seatRec seat).spoke = true))

/-- SEND_MESSAGE gives the printable text, cut to 96 characters, to one PRESENT seat or to all of them; it begins at
its first step. An ABSENT seat fails ABSENT. -/
def Obligations.AMessageBeginsAtItsFirstStep : Prop :=
  ∀ (s : State) (txt : Text), txt.length ≤ 250 →
    let m : Message := ⟨(takeIn txt).take 96, 1, 400⟩
    let st : Status := if 96 < txt.length then .clamped else .ok
    (∀ seat : Seat, s.reaches (.sendMessage (BitVec.ofNat 8 seat.val) txt) = true →
      ∃ t, exec (.sendMessage (BitVec.ofNat 8 seat.val) txt) s = .next t ∧
        (s.pos[s.phys seat].presence = .absent → s.fails t .absent) ∧
        (s.pos[s.phys seat].presence = .present → s.answered t st ∧ s.keeps t (.messages :: opPieces) ∧
          t.disp.messages[seat] = some m ∧ ∀ i, i ≠ seat → t.disp.messages[i] = s.disp.messages[i])) ∧
    (s.reaches (.sendMessage 0xFF txt) = true →
      ∃ t, exec (.sendMessage 0xFF txt) s = .next t ∧ s.answered t st ∧ s.keeps t (.messages :: opPieces) ∧
        ∀ i : Seat, t.disp.messages[i] =
          if s.pos[s.phys i].presence = .present then some m else s.disp.messages[i])

/-- HALT empties the floor and closes every microphone at once; in GRACE the removal that empties the list begins CLOSING,
which completes as the microphones close (log 35). RESUME starts a pass on both wings with the levels and
the audio return afresh. At a table that is already halted, or already running, they change nothing. -/
def Obligations.HaltSilencesAndResumeEnumerates : Prop :=
  (∀ s : State, s.reaches .halt = true →
    ∃ t, exec .halt s = .next t ∧ s.answered t .ok ∧ t.store.halted = true ∧ t.pos = s.pos ∧ t.cfg = s.cfg ∧
      t.clock = s.clock ∧
      (s.store.halted = true → s.keeps t opPieces) ∧
      (s.store.halted = false → t.store = { s.store with halted := true } ∧
        (∀ p : Pos, t.disp.delivery[p].transfer = none) ∧ (∀ seat : Seat, (t.micOf seat).state = .closed) ∧
        s.keeps t ([.store, .delivery] ++ sessionPieces ++ opPieces)) ∧
      (s.store.halted = false → s.cal.session ≠ .grace → t.floor.openList = [] ∧ t.floor.queue = []) ∧
      (s.store.halted = false → s.cal.session ≠ .grace → s.cal.session ≠ .closing → t.cal = s.cal) ∧
      (s.store.halted = false → s.cal.session = .grace → s.floor.openList ≠ [] →
        t.floor.openList = [] ∧ t.floor.queue = [] ∧ (t.cal.lastReport.map (·.cause)) = some .floorEmpty ∧
        let captured := mapAll s.seats.recs fun p (r : SeatRec) =>
          let m : MicRec := s.micOf (s.logical p)
          if m.state = .opened then
            { r with lastTurn := m.timer, total := min 65535 (r.total + m.timer), turnCount := min 65535 (r.turnCount + 1) }
          else r
        (s.TableOk → ({ s with floor := { s.floor with openList := [], queue := [] }
                               seats := { s.seats with recs := captured } }).Completed t))) ∧
  (∀ s : State, s.reaches .resume = true →
    ∃ t, exec .resume s = .next t ∧ s.answered t .ok ∧ t.store = { s.store with halted := false } ∧
      (s.store.halted = false → s.keeps t opPieces) ∧
      (s.store.halted = true → t.passStarts .a ∧ t.passStarts .b ∧
        s.keeps t ([.wings, .level, .audioReturn, .store] ++ opPieces) ∧
        t.link.learnt = false ∧ t.link.buffer = [] ∧
        ∀ p : Pos, t.level[p].envelope = 0 ∧ t.level[p].meter = 0 ∧ t.level[p].clips = s.level[p].clips))
end

