-- ==== Sys2Proof/Laws/State.lean ====
section
/-! SUPPORT. What each update of State changes, one frame lemma an update (every other field is as before) and the changed
field beside it. -/

namespace Sys2Proof.Machine

variable (s : State)

/-- The ports alone. -/
@[simp] theorem State.setWing_frame (w : Wing) (f : WingPort → WingPort) :
    (s.setWing w f).powered = s.powered ∧ (s.setWing w f).pos = s.pos ∧ (s.setWing w f).level = s.level ∧
    (s.setWing w f).seats = s.seats ∧ (s.setWing w f).clock = s.clock ∧ (s.setWing w f).cal = s.cal ∧
    (s.setWing w f).floor = s.floor ∧ (s.setWing w f).mic = s.mic ∧ (s.setWing w f).mix = s.mix ∧
    (s.setWing w f).disp = s.disp ∧ (s.setWing w f).link = s.link ∧ (s.setWing w f).mgmt = s.mgmt ∧
    (s.setWing w f).cfg = s.cfg ∧ (s.setWing w f).store = s.store ∧ (s.setWing w f).out = s.out ∧
    (s.setWing w f).early = s.early ∧ (s.setWing w f).pending = s.pending :=
  by cases w <;> simp [State.setWing]

/-- The position records alone. -/
@[simp] theorem State.setPos_frame (p : Pos) (f : PosRec → PosRec) :
    (s.setPos p f).powered = s.powered ∧ (s.setPos p f).wingA = s.wingA ∧ (s.setPos p f).wingB = s.wingB ∧
    (s.setPos p f).level = s.level ∧ (s.setPos p f).seats = s.seats ∧ (s.setPos p f).clock = s.clock ∧
    (s.setPos p f).cal = s.cal ∧ (s.setPos p f).floor = s.floor ∧ (s.setPos p f).mic = s.mic ∧
    (s.setPos p f).mix = s.mix ∧ (s.setPos p f).disp = s.disp ∧ (s.setPos p f).link = s.link ∧
    (s.setPos p f).mgmt = s.mgmt ∧ (s.setPos p f).cfg = s.cfg ∧ (s.setPos p f).store = s.store ∧
    (s.setPos p f).out = s.out ∧ (s.setPos p f).early = s.early ∧ (s.setPos p f).pending = s.pending :=
  ⟨rfl, rfl, rfl, rfl, rfl, rfl, rfl, rfl, rfl, rfl, rfl, rfl, rfl, rfl, rfl, rfl, rfl, rfl⟩

/-- The level records alone. -/
@[simp] theorem State.zeroLevel_frame (p : Pos) :
    (s.zeroLevel p).powered = s.powered ∧ (s.zeroLevel p).wingA = s.wingA ∧ (s.zeroLevel p).wingB = s.wingB ∧
    (s.zeroLevel p).pos = s.pos ∧ (s.zeroLevel p).seats = s.seats ∧ (s.zeroLevel p).clock = s.clock ∧
    (s.zeroLevel p).cal = s.cal ∧ (s.zeroLevel p).floor = s.floor ∧ (s.zeroLevel p).mic = s.mic ∧
    (s.zeroLevel p).mix = s.mix ∧ (s.zeroLevel p).disp = s.disp ∧ (s.zeroLevel p).link = s.link ∧
    (s.zeroLevel p).mgmt = s.mgmt ∧ (s.zeroLevel p).cfg = s.cfg ∧ (s.zeroLevel p).store = s.store ∧
    (s.zeroLevel p).out = s.out ∧ (s.zeroLevel p).early = s.early ∧ (s.zeroLevel p).pending = s.pending :=
  ⟨rfl, rfl, rfl, rfl, rfl, rfl, rfl, rfl, rfl, rfl, rfl, rfl, rfl, rfl, rfl, rfl, rfl, rfl⟩

/-- The level records alone. -/
@[simp] theorem State.levelBlock_frame (p : Pos) (b : Block) :
    (s.levelBlock p b).powered = s.powered ∧ (s.levelBlock p b).wingA = s.wingA ∧
    (s.levelBlock p b).wingB = s.wingB ∧ (s.levelBlock p b).pos = s.pos ∧ (s.levelBlock p b).seats = s.seats ∧
    (s.levelBlock p b).clock = s.clock ∧ (s.levelBlock p b).cal = s.cal ∧ (s.levelBlock p b).floor = s.floor ∧
    (s.levelBlock p b).mic = s.mic ∧ (s.levelBlock p b).mix = s.mix ∧ (s.levelBlock p b).disp = s.disp ∧
    (s.levelBlock p b).link = s.link ∧ (s.levelBlock p b).mgmt = s.mgmt ∧ (s.levelBlock p b).cfg = s.cfg ∧
    (s.levelBlock p b).store = s.store ∧ (s.levelBlock p b).out = s.out ∧ (s.levelBlock p b).early = s.early ∧
    (s.levelBlock p b).pending = s.pending :=
  ⟨rfl, rfl, rfl, rfl, rfl, rfl, rfl, rfl, rfl, rfl, rfl, rfl, rfl, rfl, rfl, rfl, rfl, rfl⟩

/-- The seat table alone. -/
@[simp] theorem State.setRec_frame (p : Pos) (f : SeatRec → SeatRec) :
    (s.setRec p f).powered = s.powered ∧ (s.setRec p f).wingA = s.wingA ∧ (s.setRec p f).wingB = s.wingB ∧
    (s.setRec p f).pos = s.pos ∧ (s.setRec p f).level = s.level ∧ (s.setRec p f).clock = s.clock ∧
    (s.setRec p f).cal = s.cal ∧ (s.setRec p f).floor = s.floor ∧ (s.setRec p f).mic = s.mic ∧
    (s.setRec p f).mix = s.mix ∧ (s.setRec p f).disp = s.disp ∧ (s.setRec p f).link = s.link ∧
    (s.setRec p f).mgmt = s.mgmt ∧ (s.setRec p f).cfg = s.cfg ∧ (s.setRec p f).store = s.store ∧
    (s.setRec p f).out = s.out ∧ (s.setRec p f).early = s.early ∧ (s.setRec p f).pending = s.pending :=
  ⟨rfl, rfl, rfl, rfl, rfl, rfl, rfl, rfl, rfl, rfl, rfl, rfl, rfl, rfl, rfl, rfl, rfl, rfl⟩

/-- The seat table alone. -/
@[simp] theorem State.bindRoster_frame (r : Option (Fin 8)) :
    (s.bindRoster r).powered = s.powered ∧ (s.bindRoster r).wingA = s.wingA ∧ (s.bindRoster r).wingB = s.wingB ∧
    (s.bindRoster r).pos = s.pos ∧ (s.bindRoster r).level = s.level ∧ (s.bindRoster r).clock = s.clock ∧
    (s.bindRoster r).cal = s.cal ∧ (s.bindRoster r).floor = s.floor ∧ (s.bindRoster r).mic = s.mic ∧
    (s.bindRoster r).mix = s.mix ∧ (s.bindRoster r).disp = s.disp ∧ (s.bindRoster r).link = s.link ∧
    (s.bindRoster r).mgmt = s.mgmt ∧ (s.bindRoster r).cfg = s.cfg ∧ (s.bindRoster r).store = s.store ∧
    (s.bindRoster r).out = s.out ∧ (s.bindRoster r).early = s.early ∧ (s.bindRoster r).pending = s.pending :=
  by simp [State.bindRoster]

/-- The seat table alone. -/
@[simp] theorem State.endOfSessionWork_frame :
    (s.endOfSessionWork).powered = s.powered ∧ (s.endOfSessionWork).wingA = s.wingA ∧
    (s.endOfSessionWork).wingB = s.wingB ∧ (s.endOfSessionWork).pos = s.pos ∧ (s.endOfSessionWork).level = s.level ∧
    (s.endOfSessionWork).clock = s.clock ∧ (s.endOfSessionWork).cal = s.cal ∧ (s.endOfSessionWork).floor = s.floor ∧
    (s.endOfSessionWork).mic = s.mic ∧ (s.endOfSessionWork).mix = s.mix ∧ (s.endOfSessionWork).disp = s.disp ∧
    (s.endOfSessionWork).link = s.link ∧ (s.endOfSessionWork).mgmt = s.mgmt ∧ (s.endOfSessionWork).cfg = s.cfg ∧
    (s.endOfSessionWork).store = s.store ∧ (s.endOfSessionWork).out = s.out ∧ (s.endOfSessionWork).early = s.early ∧
    (s.endOfSessionWork).pending = s.pending :=
  by simp [State.endOfSessionWork]

/-- The floor alone. -/
@[simp] theorem State.setFloor_frame (f : Floor → Floor) :
    (s.setFloor f).powered = s.powered ∧ (s.setFloor f).wingA = s.wingA ∧ (s.setFloor f).wingB = s.wingB ∧
    (s.setFloor f).pos = s.pos ∧ (s.setFloor f).level = s.level ∧ (s.setFloor f).seats = s.seats ∧
    (s.setFloor f).clock = s.clock ∧ (s.setFloor f).cal = s.cal ∧ (s.setFloor f).mic = s.mic ∧
    (s.setFloor f).mix = s.mix ∧ (s.setFloor f).disp = s.disp ∧ (s.setFloor f).link = s.link ∧
    (s.setFloor f).mgmt = s.mgmt ∧ (s.setFloor f).cfg = s.cfg ∧ (s.setFloor f).store = s.store ∧
    (s.setFloor f).out = s.out ∧ (s.setFloor f).early = s.early ∧ (s.setFloor f).pending = s.pending :=
  ⟨rfl, rfl, rfl, rfl, rfl, rfl, rfl, rfl, rfl, rfl, rfl, rfl, rfl, rfl, rfl, rfl, rfl, rfl⟩

/-- The microphone block alone. -/
@[simp] theorem State.setMic_frame (seat : Seat) (f : MicRec → MicRec) :
    (s.setMic seat f).powered = s.powered ∧ (s.setMic seat f).wingA = s.wingA ∧ (s.setMic seat f).wingB = s.wingB ∧
    (s.setMic seat f).pos = s.pos ∧ (s.setMic seat f).level = s.level ∧ (s.setMic seat f).seats = s.seats ∧
    (s.setMic seat f).clock = s.clock ∧ (s.setMic seat f).cal = s.cal ∧ (s.setMic seat f).floor = s.floor ∧
    (s.setMic seat f).mix = s.mix ∧ (s.setMic seat f).disp = s.disp ∧ (s.setMic seat f).link = s.link ∧
    (s.setMic seat f).mgmt = s.mgmt ∧ (s.setMic seat f).cfg = s.cfg ∧ (s.setMic seat f).store = s.store ∧
    (s.setMic seat f).out = s.out ∧ (s.setMic seat f).early = s.early ∧ (s.setMic seat f).pending = s.pending :=
  ⟨rfl, rfl, rfl, rfl, rfl, rfl, rfl, rfl, rfl, rfl, rfl, rfl, rfl, rfl, rfl, rfl, rfl, rfl⟩

/-- The microphone block alone. -/
@[simp] theorem State.micGrant_frame (seat : Seat) :
    (s.micGrant seat).powered = s.powered ∧ (s.micGrant seat).wingA = s.wingA ∧ (s.micGrant seat).wingB = s.wingB ∧
    (s.micGrant seat).pos = s.pos ∧ (s.micGrant seat).level = s.level ∧ (s.micGrant seat).seats = s.seats ∧
    (s.micGrant seat).clock = s.clock ∧ (s.micGrant seat).cal = s.cal ∧ (s.micGrant seat).floor = s.floor ∧
    (s.micGrant seat).mix = s.mix ∧ (s.micGrant seat).disp = s.disp ∧ (s.micGrant seat).link = s.link ∧
    (s.micGrant seat).mgmt = s.mgmt ∧ (s.micGrant seat).cfg = s.cfg ∧ (s.micGrant seat).store = s.store ∧
    (s.micGrant seat).out = s.out ∧ (s.micGrant seat).early = s.early ∧ (s.micGrant seat).pending = s.pending :=
  ⟨rfl, rfl, rfl, rfl, rfl, rfl, rfl, rfl, rfl, rfl, rfl, rfl, rfl, rfl, rfl, rfl, rfl, rfl⟩

/-- The display composer alone. -/
@[simp] theorem State.setScreen_frame (e : Fin 4) (f : Screen → Screen) :
    (s.setScreen e f).powered = s.powered ∧ (s.setScreen e f).wingA = s.wingA ∧ (s.setScreen e f).wingB = s.wingB ∧
    (s.setScreen e f).pos = s.pos ∧ (s.setScreen e f).level = s.level ∧ (s.setScreen e f).seats = s.seats ∧
    (s.setScreen e f).clock = s.clock ∧ (s.setScreen e f).cal = s.cal ∧ (s.setScreen e f).floor = s.floor ∧
    (s.setScreen e f).mic = s.mic ∧ (s.setScreen e f).mix = s.mix ∧ (s.setScreen e f).link = s.link ∧
    (s.setScreen e f).mgmt = s.mgmt ∧ (s.setScreen e f).cfg = s.cfg ∧ (s.setScreen e f).store = s.store ∧
    (s.setScreen e f).out = s.out ∧ (s.setScreen e f).early = s.early ∧ (s.setScreen e f).pending = s.pending :=
  ⟨rfl, rfl, rfl, rfl, rfl, rfl, rfl, rfl, rfl, rfl, rfl, rfl, rfl, rfl, rfl, rfl, rfl, rfl⟩

/-- The display composer alone. -/
@[simp] theorem State.setMessage_frame (seat : Seat) (f : Option Message → Option Message) :
    (s.setMessage seat f).powered = s.powered ∧ (s.setMessage seat f).wingA = s.wingA ∧
    (s.setMessage seat f).wingB = s.wingB ∧ (s.setMessage seat f).pos = s.pos ∧
    (s.setMessage seat f).level = s.level ∧ (s.setMessage seat f).seats = s.seats ∧
    (s.setMessage seat f).clock = s.clock ∧ (s.setMessage seat f).cal = s.cal ∧
    (s.setMessage seat f).floor = s.floor ∧ (s.setMessage seat f).mic = s.mic ∧ (s.setMessage seat f).mix = s.mix ∧
    (s.setMessage seat f).link = s.link ∧ (s.setMessage seat f).mgmt = s.mgmt ∧ (s.setMessage seat f).cfg = s.cfg ∧
    (s.setMessage seat f).store = s.store ∧ (s.setMessage seat f).out = s.out ∧
    (s.setMessage seat f).early = s.early ∧ (s.setMessage seat f).pending = s.pending :=
  ⟨rfl, rfl, rfl, rfl, rfl, rfl, rfl, rfl, rfl, rfl, rfl, rfl, rfl, rfl, rfl, rfl, rfl, rfl⟩

/-- The display composer alone. -/
@[simp] theorem State.clearMessages_frame :
    (s.clearMessages).powered = s.powered ∧ (s.clearMessages).wingA = s.wingA ∧ (s.clearMessages).wingB = s.wingB ∧
    (s.clearMessages).pos = s.pos ∧ (s.clearMessages).level = s.level ∧ (s.clearMessages).seats = s.seats ∧
    (s.clearMessages).clock = s.clock ∧ (s.clearMessages).cal = s.cal ∧ (s.clearMessages).floor = s.floor ∧
    (s.clearMessages).mic = s.mic ∧ (s.clearMessages).mix = s.mix ∧ (s.clearMessages).link = s.link ∧
    (s.clearMessages).mgmt = s.mgmt ∧ (s.clearMessages).cfg = s.cfg ∧ (s.clearMessages).store = s.store ∧
    (s.clearMessages).out = s.out ∧ (s.clearMessages).early = s.early ∧ (s.clearMessages).pending = s.pending :=
  ⟨rfl, rfl, rfl, rfl, rfl, rfl, rfl, rfl, rfl, rfl, rfl, rfl, rfl, rfl, rfl, rfl, rfl, rfl⟩

/-- The display composer alone. -/
@[simp] theorem State.composerLost_frame (p : Pos) (seat : Seat) :
    (s.composerLost p seat).powered = s.powered ∧ (s.composerLost p seat).wingA = s.wingA ∧
    (s.composerLost p seat).wingB = s.wingB ∧ (s.composerLost p seat).pos = s.pos ∧
    (s.composerLost p seat).level = s.level ∧ (s.composerLost p seat).seats = s.seats ∧
    (s.composerLost p seat).clock = s.clock ∧ (s.composerLost p seat).cal = s.cal ∧
    (s.composerLost p seat).floor = s.floor ∧ (s.composerLost p seat).mic = s.mic ∧
    (s.composerLost p seat).mix = s.mix ∧ (s.composerLost p seat).link = s.link ∧
    (s.composerLost p seat).mgmt = s.mgmt ∧ (s.composerLost p seat).cfg = s.cfg ∧
    (s.composerLost p seat).store = s.store ∧ (s.composerLost p seat).out = s.out ∧
    (s.composerLost p seat).early = s.early ∧ (s.composerLost p seat).pending = s.pending :=
  ⟨rfl, rfl, rfl, rfl, rfl, rfl, rfl, rfl, rfl, rfl, rfl, rfl, rfl, rfl, rfl, rfl, rfl, rfl⟩

/-- The display composer alone. -/
@[simp] theorem State.chunkReport_frame (p : Pos) (d : Bool) :
    (s.chunkReport p d).powered = s.powered ∧ (s.chunkReport p d).wingA = s.wingA ∧
    (s.chunkReport p d).wingB = s.wingB ∧ (s.chunkReport p d).pos = s.pos ∧ (s.chunkReport p d).level = s.level ∧
    (s.chunkReport p d).seats = s.seats ∧ (s.chunkReport p d).clock = s.clock ∧ (s.chunkReport p d).cal = s.cal ∧
    (s.chunkReport p d).floor = s.floor ∧ (s.chunkReport p d).mic = s.mic ∧ (s.chunkReport p d).mix = s.mix ∧
    (s.chunkReport p d).link = s.link ∧ (s.chunkReport p d).mgmt = s.mgmt ∧ (s.chunkReport p d).cfg = s.cfg ∧
    (s.chunkReport p d).store = s.store ∧ (s.chunkReport p d).out = s.out ∧ (s.chunkReport p d).early = s.early ∧
    (s.chunkReport p d).pending = s.pending :=
  ⟨rfl, rfl, rfl, rfl, rfl, rfl, rfl, rfl, rfl, rfl, rfl, rfl, rfl, rfl, rfl, rfl, rfl, rfl⟩

/-- The display composer alone. -/
@[simp] theorem State.forgetDisplays_frame (w : Wing) :
    (s.forgetDisplays w).powered = s.powered ∧ (s.forgetDisplays w).wingA = s.wingA ∧
    (s.forgetDisplays w).wingB = s.wingB ∧ (s.forgetDisplays w).pos = s.pos ∧ (s.forgetDisplays w).level = s.level ∧
    (s.forgetDisplays w).seats = s.seats ∧ (s.forgetDisplays w).clock = s.clock ∧ (s.forgetDisplays w).cal = s.cal ∧
    (s.forgetDisplays w).floor = s.floor ∧ (s.forgetDisplays w).mic = s.mic ∧ (s.forgetDisplays w).mix = s.mix ∧
    (s.forgetDisplays w).link = s.link ∧ (s.forgetDisplays w).mgmt = s.mgmt ∧ (s.forgetDisplays w).cfg = s.cfg ∧
    (s.forgetDisplays w).store = s.store ∧ (s.forgetDisplays w).out = s.out ∧ (s.forgetDisplays w).early = s.early ∧
    (s.forgetDisplays w).pending = s.pending :=
  by simp [State.forgetDisplays]

/-- The display composer alone. -/
@[simp] theorem State.messageBoundary_frame :
    (s.messageBoundary).powered = s.powered ∧ (s.messageBoundary).wingA = s.wingA ∧
    (s.messageBoundary).wingB = s.wingB ∧ (s.messageBoundary).pos = s.pos ∧ (s.messageBoundary).level = s.level ∧
    (s.messageBoundary).seats = s.seats ∧ (s.messageBoundary).clock = s.clock ∧ (s.messageBoundary).cal = s.cal ∧
    (s.messageBoundary).floor = s.floor ∧ (s.messageBoundary).mic = s.mic ∧ (s.messageBoundary).mix = s.mix ∧
    (s.messageBoundary).link = s.link ∧ (s.messageBoundary).mgmt = s.mgmt ∧ (s.messageBoundary).cfg = s.cfg ∧
    (s.messageBoundary).store = s.store ∧ (s.messageBoundary).out = s.out ∧ (s.messageBoundary).early = s.early ∧
    (s.messageBoundary).pending = s.pending :=
  by simp [State.messageBoundary]

/-- The display composer alone. -/
@[simp] theorem State.settleTransfers_frame :
    (s.settleTransfers).powered = s.powered ∧ (s.settleTransfers).wingA = s.wingA ∧
    (s.settleTransfers).wingB = s.wingB ∧ (s.settleTransfers).pos = s.pos ∧ (s.settleTransfers).level = s.level ∧
    (s.settleTransfers).seats = s.seats ∧ (s.settleTransfers).clock = s.clock ∧ (s.settleTransfers).cal = s.cal ∧
    (s.settleTransfers).floor = s.floor ∧ (s.settleTransfers).mic = s.mic ∧ (s.settleTransfers).mix = s.mix ∧
    (s.settleTransfers).link = s.link ∧ (s.settleTransfers).mgmt = s.mgmt ∧ (s.settleTransfers).cfg = s.cfg ∧
    (s.settleTransfers).store = s.store ∧ (s.settleTransfers).out = s.out ∧ (s.settleTransfers).early = s.early ∧
    (s.settleTransfers).pending = s.pending :=
  by simp [State.settleTransfers]

/-- The room link alone. -/
@[simp] theorem State.notice_frame (k : Nat) (b : List Byte) :
    (s.notice k b).powered = s.powered ∧ (s.notice k b).wingA = s.wingA ∧ (s.notice k b).wingB = s.wingB ∧
    (s.notice k b).pos = s.pos ∧ (s.notice k b).level = s.level ∧ (s.notice k b).seats = s.seats ∧
    (s.notice k b).clock = s.clock ∧ (s.notice k b).cal = s.cal ∧ (s.notice k b).floor = s.floor ∧
    (s.notice k b).mic = s.mic ∧ (s.notice k b).mix = s.mix ∧ (s.notice k b).disp = s.disp ∧
    (s.notice k b).mgmt = s.mgmt ∧ (s.notice k b).cfg = s.cfg ∧ (s.notice k b).store = s.store ∧
    (s.notice k b).out = s.out ∧ (s.notice k b).early = s.early ∧ (s.notice k b).pending = s.pending :=
  ⟨rfl, rfl, rfl, rfl, rfl, rfl, rfl, rfl, rfl, rfl, rfl, rfl, rfl, rfl, rfl, rfl, rfl, rfl⟩

/-- The management engine alone. -/
@[simp] theorem State.setMgmt_frame (f : Mgmt → Mgmt) :
    (s.setMgmt f).powered = s.powered ∧ (s.setMgmt f).wingA = s.wingA ∧ (s.setMgmt f).wingB = s.wingB ∧
    (s.setMgmt f).pos = s.pos ∧ (s.setMgmt f).level = s.level ∧ (s.setMgmt f).seats = s.seats ∧
    (s.setMgmt f).clock = s.clock ∧ (s.setMgmt f).cal = s.cal ∧ (s.setMgmt f).floor = s.floor ∧
    (s.setMgmt f).mic = s.mic ∧ (s.setMgmt f).mix = s.mix ∧ (s.setMgmt f).disp = s.disp ∧
    (s.setMgmt f).link = s.link ∧ (s.setMgmt f).cfg = s.cfg ∧ (s.setMgmt f).store = s.store ∧
    (s.setMgmt f).out = s.out ∧ (s.setMgmt f).early = s.early ∧ (s.setMgmt f).pending = s.pending :=
  ⟨rfl, rfl, rfl, rfl, rfl, rfl, rfl, rfl, rfl, rfl, rfl, rfl, rfl, rfl, rfl, rfl, rfl, rfl⟩

/-- The management engine alone. -/
@[simp] theorem State.markStaged_frame (b : Bool) :
    (s.markStaged b).powered = s.powered ∧ (s.markStaged b).wingA = s.wingA ∧ (s.markStaged b).wingB = s.wingB ∧
    (s.markStaged b).pos = s.pos ∧ (s.markStaged b).level = s.level ∧ (s.markStaged b).seats = s.seats ∧
    (s.markStaged b).clock = s.clock ∧ (s.markStaged b).cal = s.cal ∧ (s.markStaged b).floor = s.floor ∧
    (s.markStaged b).mic = s.mic ∧ (s.markStaged b).mix = s.mix ∧ (s.markStaged b).disp = s.disp ∧
    (s.markStaged b).link = s.link ∧ (s.markStaged b).cfg = s.cfg ∧ (s.markStaged b).store = s.store ∧
    (s.markStaged b).out = s.out ∧ (s.markStaged b).early = s.early ∧ (s.markStaged b).pending = s.pending :=
  ⟨rfl, rfl, rfl, rfl, rfl, rfl, rfl, rfl, rfl, rfl, rfl, rfl, rfl, rfl, rfl, rfl, rfl, rfl⟩

/-- The mix engine alone. -/
@[simp] theorem State.commit_frame :
    (s.commit).powered = s.powered ∧ (s.commit).wingA = s.wingA ∧ (s.commit).wingB = s.wingB ∧
    (s.commit).pos = s.pos ∧ (s.commit).level = s.level ∧ (s.commit).seats = s.seats ∧ (s.commit).clock = s.clock ∧
    (s.commit).cal = s.cal ∧ (s.commit).floor = s.floor ∧ (s.commit).mic = s.mic ∧ (s.commit).disp = s.disp ∧
    (s.commit).link = s.link ∧ (s.commit).mgmt = s.mgmt ∧ (s.commit).cfg = s.cfg ∧ (s.commit).store = s.store ∧
    (s.commit).out = s.out ∧ (s.commit).early = s.early ∧ (s.commit).pending = s.pending :=
  ⟨rfl, rfl, rfl, rfl, rfl, rfl, rfl, rfl, rfl, rfl, rfl, rfl, rfl, rfl, rfl, rfl, rfl, rfl⟩

/-- The mix engine alone. -/
@[simp] theorem State.transferDue_frame :
    (s.transferDue).powered = s.powered ∧ (s.transferDue).wingA = s.wingA ∧ (s.transferDue).wingB = s.wingB ∧
    (s.transferDue).pos = s.pos ∧ (s.transferDue).level = s.level ∧ (s.transferDue).seats = s.seats ∧
    (s.transferDue).clock = s.clock ∧ (s.transferDue).cal = s.cal ∧ (s.transferDue).floor = s.floor ∧
    (s.transferDue).mic = s.mic ∧ (s.transferDue).disp = s.disp ∧ (s.transferDue).link = s.link ∧
    (s.transferDue).mgmt = s.mgmt ∧ (s.transferDue).cfg = s.cfg ∧ (s.transferDue).store = s.store ∧
    (s.transferDue).out = s.out ∧ (s.transferDue).early = s.early ∧ (s.transferDue).pending = s.pending :=
  ⟨rfl, rfl, rfl, rfl, rfl, rfl, rfl, rfl, rfl, rfl, rfl, rfl, rfl, rfl, rfl, rfl, rfl, rfl⟩

/-- The facts of the cycle in the microphone block and the mix engine. -/
@[simp] theorem State.latchFacts_frame :
    (s.latchFacts).powered = s.powered ∧ (s.latchFacts).wingA = s.wingA ∧ (s.latchFacts).wingB = s.wingB ∧
    (s.latchFacts).pos = s.pos ∧ (s.latchFacts).level = s.level ∧ (s.latchFacts).seats = s.seats ∧
    (s.latchFacts).clock = s.clock ∧ (s.latchFacts).cal = s.cal ∧ (s.latchFacts).floor = s.floor ∧
    (s.latchFacts).disp = s.disp ∧ (s.latchFacts).link = s.link ∧ (s.latchFacts).mgmt = s.mgmt ∧
    (s.latchFacts).cfg = s.cfg ∧ (s.latchFacts).store = s.store ∧ (s.latchFacts).out = s.out ∧
    (s.latchFacts).early = s.early ∧ (s.latchFacts).pending = s.pending :=
  by simp [State.latchFacts]

/-- The slots of the cycle and the steps taken early. -/
@[simp] theorem State.clearSlots_frame :
    (s.clearSlots).powered = s.powered ∧ (s.clearSlots).wingA = s.wingA ∧ (s.clearSlots).wingB = s.wingB ∧
    (s.clearSlots).level = s.level ∧ (s.clearSlots).seats = s.seats ∧ (s.clearSlots).clock = s.clock ∧
    (s.clearSlots).cal = s.cal ∧ (s.clearSlots).floor = s.floor ∧ (s.clearSlots).mic = s.mic ∧
    (s.clearSlots).mix = s.mix ∧ (s.clearSlots).disp = s.disp ∧ (s.clearSlots).link = s.link ∧
    (s.clearSlots).mgmt = s.mgmt ∧ (s.clearSlots).cfg = s.cfg ∧ (s.clearSlots).store = s.store ∧
    (s.clearSlots).out = s.out ∧ (s.clearSlots).pending = s.pending :=
  by simp [State.clearSlots]

/-- The steps taken early alone. -/
@[simp] theorem State.takeEarly_frame (e : Early) :
    (s.takeEarly e).powered = s.powered ∧ (s.takeEarly e).wingA = s.wingA ∧ (s.takeEarly e).wingB = s.wingB ∧
    (s.takeEarly e).pos = s.pos ∧ (s.takeEarly e).level = s.level ∧ (s.takeEarly e).seats = s.seats ∧
    (s.takeEarly e).clock = s.clock ∧ (s.takeEarly e).cal = s.cal ∧ (s.takeEarly e).floor = s.floor ∧
    (s.takeEarly e).mic = s.mic ∧ (s.takeEarly e).mix = s.mix ∧ (s.takeEarly e).disp = s.disp ∧
    (s.takeEarly e).link = s.link ∧ (s.takeEarly e).mgmt = s.mgmt ∧ (s.takeEarly e).cfg = s.cfg ∧
    (s.takeEarly e).store = s.store ∧ (s.takeEarly e).out = s.out ∧ (s.takeEarly e).pending = s.pending :=
  ⟨rfl, rfl, rfl, rfl, rfl, rfl, rfl, rfl, rfl, rfl, rfl, rfl, rfl, rfl, rfl, rfl, rfl, rfl⟩

/-- The ports alone. -/
@[simp] theorem State.startPass_frame (w : Wing) :
    (s.startPass w).powered = s.powered ∧ (s.startPass w).pos = s.pos ∧ (s.startPass w).level = s.level ∧
    (s.startPass w).seats = s.seats ∧ (s.startPass w).clock = s.clock ∧ (s.startPass w).cal = s.cal ∧
    (s.startPass w).floor = s.floor ∧ (s.startPass w).mic = s.mic ∧ (s.startPass w).mix = s.mix ∧
    (s.startPass w).disp = s.disp ∧ (s.startPass w).link = s.link ∧ (s.startPass w).mgmt = s.mgmt ∧
    (s.startPass w).cfg = s.cfg ∧ (s.startPass w).store = s.store ∧ (s.startPass w).out = s.out ∧
    (s.startPass w).early = s.early ∧ (s.startPass w).pending = s.pending :=
  by simp [State.startPass]


@[simp] theorem State.setFloor_floor (f : Floor → Floor) : (s.setFloor f).floor = f s.floor := rfl
@[simp] theorem State.setMgmt_mgmt (f : Mgmt → Mgmt) : (s.setMgmt f).mgmt = f s.mgmt := rfl
@[simp] theorem State.setMic_recs (seat : Seat) (f : MicRec → MicRec) :
    (s.setMic seat f).mic.recs = modify s.mic.recs seat f := rfl
@[simp] theorem State.setMic_speakLimit (seat : Seat) (f : MicRec → MicRec) :
    (s.setMic seat f).mic.speakLimit = s.mic.speakLimit := rfl
@[simp] theorem State.setMic_limitAction (seat : Seat) (f : MicRec → MicRec) :
    (s.setMic seat f).mic.limitAction = s.mic.limitAction := rfl
@[simp] theorem State.setPos_pos (p : Pos) (f : PosRec → PosRec) : (s.setPos p f).pos = modify s.pos p f := rfl
@[simp] theorem State.setRec_recs (p : Pos) (f : SeatRec → SeatRec) :
    (s.setRec p f).seats.recs = modify s.seats.recs p f := rfl
@[simp] theorem State.setRec_chair (p : Pos) (f : SeatRec → SeatRec) : (s.setRec p f).seats.chair = s.seats.chair := rfl
@[simp] theorem State.setScreen_screens (e : Fin 4) (f : Screen → Screen) :
    (s.setScreen e f).disp.screens = modify s.disp.screens e f := rfl
@[simp] theorem State.setScreen_templates (e : Fin 4) (f : Screen → Screen) :
    (s.setScreen e f).disp.templates = s.disp.templates := rfl
@[simp] theorem State.setScreen_messages (e : Fin 4) (f : Screen → Screen) :
    (s.setScreen e f).disp.messages = s.disp.messages := rfl
@[simp] theorem State.setScreen_delivery (e : Fin 4) (f : Screen → Screen) :
    (s.setScreen e f).disp.delivery = s.disp.delivery := rfl
@[simp] theorem State.notice_link (k : Nat) (b : List Byte) :
    (s.notice k b).link = s.link.offerNotice k (b) := rfl
@[simp] theorem State.setWing_wing (w : Wing) (f : WingPort → WingPort) : (s.setWing w f).wing w = f (s.wing w) := by
  cases w <;> rfl
@[simp] theorem State.commit_mix : s.commit.mix = s.mix.commit s.store.halted := rfl
@[simp] theorem State.transferDue_mix : s.transferDue.mix = s.mix.transfer := rfl
@[simp] theorem State.takeEarly_early (e : Early) : (s.takeEarly e).early = e :: s.early := rfl

/-- Reading an entry of a table after one of its entries was changed. -/
theorem modify_get {α : Type} {n : Nat} (t : Vector α n) (i j : Fin n) (f : α → α) :
    (modify t i f)[j] = if j = i then f t[j] else t[j] := by
  unfold modify
  by_cases h : j = i
  · subst h; simp
  · have : i.val ≠ j.val := fun e => h (Fin.ext e.symm)
    simp [h, this]

theorem modify_get_self {α : Type} {n : Nat} (t : Vector α n) (i : Fin n) (f : α → α) : (modify t i f)[i] = f t[i] := by
  rw [modify_get, if_pos rfl]

theorem modify_get_ne {α : Type} {n : Nat} (t : Vector α n) {i j : Fin n} (h : j ≠ i) (f : α → α) :
    (modify t i f)[j] = t[j] := by
  rw [modify_get, if_neg h]

/-- Reading an entry of a table after every entry was changed. -/
theorem mapAll_get {α β : Type} {n : Nat} (t : Vector α n) (f : Fin n → α → β) (i : Fin n) :
    (mapAll t f)[i] = f i t[i] := by
  simp [mapAll]

/-- The microphone of a seat after a change of one seat's. -/
theorem State.micOf_setMic (seat other : Seat) (f : MicRec → MicRec) :
    (s.setMic seat f).micOf other = if other = seat then f (s.micOf other) else s.micOf other :=
  modify_get _ _ _ _

/-! ## The head of the transmit queue begins to be sent -/

@[simp] theorem Link.startSending_frame (l : Link) :
    l.startSending.queue = l.queue ∧ l.startSending.up = l.up ∧ l.startSending.learnt = l.learnt ∧
    l.startSending.expected = l.expected ∧ l.startSending.buffer = l.buffer ∧ l.startSending.station = l.station ∧
    l.startSending.groups = l.groups ∧ l.startSending.noticeDest = l.noticeDest ∧ l.startSending.audioDest = l.audioDest ∧
    l.startSending.outCounter = l.outCounter ∧ l.startSending.counters = l.counters ∧ l.startSending.lastAdmitted = l.lastAdmitted ∧
    l.startSending.held = l.held := by
  unfold Link.startSending; split
  · split <;> simp
  · simp

@[simp] theorem State.startSending_frame :
    s.startSending.powered = s.powered ∧ s.startSending.wingA = s.wingA ∧ s.startSending.wingB = s.wingB ∧ s.startSending.pos = s.pos ∧
    s.startSending.level = s.level ∧ s.startSending.seats = s.seats ∧ s.startSending.clock = s.clock ∧ s.startSending.cal = s.cal ∧
    s.startSending.floor = s.floor ∧ s.startSending.mic = s.mic ∧ s.startSending.mix = s.mix ∧ s.startSending.disp = s.disp ∧
    s.startSending.mgmt = s.mgmt ∧ s.startSending.cfg = s.cfg ∧ s.startSending.store = s.store ∧ s.startSending.out = s.out ∧
    s.startSending.early = s.early ∧ s.startSending.pending = s.pending := by
  unfold State.startSending; split <;> simp

/-- The queue and the line move where no restart is due, and stand as they are while one is. -/
theorem State.startSending_cases :
    ((∀ silent, s.mgmt.restart ≠ .due silent) ∧ s.startSending = { s with link := s.link.startSending }) ∨
    ((∃ silent, s.mgmt.restart = .due silent) ∧ s.startSending = s) := by
  unfold State.startSending; split <;> simp_all

/-- A sending that begins begins the head, and puts it on the line; a free line with a head to send is left by none. -/
theorem Link.startSending_cases (l : Link) :
    (l.up = true ∧ l.begun = false ∧ ∃ f rest, l.queue = f :: rest ∧
      l.startSending = { l with begun := true, line := l.line ++ [f] }) ∨
    (l.startSending = l ∧ (l.up = true → l.queue ≠ [] → l.begun = true)) := by
  unfold Link.startSending
  split
  · next f rest h => cases hu : l.up <;> cases hb : l.begun <;> simp [h]
  · next h => simp [h]

/-- What FRAME_SENT does to the queue and the line: the head leaves, and the AUDIO_OUT frames behind it are sent. -/
@[simp] theorem Link.headSent_frame (l : Link) :
    l.headSent.queue = l.queue.tail ∧ l.headSent.begun = false ∧ l.headSent.held = [] ∧
    l.headSent.line = l.line ++ l.held.map (·.frame) ∧ l.headSent.up = l.up ∧ l.headSent.learnt = l.learnt ∧
    l.headSent.buffer = l.buffer ∧ l.headSent.station = l.station ∧ l.headSent.groups = l.groups ∧
    l.headSent.noticeDest = l.noticeDest ∧ l.headSent.audioDest = l.audioDest ∧ l.headSent.outCounter = l.outCounter ∧
    l.headSent.counters = l.counters ∧ l.headSent.lastAdmitted = l.lastAdmitted := by
  simp [Link.headSent]

/-- The counter of the room send's clips alone. -/
@[simp] theorem State.countHeld_frame :
    s.countHeld.powered = s.powered ∧ s.countHeld.wingA = s.wingA ∧ s.countHeld.wingB = s.wingB ∧ s.countHeld.pos = s.pos ∧
    s.countHeld.level = s.level ∧ s.countHeld.seats = s.seats ∧ s.countHeld.clock = s.clock ∧ s.countHeld.cal = s.cal ∧
    s.countHeld.floor = s.floor ∧ s.countHeld.mic = s.mic ∧ s.countHeld.disp = s.disp ∧ s.countHeld.link = s.link ∧
    s.countHeld.mgmt = s.mgmt ∧ s.countHeld.cfg = s.cfg ∧ s.countHeld.store = s.store ∧ s.countHeld.out = s.out ∧
    s.countHeld.early = s.early ∧ s.countHeld.pending = s.pending ∧
    s.countHeld.mix.live = s.mix.live ∧ s.countHeld.mix.staged = s.mix.staged ∧ s.countHeld.mix.image = s.mix.image ∧
    s.countHeld.mix.pending = s.mix.pending ∧ s.countHeld.mix.due = s.mix.due ∧ s.countHeld.mix.outClips = s.mix.outClips ∧
    s.countHeld.mix.roomSend = s.mix.roomSend ∧ s.countHeld.mix.cycleLive = s.mix.cycleLive ∧ s.countHeld.mix.cycleChair = s.mix.cycleChair ∧
    s.countHeld.mix.cycleReturn = s.mix.cycleReturn := by
  unfold State.countHeld; split <;> simp

/-- The clips of the held frames are added, up to 65535; where no frame is held nothing is. -/
theorem State.countHeld_sendClips : s.countHeld.mix.sendClips =
    if s.link.held = [] then s.mix.sendClips else min 65535 (s.mix.sendClips + (s.link.held.map (·.clips)).sum) := by
  unfold State.countHeld; split <;> simp_all [satAdd, Link.heldClips]

end Sys2Proof.Machine
end

