-- ==== Sys2Proof/Laws/Frames.lean ====
section
/-! SUPPORT. The shared operations of Machine/Ops.lean: what each can change, and what it does to the fields it is named
for. A statement about a command cites these in place of unfolding an operation. -/

namespace Sys2Proof.Machine

/-- A fold keeps what each of its steps keeps. -/
theorem foldl_keeps {α β γ : Type} (g : β → γ) (f : β → α → β) (h : ∀ b a, g (f b a) = g b) (l : List α) (b : β) :
    g (l.foldl f b) = g b := by
  induction l generalizing b with
  | nil => rfl
  | cons a l ih => rw [List.foldl_cons, ih, h]

variable (s : State)

/-! ## Room screens and the change of the floor handed on -/

/-- A screen frame enters the transmit queue. -/
@[simp] theorem State.admitScreen_frame (e : Fin 4) :
    (s.admitScreen e).powered = s.powered ∧ (s.admitScreen e).wingA = s.wingA ∧ (s.admitScreen e).wingB = s.wingB ∧
    (s.admitScreen e).pos = s.pos ∧ (s.admitScreen e).level = s.level ∧ (s.admitScreen e).seats = s.seats ∧
    (s.admitScreen e).clock = s.clock ∧ (s.admitScreen e).cal = s.cal ∧ (s.admitScreen e).floor = s.floor ∧
    (s.admitScreen e).mic = s.mic ∧ (s.admitScreen e).mix = s.mix ∧ (s.admitScreen e).mgmt = s.mgmt ∧
    (s.admitScreen e).cfg = s.cfg ∧ (s.admitScreen e).store = s.store ∧ (s.admitScreen e).out = s.out ∧
    (s.admitScreen e).early = s.early ∧ (s.admitScreen e).pending = s.pending := by
  unfold State.admitScreen; split <;> simp

/-- A screen frame is handed to the port. -/
@[simp] theorem State.offerScreen_frame (e : Fin 4) :
    (s.offerScreen e).powered = s.powered ∧ (s.offerScreen e).wingA = s.wingA ∧ (s.offerScreen e).wingB = s.wingB ∧
    (s.offerScreen e).pos = s.pos ∧ (s.offerScreen e).level = s.level ∧ (s.offerScreen e).seats = s.seats ∧
    (s.offerScreen e).clock = s.clock ∧ (s.offerScreen e).cal = s.cal ∧ (s.offerScreen e).floor = s.floor ∧
    (s.offerScreen e).mic = s.mic ∧ (s.offerScreen e).mix = s.mix ∧ (s.offerScreen e).mgmt = s.mgmt ∧
    (s.offerScreen e).cfg = s.cfg ∧ (s.offerScreen e).store = s.store ∧ (s.offerScreen e).out = s.out ∧
    (s.offerScreen e).early = s.early ∧ (s.offerScreen e).pending = s.pending := by
  unfold State.offerScreen; split <;> simp

/-- A screen entry renders again. -/
@[simp] theorem State.refreshScreen_frame (e : Fin 4) :
    (s.refreshScreen e).powered = s.powered ∧ (s.refreshScreen e).wingA = s.wingA ∧
    (s.refreshScreen e).wingB = s.wingB ∧ (s.refreshScreen e).pos = s.pos ∧ (s.refreshScreen e).level = s.level ∧
    (s.refreshScreen e).seats = s.seats ∧ (s.refreshScreen e).clock = s.clock ∧ (s.refreshScreen e).cal = s.cal ∧
    (s.refreshScreen e).floor = s.floor ∧ (s.refreshScreen e).mic = s.mic ∧ (s.refreshScreen e).mix = s.mix ∧
    (s.refreshScreen e).mgmt = s.mgmt ∧ (s.refreshScreen e).cfg = s.cfg ∧ (s.refreshScreen e).store = s.store ∧
    (s.refreshScreen e).out = s.out ∧ (s.refreshScreen e).early = s.early ∧ (s.refreshScreen e).pending = s.pending := by
  unfold State.refreshScreen; simp only; repeat' split
  all_goals simp

/-- Every screen entry renders again. -/
@[simp] theorem State.refreshScreens_frame :
    (s.refreshScreens).powered = s.powered ∧ (s.refreshScreens).wingA = s.wingA ∧
    (s.refreshScreens).wingB = s.wingB ∧ (s.refreshScreens).pos = s.pos ∧ (s.refreshScreens).level = s.level ∧
    (s.refreshScreens).seats = s.seats ∧ (s.refreshScreens).clock = s.clock ∧ (s.refreshScreens).cal = s.cal ∧
    (s.refreshScreens).floor = s.floor ∧ (s.refreshScreens).mic = s.mic ∧ (s.refreshScreens).mix = s.mix ∧
    (s.refreshScreens).mgmt = s.mgmt ∧ (s.refreshScreens).cfg = s.cfg ∧ (s.refreshScreens).store = s.store ∧
    (s.refreshScreens).out = s.out ∧ (s.refreshScreens).early = s.early ∧ (s.refreshScreens).pending = s.pending := by
  unfold State.refreshScreens
  refine ⟨?_, ?_, ?_, ?_, ?_, ?_, ?_, ?_, ?_, ?_, ?_, ?_, ?_, ?_, ?_, ?_, ?_⟩ <;> exact foldl_keeps _ _ (fun b a => by simp) _ _

/-- A change of the floor is handed on. -/
@[simp] theorem State.floorChange_frame (seat : Nat) (ev : FloorEvent) (r c n : Nat) :
    (s.floorChange seat ev r c n).powered = s.powered ∧ (s.floorChange seat ev r c n).wingA = s.wingA ∧
    (s.floorChange seat ev r c n).wingB = s.wingB ∧ (s.floorChange seat ev r c n).pos = s.pos ∧
    (s.floorChange seat ev r c n).level = s.level ∧ (s.floorChange seat ev r c n).seats = s.seats ∧
    (s.floorChange seat ev r c n).clock = s.clock ∧ (s.floorChange seat ev r c n).cal = s.cal ∧
    (s.floorChange seat ev r c n).floor = s.floor ∧ (s.floorChange seat ev r c n).mic = s.mic ∧
    (s.floorChange seat ev r c n).mix = s.mix ∧ (s.floorChange seat ev r c n).mgmt = s.mgmt ∧
    (s.floorChange seat ev r c n).cfg = s.cfg ∧ (s.floorChange seat ev r c n).store = s.store ∧
    (s.floorChange seat ev r c n).out = s.out ∧ (s.floorChange seat ev r c n).early = s.early ∧
    (s.floorChange seat ev r c n).pending = s.pending := by
  unfold State.floorChange; simp

/-! ## Microphones -/

/-- A microphone may leave OPEN. -/
@[simp] theorem State.leaveOpen_frame (seat : Seat) :
    (s.leaveOpen seat).powered = s.powered ∧ (s.leaveOpen seat).wingA = s.wingA ∧
    (s.leaveOpen seat).wingB = s.wingB ∧ (s.leaveOpen seat).pos = s.pos ∧ (s.leaveOpen seat).level = s.level ∧
    (s.leaveOpen seat).clock = s.clock ∧ (s.leaveOpen seat).cal = s.cal ∧ (s.leaveOpen seat).floor = s.floor ∧
    (s.leaveOpen seat).mix = s.mix ∧ (s.leaveOpen seat).disp = s.disp ∧ (s.leaveOpen seat).link = s.link ∧
    (s.leaveOpen seat).mgmt = s.mgmt ∧ (s.leaveOpen seat).cfg = s.cfg ∧ (s.leaveOpen seat).store = s.store ∧
    (s.leaveOpen seat).out = s.out ∧ (s.leaveOpen seat).early = s.early ∧ (s.leaveOpen seat).pending = s.pending := by
  unfold State.leaveOpen; split <;> simp

/-- A removal at a microphone. -/
@[simp] theorem State.micRemove_frame (seat : Seat) :
    (s.micRemove seat).powered = s.powered ∧ (s.micRemove seat).wingA = s.wingA ∧
    (s.micRemove seat).wingB = s.wingB ∧ (s.micRemove seat).pos = s.pos ∧ (s.micRemove seat).level = s.level ∧
    (s.micRemove seat).clock = s.clock ∧ (s.micRemove seat).cal = s.cal ∧ (s.micRemove seat).floor = s.floor ∧
    (s.micRemove seat).mix = s.mix ∧ (s.micRemove seat).disp = s.disp ∧ (s.micRemove seat).link = s.link ∧
    (s.micRemove seat).mgmt = s.mgmt ∧ (s.micRemove seat).cfg = s.cfg ∧ (s.micRemove seat).store = s.store ∧
    (s.micRemove seat).out = s.out ∧ (s.micRemove seat).early = s.early ∧ (s.micRemove seat).pending = s.pending := by
  unfold State.micRemove; split <;> simp

/-- A microphone is closed at once. -/
@[simp] theorem State.micClose_frame (seat : Seat) :
    (s.micClose seat).powered = s.powered ∧ (s.micClose seat).wingA = s.wingA ∧ (s.micClose seat).wingB = s.wingB ∧
    (s.micClose seat).pos = s.pos ∧ (s.micClose seat).level = s.level ∧ (s.micClose seat).clock = s.clock ∧
    (s.micClose seat).cal = s.cal ∧ (s.micClose seat).floor = s.floor ∧ (s.micClose seat).mix = s.mix ∧
    (s.micClose seat).disp = s.disp ∧ (s.micClose seat).link = s.link ∧ (s.micClose seat).mgmt = s.mgmt ∧
    (s.micClose seat).cfg = s.cfg ∧ (s.micClose seat).store = s.store ∧ (s.micClose seat).out = s.out ∧
    (s.micClose seat).early = s.early ∧ (s.micClose seat).pending = s.pending := by
  unfold State.micClose; simp

/-! ## The floor's two collections -/

/-- A seat refusal (04 R75): neither collection changes. -/
@[simp] theorem State.refuse_frame (seat : Seat) (r : Refuse) (k : PressKind) :
    (s.refuse seat r k).powered = s.powered ∧ (s.refuse seat r k).wingA = s.wingA ∧
    (s.refuse seat r k).wingB = s.wingB ∧ (s.refuse seat r k).pos = s.pos ∧ (s.refuse seat r k).level = s.level ∧
    (s.refuse seat r k).seats = s.seats ∧ (s.refuse seat r k).clock = s.clock ∧ (s.refuse seat r k).floor = s.floor ∧
    (s.refuse seat r k).mix = s.mix ∧ (s.refuse seat r k).disp = s.disp ∧ (s.refuse seat r k).mgmt = s.mgmt ∧
    (s.refuse seat r k).cfg = s.cfg ∧ (s.refuse seat r k).store = s.store ∧ (s.refuse seat r k).out = s.out ∧
    (s.refuse seat r k).early = s.early ∧ (s.refuse seat r k).pending = s.pending := by
  unfold State.refuse; simp

/-- A seat leaves the queue. -/
@[simp] theorem State.dequeue_frame (seat : Seat) :
    (s.dequeue seat).powered = s.powered ∧ (s.dequeue seat).wingA = s.wingA ∧ (s.dequeue seat).wingB = s.wingB ∧
    (s.dequeue seat).pos = s.pos ∧ (s.dequeue seat).level = s.level ∧ (s.dequeue seat).seats = s.seats ∧
    (s.dequeue seat).clock = s.clock ∧ (s.dequeue seat).cal = s.cal ∧ (s.dequeue seat).mix = s.mix ∧
    (s.dequeue seat).disp = s.disp ∧ (s.dequeue seat).link = s.link ∧ (s.dequeue seat).mgmt = s.mgmt ∧
    (s.dequeue seat).cfg = s.cfg ∧ (s.dequeue seat).store = s.store ∧ (s.dequeue seat).out = s.out ∧
    (s.dequeue seat).early = s.early ∧ (s.dequeue seat).pending = s.pending := by
  unfold State.dequeue; split <;> simp

/-- A grant. -/
@[simp] theorem State.grantSeat_frame (seat : Seat) (c : Source) :
    (s.grantSeat seat c).powered = s.powered ∧ (s.grantSeat seat c).wingA = s.wingA ∧
    (s.grantSeat seat c).wingB = s.wingB ∧ (s.grantSeat seat c).pos = s.pos ∧ (s.grantSeat seat c).level = s.level ∧
    (s.grantSeat seat c).seats = s.seats ∧ (s.grantSeat seat c).clock = s.clock ∧ (s.grantSeat seat c).cal = s.cal ∧
    (s.grantSeat seat c).mix = s.mix ∧ (s.grantSeat seat c).mgmt = s.mgmt ∧ (s.grantSeat seat c).cfg = s.cfg ∧
    (s.grantSeat seat c).store = s.store ∧ (s.grantSeat seat c).out = s.out ∧ (s.grantSeat seat c).early = s.early ∧
    (s.grantSeat seat c).pending = s.pending := by
  unfold State.grantSeat; simp

/-- A removal from the open list. -/
@[simp] theorem State.removeCore_frame (seat : Seat) (r : Reason) :
    (s.removeCore seat r).powered = s.powered ∧ (s.removeCore seat r).wingA = s.wingA ∧
    (s.removeCore seat r).wingB = s.wingB ∧ (s.removeCore seat r).pos = s.pos ∧
    (s.removeCore seat r).level = s.level ∧ (s.removeCore seat r).clock = s.clock ∧
    (s.removeCore seat r).cal = s.cal ∧ (s.removeCore seat r).mix = s.mix ∧ (s.removeCore seat r).mgmt = s.mgmt ∧
    (s.removeCore seat r).cfg = s.cfg ∧ (s.removeCore seat r).store = s.store ∧ (s.removeCore seat r).out = s.out ∧
    (s.removeCore seat r).early = s.early ∧ (s.removeCore seat r).pending = s.pending := by
  unfold State.removeCore; split
  · simp
  · simp only; split <;> simp

/-- A withdrawal from the queue. -/
@[simp] theorem State.withdraw_frame (seat : Seat) (r : Reason) :
    (s.withdraw seat r).powered = s.powered ∧ (s.withdraw seat r).wingA = s.wingA ∧
    (s.withdraw seat r).wingB = s.wingB ∧ (s.withdraw seat r).pos = s.pos ∧ (s.withdraw seat r).level = s.level ∧
    (s.withdraw seat r).seats = s.seats ∧ (s.withdraw seat r).clock = s.clock ∧ (s.withdraw seat r).cal = s.cal ∧
    (s.withdraw seat r).mix = s.mix ∧ (s.withdraw seat r).mgmt = s.mgmt ∧ (s.withdraw seat r).cfg = s.cfg ∧
    (s.withdraw seat r).store = s.store ∧ (s.withdraw seat r).out = s.out ∧ (s.withdraw seat r).early = s.early ∧
    (s.withdraw seat r).pending = s.pending := by
  unfold State.withdraw; split <;> simp

/-- A new entry of the queue. -/
@[simp] theorem State.enqueue_frame (seat : Seat) (c : Source) :
    (s.enqueue seat c).powered = s.powered ∧ (s.enqueue seat c).wingA = s.wingA ∧
    (s.enqueue seat c).wingB = s.wingB ∧ (s.enqueue seat c).pos = s.pos ∧ (s.enqueue seat c).level = s.level ∧
    (s.enqueue seat c).seats = s.seats ∧ (s.enqueue seat c).clock = s.clock ∧ (s.enqueue seat c).cal = s.cal ∧
    (s.enqueue seat c).mix = s.mix ∧ (s.enqueue seat c).mgmt = s.mgmt ∧ (s.enqueue seat c).cfg = s.cfg ∧
    (s.enqueue seat c).store = s.store ∧ (s.enqueue seat c).out = s.out ∧ (s.enqueue seat c).early = s.early ∧
    (s.enqueue seat c).pending = s.pending := by
  unfold State.enqueue; simp

/-- Queued marks become no. -/
@[simp] theorem State.unqueueAll_frame (l : List QueueEntry) :
    (s.unqueueAll l).powered = s.powered ∧ (s.unqueueAll l).wingA = s.wingA ∧ (s.unqueueAll l).wingB = s.wingB ∧
    (s.unqueueAll l).pos = s.pos ∧ (s.unqueueAll l).level = s.level ∧ (s.unqueueAll l).seats = s.seats ∧
    (s.unqueueAll l).clock = s.clock ∧ (s.unqueueAll l).cal = s.cal ∧ (s.unqueueAll l).floor = s.floor ∧
    (s.unqueueAll l).mix = s.mix ∧ (s.unqueueAll l).disp = s.disp ∧ (s.unqueueAll l).link = s.link ∧
    (s.unqueueAll l).mgmt = s.mgmt ∧ (s.unqueueAll l).cfg = s.cfg ∧ (s.unqueueAll l).store = s.store ∧
    (s.unqueueAll l).out = s.out ∧ (s.unqueueAll l).early = s.early ∧ (s.unqueueAll l).pending = s.pending := by
  unfold State.unqueueAll
  refine ⟨?_, ?_, ?_, ?_, ?_, ?_, ?_, ?_, ?_, ?_, ?_, ?_, ?_, ?_, ?_, ?_, ?_, ?_⟩ <;> exact foldl_keeps _ _ (fun b a => by simp) _ _

/-- A whole-queue clear. -/
@[simp] theorem State.clearQueue_frame (r : Reason) :
    (s.clearQueue r).powered = s.powered ∧ (s.clearQueue r).wingA = s.wingA ∧ (s.clearQueue r).wingB = s.wingB ∧
    (s.clearQueue r).pos = s.pos ∧ (s.clearQueue r).level = s.level ∧ (s.clearQueue r).seats = s.seats ∧
    (s.clearQueue r).clock = s.clock ∧ (s.clearQueue r).cal = s.cal ∧ (s.clearQueue r).mix = s.mix ∧
    (s.clearQueue r).mgmt = s.mgmt ∧ (s.clearQueue r).cfg = s.cfg ∧ (s.clearQueue r).store = s.store ∧
    (s.clearQueue r).out = s.out ∧ (s.clearQueue r).early = s.early ∧ (s.clearQueue r).pending = s.pending := by
  unfold State.clearQueue; simp

/-- The auto-advance loop makes grants. -/
theorem State.advanceLoop_frame (n : Nat) (s : State) :
    (State.advanceLoop n s).powered = s.powered ∧ (State.advanceLoop n s).wingA = s.wingA ∧ (State.advanceLoop n s).wingB = s.wingB ∧ (State.advanceLoop n s).pos = s.pos ∧
    (State.advanceLoop n s).level = s.level ∧ (State.advanceLoop n s).seats = s.seats ∧ (State.advanceLoop n s).clock = s.clock ∧ (State.advanceLoop n s).cal = s.cal ∧ (State.advanceLoop n s).mix = s.mix ∧
    (State.advanceLoop n s).mgmt = s.mgmt ∧ (State.advanceLoop n s).cfg = s.cfg ∧ (State.advanceLoop n s).store = s.store ∧ (State.advanceLoop n s).out = s.out ∧ (State.advanceLoop n s).early = s.early ∧
    (State.advanceLoop n s).pending = s.pending := by
  induction n generalizing s with
  | zero => simp [State.advanceLoop]
  | succ n ih =>
    unfold State.advanceLoop
    split
    · simp
    · split
      · simp [ih]
      · simp

/-- An auto-advance check. -/
@[simp] theorem State.autoAdvance_frame :
    (s.autoAdvance).powered = s.powered ∧ (s.autoAdvance).wingA = s.wingA ∧ (s.autoAdvance).wingB = s.wingB ∧
    (s.autoAdvance).pos = s.pos ∧ (s.autoAdvance).level = s.level ∧ (s.autoAdvance).seats = s.seats ∧
    (s.autoAdvance).clock = s.clock ∧ (s.autoAdvance).cal = s.cal ∧ (s.autoAdvance).mix = s.mix ∧
    (s.autoAdvance).mgmt = s.mgmt ∧ (s.autoAdvance).cfg = s.cfg ∧ (s.autoAdvance).store = s.store ∧
    (s.autoAdvance).out = s.out ∧ (s.autoAdvance).early = s.early ∧ (s.autoAdvance).pending = s.pending := by
  unfold State.autoAdvance; split <;> simp [State.advanceLoop_frame]

/-! ## Sessions and the calendar: what they reach -/

/-- A session start. -/
@[simp] theorem State.startSession_frame (b : Booking) :
    (s.startSession b).powered = s.powered ∧ (s.startSession b).wingA = s.wingA ∧
    (s.startSession b).wingB = s.wingB ∧ (s.startSession b).pos = s.pos ∧ (s.startSession b).level = s.level ∧
    (s.startSession b).clock = s.clock ∧ (s.startSession b).mgmt = s.mgmt ∧ (s.startSession b).cfg = s.cfg ∧
    (s.startSession b).store = s.store ∧ (s.startSession b).out = s.out ∧ (s.startSession b).early = s.early ∧
    (s.startSession b).pending = s.pending := by
  unfold State.startSession; simp

/-- MISSED bookings are removed. -/
@[simp] theorem State.removeMissed_frame :
    (s.removeMissed).powered = s.powered ∧ (s.removeMissed).wingA = s.wingA ∧ (s.removeMissed).wingB = s.wingB ∧
    (s.removeMissed).pos = s.pos ∧ (s.removeMissed).level = s.level ∧ (s.removeMissed).seats = s.seats ∧
    (s.removeMissed).clock = s.clock ∧ (s.removeMissed).floor = s.floor ∧ (s.removeMissed).mic = s.mic ∧
    (s.removeMissed).mix = s.mix ∧ (s.removeMissed).disp = s.disp ∧ (s.removeMissed).mgmt = s.mgmt ∧
    (s.removeMissed).cfg = s.cfg ∧ (s.removeMissed).store = s.store ∧ (s.removeMissed).out = s.out ∧
    (s.removeMissed).early = s.early ∧ (s.removeMissed).pending = s.pending := by
  unfold State.removeMissed; simp only; split <;> simp

/-- The next booking is tested. -/
@[simp] theorem State.testNext_frame :
    (s.testNext).powered = s.powered ∧ (s.testNext).wingA = s.wingA ∧ (s.testNext).wingB = s.wingB ∧
    (s.testNext).pos = s.pos ∧ (s.testNext).level = s.level ∧ (s.testNext).clock = s.clock ∧
    (s.testNext).mgmt = s.mgmt ∧ (s.testNext).cfg = s.cfg ∧ (s.testNext).store = s.store ∧ (s.testNext).out = s.out ∧
    (s.testNext).early = s.early ∧ (s.testNext).pending = s.pending := by
  unfold State.testNext; repeat' split
  all_goals simp

/-- An evaluation in VACANT or ARMED. -/
@[simp] theorem State.evaluateIdle_frame :
    (s.evaluateIdle).powered = s.powered ∧ (s.evaluateIdle).wingA = s.wingA ∧ (s.evaluateIdle).wingB = s.wingB ∧
    (s.evaluateIdle).pos = s.pos ∧ (s.evaluateIdle).level = s.level ∧ (s.evaluateIdle).clock = s.clock ∧
    (s.evaluateIdle).mgmt = s.mgmt ∧ (s.evaluateIdle).cfg = s.cfg ∧ (s.evaluateIdle).store = s.store ∧
    (s.evaluateIdle).out = s.out ∧ (s.evaluateIdle).early = s.early ∧ (s.evaluateIdle).pending = s.pending := by
  unfold State.evaluateIdle; split <;> simp

/-- CLOSING completes. -/
@[simp] theorem State.completeClosing_frame :
    (s.completeClosing).powered = s.powered ∧ (s.completeClosing).wingA = s.wingA ∧
    (s.completeClosing).wingB = s.wingB ∧ (s.completeClosing).pos = s.pos ∧ (s.completeClosing).level = s.level ∧
    (s.completeClosing).clock = s.clock ∧ (s.completeClosing).mgmt = s.mgmt ∧ (s.completeClosing).cfg = s.cfg ∧
    (s.completeClosing).store = s.store ∧ (s.completeClosing).out = s.out ∧ (s.completeClosing).early = s.early ∧
    (s.completeClosing).pending = s.pending := by
  unfold State.completeClosing; simp

/-- The report of every microphone CLOSED. -/
@[simp] theorem State.reportClosed_frame :
    (s.reportClosed).powered = s.powered ∧ (s.reportClosed).wingA = s.wingA ∧ (s.reportClosed).wingB = s.wingB ∧
    (s.reportClosed).pos = s.pos ∧ (s.reportClosed).level = s.level ∧ (s.reportClosed).clock = s.clock ∧
    (s.reportClosed).mgmt = s.mgmt ∧ (s.reportClosed).cfg = s.cfg ∧ (s.reportClosed).store = s.store ∧
    (s.reportClosed).out = s.out ∧ (s.reportClosed).early = s.early ∧ (s.reportClosed).pending = s.pending := by
  unfold State.reportClosed; split <;> simp

/-- Several removals in turn. -/
@[simp] theorem State.removeAll_frame (l : List OpenEntry) (r : Reason) :
    (s.removeAll l r).powered = s.powered ∧ (s.removeAll l r).wingA = s.wingA ∧ (s.removeAll l r).wingB = s.wingB ∧
    (s.removeAll l r).pos = s.pos ∧ (s.removeAll l r).level = s.level ∧ (s.removeAll l r).clock = s.clock ∧
    (s.removeAll l r).cal = s.cal ∧ (s.removeAll l r).mix = s.mix ∧ (s.removeAll l r).mgmt = s.mgmt ∧
    (s.removeAll l r).cfg = s.cfg ∧ (s.removeAll l r).store = s.store ∧ (s.removeAll l r).out = s.out ∧
    (s.removeAll l r).early = s.early ∧ (s.removeAll l r).pending = s.pending := by
  unfold State.removeAll
  refine ⟨?_, ?_, ?_, ?_, ?_, ?_, ?_, ?_, ?_, ?_, ?_, ?_, ?_, ?_⟩ <;> exact foldl_keeps _ _ (fun b a => by simp) _ _

/-- CLOSING begins. -/
@[simp] theorem State.startClosing_frame (c : EndCause) :
    (s.startClosing c).powered = s.powered ∧ (s.startClosing c).wingA = s.wingA ∧
    (s.startClosing c).wingB = s.wingB ∧ (s.startClosing c).pos = s.pos ∧ (s.startClosing c).level = s.level ∧
    (s.startClosing c).clock = s.clock ∧ (s.startClosing c).mgmt = s.mgmt ∧ (s.startClosing c).cfg = s.cfg ∧
    (s.startClosing c).store = s.store ∧ (s.startClosing c).out = s.out ∧ (s.startClosing c).early = s.early ∧
    (s.startClosing c).pending = s.pending := by
  unfold State.startClosing; simp

/-- A removal with what follows from it. -/
@[simp] theorem State.removeEntry_frame (seat : Seat) (r : Reason) :
    (s.removeEntry seat r).powered = s.powered ∧ (s.removeEntry seat r).wingA = s.wingA ∧
    (s.removeEntry seat r).wingB = s.wingB ∧ (s.removeEntry seat r).pos = s.pos ∧
    (s.removeEntry seat r).level = s.level ∧ (s.removeEntry seat r).clock = s.clock ∧
    (s.removeEntry seat r).mgmt = s.mgmt ∧ (s.removeEntry seat r).cfg = s.cfg ∧
    (s.removeEntry seat r).store = s.store ∧ (s.removeEntry seat r).out = s.out ∧
    (s.removeEntry seat r).early = s.early ∧ (s.removeEntry seat r).pending = s.pending := by
  unfold State.removeEntry; simp only; repeat' split
  all_goals simp

/-- A removal and the check after it. -/
@[simp] theorem State.removeThenAdvance_frame (seat : Seat) (r : Reason) :
    (s.removeThenAdvance seat r).powered = s.powered ∧ (s.removeThenAdvance seat r).wingA = s.wingA ∧
    (s.removeThenAdvance seat r).wingB = s.wingB ∧ (s.removeThenAdvance seat r).pos = s.pos ∧
    (s.removeThenAdvance seat r).level = s.level ∧ (s.removeThenAdvance seat r).clock = s.clock ∧
    (s.removeThenAdvance seat r).mgmt = s.mgmt ∧ (s.removeThenAdvance seat r).cfg = s.cfg ∧
    (s.removeThenAdvance seat r).store = s.store ∧ (s.removeThenAdvance seat r).out = s.out ∧
    (s.removeThenAdvance seat r).early = s.early ∧ (s.removeThenAdvance seat r).pending = s.pending := by
  unfold State.removeThenAdvance; split <;> simp

/-- Removals with MAX_REDUCED. -/
theorem State.reduceLoop_frame (n : Nat) (s : State) :
    (State.reduceLoop n s).powered = s.powered ∧ (State.reduceLoop n s).wingA = s.wingA ∧ (State.reduceLoop n s).wingB = s.wingB ∧ (State.reduceLoop n s).pos = s.pos ∧
    (State.reduceLoop n s).level = s.level ∧ (State.reduceLoop n s).clock = s.clock ∧ (State.reduceLoop n s).mgmt = s.mgmt ∧ (State.reduceLoop n s).cfg = s.cfg ∧ (State.reduceLoop n s).store = s.store ∧
    (State.reduceLoop n s).out = s.out ∧ (State.reduceLoop n s).early = s.early ∧ (State.reduceLoop n s).pending = s.pending := by
  induction n generalizing s with
  | zero => simp [State.reduceLoop]
  | succ n ih =>
    unfold State.reduceLoop
    split
    · split
      · simp [ih]
      · simp
    · simp

/-- The open list is brought down to max_open. -/
@[simp] theorem State.reduceOpen_frame :
    (s.reduceOpen).powered = s.powered ∧ (s.reduceOpen).wingA = s.wingA ∧ (s.reduceOpen).wingB = s.wingB ∧
    (s.reduceOpen).pos = s.pos ∧ (s.reduceOpen).level = s.level ∧ (s.reduceOpen).clock = s.clock ∧
    (s.reduceOpen).mgmt = s.mgmt ∧ (s.reduceOpen).cfg = s.cfg ∧ (s.reduceOpen).store = s.store ∧
    (s.reduceOpen).out = s.out ∧ (s.reduceOpen).early = s.early ∧ (s.reduceOpen).pending = s.pending := by
  unfold State.reduceOpen; simp [State.reduceLoop_frame]

/-- The end of the session is tested. -/
@[simp] theorem State.testEnd_frame :
    (s.testEnd).powered = s.powered ∧ (s.testEnd).wingA = s.wingA ∧ (s.testEnd).wingB = s.wingB ∧
    (s.testEnd).pos = s.pos ∧ (s.testEnd).level = s.level ∧ (s.testEnd).clock = s.clock ∧ (s.testEnd).mgmt = s.mgmt ∧
    (s.testEnd).cfg = s.cfg ∧ (s.testEnd).store = s.store ∧ (s.testEnd).out = s.out ∧ (s.testEnd).early = s.early ∧
    (s.testEnd).pending = s.pending := by
  unfold State.testEnd; simp only; repeat' split
  all_goals simp

/-- A calendar evaluation. -/
@[simp] theorem State.evaluate_frame :
    (s.evaluate).powered = s.powered ∧ (s.evaluate).wingA = s.wingA ∧ (s.evaluate).wingB = s.wingB ∧
    (s.evaluate).pos = s.pos ∧ (s.evaluate).level = s.level ∧ (s.evaluate).clock = s.clock ∧
    (s.evaluate).mgmt = s.mgmt ∧ (s.evaluate).cfg = s.cfg ∧ (s.evaluate).store = s.store ∧ (s.evaluate).out = s.out ∧
    (s.evaluate).early = s.early ∧ (s.evaluate).pending = s.pending := by
  unfold State.evaluate; repeat' split
  all_goals simp

/-- A limit evaluation. -/
@[simp] theorem State.evaluateLimit_frame (seat : Seat) :
    (s.evaluateLimit seat).powered = s.powered ∧ (s.evaluateLimit seat).wingA = s.wingA ∧
    (s.evaluateLimit seat).wingB = s.wingB ∧ (s.evaluateLimit seat).pos = s.pos ∧
    (s.evaluateLimit seat).level = s.level ∧ (s.evaluateLimit seat).clock = s.clock ∧
    (s.evaluateLimit seat).mgmt = s.mgmt ∧ (s.evaluateLimit seat).cfg = s.cfg ∧
    (s.evaluateLimit seat).store = s.store ∧ (s.evaluateLimit seat).out = s.out ∧
    (s.evaluateLimit seat).early = s.early ∧ (s.evaluateLimit seat).pending = s.pending := by
  unfold State.evaluateLimit; simp only; repeat' split
  all_goals simp

/-- A KEY notice. -/
@[simp] theorem State.keyNotice_frame (seat : Seat) :
    (s.keyNotice seat).powered = s.powered ∧ (s.keyNotice seat).wingA = s.wingA ∧
    (s.keyNotice seat).wingB = s.wingB ∧ (s.keyNotice seat).pos = s.pos ∧ (s.keyNotice seat).level = s.level ∧
    (s.keyNotice seat).clock = s.clock ∧ (s.keyNotice seat).mgmt = s.mgmt ∧ (s.keyNotice seat).cfg = s.cfg ∧
    (s.keyNotice seat).store = s.store ∧ (s.keyNotice seat).out = s.out ∧ (s.keyNotice seat).early = s.early ∧
    (s.keyNotice seat).pending = s.pending := by
  unfold State.keyNotice; split <;> simp

/-- A class change handed on. -/
@[simp] theorem State.classChange_frame (seat : Seat) (c : SeatClass) :
    (s.classChange seat c).powered = s.powered ∧ (s.classChange seat c).wingA = s.wingA ∧
    (s.classChange seat c).wingB = s.wingB ∧ (s.classChange seat c).pos = s.pos ∧
    (s.classChange seat c).level = s.level ∧ (s.classChange seat c).clock = s.clock ∧
    (s.classChange seat c).mgmt = s.mgmt ∧ (s.classChange seat c).cfg = s.cfg ∧
    (s.classChange seat c).store = s.store ∧ (s.classChange seat c).out = s.out ∧
    (s.classChange seat c).early = s.early ∧ (s.classChange seat c).pending = s.pending := by
  unfold State.classChange; simp only; repeat' split
  all_goals simp

/-- A permission evaluated again. -/
@[simp] theorem State.permissionChange_frame (seat : Seat) (b : Bool) :
    (s.permissionChange seat b).powered = s.powered ∧ (s.permissionChange seat b).wingA = s.wingA ∧
    (s.permissionChange seat b).wingB = s.wingB ∧ (s.permissionChange seat b).pos = s.pos ∧
    (s.permissionChange seat b).level = s.level ∧ (s.permissionChange seat b).clock = s.clock ∧
    (s.permissionChange seat b).mgmt = s.mgmt ∧ (s.permissionChange seat b).cfg = s.cfg ∧
    (s.permissionChange seat b).store = s.store ∧ (s.permissionChange seat b).out = s.out ∧
    (s.permissionChange seat b).early = s.early ∧ (s.permissionChange seat b).pending = s.pending := by
  unfold State.permissionChange; split <;> simp

/-- A loss at the floor controller. -/
@[simp] theorem State.floorLost_frame (seat : Seat) :
    (s.floorLost seat).powered = s.powered ∧ (s.floorLost seat).wingA = s.wingA ∧
    (s.floorLost seat).wingB = s.wingB ∧ (s.floorLost seat).pos = s.pos ∧ (s.floorLost seat).level = s.level ∧
    (s.floorLost seat).clock = s.clock ∧ (s.floorLost seat).mgmt = s.mgmt ∧ (s.floorLost seat).cfg = s.cfg ∧
    (s.floorLost seat).store = s.store ∧ (s.floorLost seat).out = s.out ∧ (s.floorLost seat).early = s.early ∧
    (s.floorLost seat).pending = s.pending := by
  unfold State.floorLost; simp only; split <;> simp

/-- A loss at the microphone state block. -/
@[simp] theorem State.micLost_frame (seat : Seat) :
    (s.micLost seat).powered = s.powered ∧ (s.micLost seat).wingA = s.wingA ∧ (s.micLost seat).wingB = s.wingB ∧
    (s.micLost seat).pos = s.pos ∧ (s.micLost seat).level = s.level ∧ (s.micLost seat).clock = s.clock ∧
    (s.micLost seat).mgmt = s.mgmt ∧ (s.micLost seat).cfg = s.cfg ∧ (s.micLost seat).store = s.store ∧
    (s.micLost seat).out = s.out ∧ (s.micLost seat).early = s.early ∧ (s.micLost seat).pending = s.pending := by
  unfold State.micLost; split <;> simp

/-- A loss told to every block. -/
@[simp] theorem State.lossNotice_frame (p : Pos) :
    (s.lossNotice p).powered = s.powered ∧ (s.lossNotice p).wingA = s.wingA ∧ (s.lossNotice p).wingB = s.wingB ∧
    (s.lossNotice p).pos = s.pos ∧ (s.lossNotice p).clock = s.clock ∧ (s.lossNotice p).mgmt = s.mgmt ∧
    (s.lossNotice p).cfg = s.cfg ∧ (s.lossNotice p).store = s.store ∧ (s.lossNotice p).out = s.out ∧
    (s.lossNotice p).early = s.early ∧ (s.lossNotice p).pending = s.pending := by
  unfold State.lossNotice; simp


end Sys2Proof.Machine
end

