-- ==== Sys2Proof/Laws/Engine.lean ====
section
/-! SUPPORT. The end of a command and of an operation: what they keep, and how a management command comes to its owner. -/

namespace Sys2Proof.Machine

variable (s t u : State)

/-! ## `keeps` -/

theorem State.keeps_refl (l : List Piece) : s.keeps s l := by
  intro p _; cases p <;> simp [State.agrees]

theorem State.agrees_trans {s t u : State} {p : Piece} (h : s.agrees t p) (k : t.agrees u p) : s.agrees u p := by
  cases p <;> simp_all [State.agrees]

theorem State.keeps_trans {s t u : State} {l : List Piece} (h : s.keeps t l) (k : t.keeps u l) : s.keeps u l :=
  fun p hp => State.agrees_trans (h p hp) (k p hp)

theorem State.keeps_mono {s t : State} {l m : List Piece} (h : s.keeps t l) (hl : ∀ p ∈ l, p ∈ m) : s.keeps t m :=
  fun p hp => h p fun q => hp (hl p q)

/-! ## Room screens: the queue only grows at its end, and only screens and queue change -/

theorem State.admitScreen_keeps (e : Fin 4) : s.keeps (s.admitScreen e) screenPieces := by
  intro p hp
  unfold State.admitScreen
  split
  · cases p <;> simp [State.agrees]
  · cases p <;> simp_all [State.agrees, screenPieces, State.setScreen]

theorem State.setScreen_keeps (e : Fin 4) (f : Screen → Screen) : s.keeps (s.setScreen e f) screenPieces := by
  intro p hp
  cases p <;> simp_all [State.agrees, screenPieces, State.setScreen]

theorem State.offerScreen_keeps (e : Fin 4) : s.keeps (s.offerScreen e) screenPieces := by
  unfold State.offerScreen
  split
  · exact s.admitScreen_keeps e
  · exact s.setScreen_keeps e _

theorem State.refreshScreen_keeps (e : Fin 4) : s.keeps (s.refreshScreen e) screenPieces := by
  unfold State.refreshScreen
  simp only
  repeat' split
  · exact s.keeps_refl _
  · exact s.setScreen_keeps e _
  · exact s.offerScreen_keeps e
  · exact s.keeps_refl _

theorem State.foldl_keeps {α : Type} (f : State → α → State) (l : List Piece) (h : ∀ (s : State) (a : α), s.keeps (f s a) l)
    (xs : List α) (s : State) : s.keeps (xs.foldl f s) l := by
  induction xs generalizing s with
  | nil => exact s.keeps_refl l
  | cons a xs ih => exact State.keeps_trans (h s a) (ih _)

theorem State.refreshScreens_keeps : s.keeps s.refreshScreens screenPieces :=
  State.foldl_keeps _ _ (fun s e => State.refreshScreen_keeps s e) _ s

theorem State.startSending_keeps : s.keeps s.startSending [.sending] := by
  rcases s.startSending_cases with ⟨_, h⟩ | ⟨_, h⟩ <;> rw [h]
  · intro p hp
    cases p <;> simp_all [State.agrees]
  · exact s.keeps_refl _

/-- The address and the template of a screen entry are only written by management (08 R159). -/
theorem State.refreshScreen_entry (e f : Fin 4) : ((s.refreshScreen e).disp.screens[f]).addr = (s.disp.screens[f]).addr ∧
    ((s.refreshScreen e).disp.screens[f]).template = (s.disp.screens[f]).template := by
  unfold State.refreshScreen State.offerScreen State.admitScreen State.setScreen
  simp only
  repeat' split
  all_goals simp only [and_self]
  all_goals (rw [modify_get]; split <;> exact ⟨rfl, rfl⟩)

theorem State.refreshScreens_entry (f : Fin 4) : ((s.refreshScreens).disp.screens[f]).addr = (s.disp.screens[f]).addr ∧
    ((s.refreshScreens).disp.screens[f]).template = (s.disp.screens[f]).template :=
  ⟨Machine.foldl_keeps (fun s : State => (s.disp.screens[f]).addr) _ (fun b a => (b.refreshScreen_entry a f).1) _ s,
   Machine.foldl_keeps (fun s : State => (s.disp.screens[f]).template) _ (fun b a => (b.refreshScreen_entry a f).2) _ s⟩

theorem State.offerScreen_queue (e : Fin 4) : s.link.queue <+: (s.offerScreen e).link.queue := by
  unfold State.offerScreen State.admitScreen
  split
  · split
    · exact List.prefix_refl _
    · exact List.prefix_append _ _
  · simp

theorem State.refreshScreen_queue (e : Fin 4) : s.link.queue <+: (s.refreshScreen e).link.queue := by
  unfold State.refreshScreen
  simp only
  repeat' split
  · exact List.prefix_refl _
  · simp
  · exact s.offerScreen_queue e
  · exact List.prefix_refl _

/-- Frames that wait in the transmit queue stay there, in their order, when room screens send. -/
theorem State.refreshScreens_queue : s.link.queue <+: s.refreshScreens.link.queue := by
  unfold State.refreshScreens
  generalize numbers 4 = l
  induction l generalizing s with
  | nil => exact List.prefix_refl _
  | cons e l ih => exact (s.refreshScreen_queue e).trans (ih _)

/-! ## The end of an operation -/

theorem State.setMgmt_keeps (f : Mgmt → Mgmt) : s.keeps (s.setMgmt f) [.mgmt] := by
  intro p hp
  cases p <;> simp_all [State.agrees]

/-- A reply touches the engine and the transmit queue alone. -/
theorem State.admitReply_keeps : s.keeps s.admitReply [.mgmt, .sending] := by
  intro p hp
  unfold State.admitReply
  split
  · cases p <;> simp [State.agrees]
  · cases p <;> simp_all [State.agrees]

theorem State.offerReply_keeps : s.keeps s.offerReply [.mgmt, .sending] := by
  unfold State.offerReply
  simp only
  split
  · exact State.keeps_trans (State.keeps_mono (s.setMgmt_keeps _) (by decide)) (State.admitReply_keeps _)
  · exact State.keeps_mono (s.setMgmt_keeps _) (by decide)

theorem State.reply_keeps (b : List Byte) : s.keeps (s.reply b) [.mgmt, .sending] := by
  have h : ∀ (u : State) f, u.keeps (u.setMgmt f) [.mgmt, .sending] := fun u f =>
    State.keeps_mono (u.setMgmt_keeps f) (by decide)
  unfold State.reply
  simp only
  split
  · exact s.keeps_refl _
  · split
    · exact State.keeps_trans (h s _) (h _ _)
    · exact State.keeps_trans (h s _) (State.offerReply_keeps _)

theorem State.commit_keeps : s.keeps s.commit opPieces := by
  intro p hp
  unfold State.commit MixBlock.commit
  cases p <;> split <;> simp_all [State.agrees, opPieces]

theorem State.endRequest_keeps (h : Hand) : s.keeps (s.endRequest h) opPieces := by
  unfold State.endRequest
  simp only
  have hc : s.keeps (if (s.setMgmt fun m => { m with unlocked := false }).autoCommits h
      then (s.setMgmt fun m => { m with unlocked := false }).commit
      else s.setMgmt fun m => { m with unlocked := false }) opPieces := by
    split
    · exact State.keeps_trans (State.keeps_mono (s.setMgmt_keeps _) (by decide)) (State.commit_keeps _)
    · exact State.keeps_mono (s.setMgmt_keeps _) (by decide)
  generalize (if (s.setMgmt fun m => { m with unlocked := false }).autoCommits h
      then (s.setMgmt fun m => { m with unlocked := false }).commit
      else s.setMgmt fun m => { m with unlocked := false }) = v at hc ⊢
  split
  · split <;> exact State.keeps_trans hc (State.keeps_mono (State.setMgmt_keeps _ _) (by decide))
  · exact State.keeps_trans hc (State.keeps_mono (State.reply_keeps _ _) (by decide))

/-- What follows an operation's own effect touches the engine, the reply, the screens and an auto-commit alone. -/
theorem State.finishOp_keeps (op : Op) (r : OpResult) : r.state.keeps (State.finishOp op r) opPieces := by
  unfold State.finishOp
  split
  · exact State.keeps_refl _ _
  · simp only
    have h1 := fun f => State.keeps_mono (m := opPieces) (State.setMgmt_keeps r.state f) (by decide)
    have h2 : ∀ v : State, v.keeps v.refreshScreens opPieces := fun v =>
      State.keeps_mono v.refreshScreens_keeps (by decide)
    split
    · exact State.keeps_trans (h1 _) (State.keeps_trans (h2 _) (State.endRequest_keeps _ _))
    · exact State.keeps_trans (h1 _) (h2 _)

/-- The next operation of the request is still to come: the status and what was returned join the reply, and the engine
goes on. -/
theorem State.finishOp_more (op : Op) (r : OpResult) (h : Hand) (hh : r.state.mgmt.hand = some h)
    (hs : r.status.success = true) (he : r.ends = false) (hm : h.ops.tail ≠ []) :
    (State.finishOp op r).mgmt = { r.state.mgmt with hand := some { h with
      ops := h.ops.tail, statuses := h.statuses ++ [r.status], returned := h.returned ++ r.own op } } ∧
    (State.finishOp op r).mix = r.state.mix := by
  unfold State.finishOp
  simp only [hh]
  have : h.ops.tail.isEmpty = false := by cases hq : h.ops.tail <;> simp_all
  simp [hs, he, this]

/-! ## A management command reaches its owner -/

theorem State.runOp_owner {s : State} {op : Op} {h : Hand} (owner : State → OpResult) (hop : s.atOp op = true)
    (hh : s.mgmt.hand = some h) (hc : s.check h.key op = none) :
    s.runOp op owner = .next (State.finishOp op (owner s)).startSending := by
  simp [State.runOp, hop, State.perform, hh, hc]

theorem State.reaches_iff {s : State} {i : Instr} : s.reaches i = true ↔
    ∃ op h, i.op = some op ∧ s.mgmt.hand = some h ∧ s.atOp op = true ∧ s.check h.key op = none := by
  unfold State.reaches
  cases hi : i.op <;> cases hh : s.mgmt.hand <;> simp

/-- The engine is at the operation: it executes, has power, and the operation stands first of those left. -/
theorem State.atOp_iff {s : State} {op : Op} : s.atOp op = true ↔
    s.powered = true ∧ s.mgmt.engine = .executing ∧ s.mgmt.restart = .none ∧ ∃ h, s.mgmt.hand = some h ∧ h.ops.head? = some op := by
  unfold State.atOp
  cases hh : s.mgmt.hand <;> simp [and_assoc]

/-! ## A restart that is due, and the frame that has been sent -/

theorem State.warmRestart_phase : s.warmRestart.mgmt.restart = .none := by
  unfold State.warmRestart
  simp only [State.refreshScreens_frame, State.evaluate_frame]
  split <;> simp [State.setMgmt, Mgmt.leaveHead, State.startPass, State.setWing]

/-- A restart takes effect where it is due, and is due no more; elsewhere nothing does. -/
theorem State.takeRestart_cases :
    ((∀ silent, s.mgmt.restart ≠ .due silent) ∧ s.takeRestart = s) ∨
    ((∃ silent, s.mgmt.restart = .due silent) ∧ s.takeRestart = s.warmRestart) := by
  unfold State.takeRestart
  split <;> simp_all

/-- FRAME_SENT at a link that is UP with a frame to send: a restart that is due first, then the head begins where it has
not and leaves, the clips of the AUDIO_OUT frames behind it are counted, and its place is filled. -/
theorem State.frameSent_eq (hu : s.link.up = true) (hq : s.link.queue ≠ []) :
    s.frameSent = ({ s.takeRestart.countHeld with link := s.takeRestart.link.startSending.headSent }).fillPlace := by
  have h : ∀ silent, s.takeRestart.mgmt.restart ≠ .due silent := by
    rcases s.takeRestart_cases with ⟨h, e⟩ | ⟨_, e⟩ <;> rw [e]
    · exact h
    · simp [State.warmRestart_phase]
  rcases s.takeRestart.startSending_cases with ⟨_, e⟩ | ⟨⟨silent, hd⟩, _⟩
  · have hc : State.countHeld { s.takeRestart with link := s.takeRestart.link.startSending } =
        { s.takeRestart.countHeld with link := s.takeRestart.link.startSending } := by
      simp only [State.countHeld, Link.heldClips, Link.startSending_frame]; split <;> rfl
    simp [State.frameSent, hu, hq, e, hc]
  · exact absurd hd (h silent)

end Sys2Proof.Machine
end

