-- ==== Sys2Proof/Laws/Answers.lean ====
section
/-! SUPPORT. How a request ends: what the end of an operation makes of the engine, the reply and the mix tables, from what
its owner left. -/

namespace Sys2Proof.Machine

/-! ## The transmit queue only grows at its end -/

/-- The queue of `t` is that of `s` with frames behind it of which each meets `P`. -/
def State.Queues (P : Frame → Prop) (s t : State) : Prop :=
  ∃ more : List Frame, (∀ g ∈ more, P g) ∧ t.link.queue = s.link.queue ++ more

theorem State.Queues.of_eq {P : Frame → Prop} {s t : State} (h : t.link.queue = s.link.queue) : State.Queues P s t :=
  ⟨[], by simp, by simp [h]⟩

theorem State.Queues.trans {P : Frame → Prop} {s t u : State} (h : State.Queues P s t) (k : State.Queues P t u) :
    State.Queues P s u := by
  obtain ⟨a, ha, h⟩ := h
  obtain ⟨b, hb, k⟩ := k
  exact ⟨a ++ b, by simpa [or_imp, forall_and] using ⟨ha, hb⟩, by simp [k, h]⟩

theorem State.Queues.mono {P Q : Frame → Prop} {s t : State} (h : State.Queues P s t) (hPQ : ∀ g, P g → Q g) :
    State.Queues Q s t := h.imp fun _ k => ⟨fun g hg => hPQ g (k.1 g hg), k.2⟩

theorem State.offerScreen_queues (s : State) (e : Fin 4) : State.Queues (·.kind = .screen) s (s.offerScreen e) := by
  unfold State.offerScreen State.admitScreen
  split
  · split
    · exact .of_eq rfl
    · exact ⟨_, by simp, rfl⟩
  · exact .of_eq (by simp)

theorem State.refreshScreen_queues (s : State) (e : Fin 4) : State.Queues (·.kind = .screen) s (s.refreshScreen e) := by
  unfold State.refreshScreen
  simp only
  repeat' split
  · exact .of_eq rfl
  · exact .of_eq (by simp)
  · exact s.offerScreen_queues e
  · exact .of_eq rfl

/-- What the end of a command sends is frames of room screens. -/
theorem State.refreshScreens_queues (s : State) : State.Queues (·.kind = .screen) s s.refreshScreens := by
  unfold State.refreshScreens
  generalize numbers 4 = l
  induction l generalizing s with
  | nil => exact .of_eq rfl
  | cons e l ih => exact (s.refreshScreen_queues e).trans (ih _)

theorem State.notice_queues (s : State) (kind : Nat) (body : List Byte) :
    State.Queues (·.kind = .notice) s (s.notice kind body) := by
  unfold State.notice Link.offerNotice
  split
  · exact .of_eq rfl
  · split
    · exact ⟨_, by simp, rfl⟩
    · exact .of_eq rfl

/-! ## What the floor and the calendar send is notices and room screens, never a reply -/

/-- Between the two states nothing has left the transmit queue and no reply has entered it. -/
def State.Sends (s t : State) : Prop := State.Queues (·.kind ≠ .reply) s t

theorem State.Sends.refl (s : State) : s.Sends s := .of_eq rfl

theorem State.Sends.of_eq {s t : State} (h : t.link.queue = s.link.queue) : s.Sends t := Queues.of_eq h

theorem State.Sends.trans {s t u : State} (h : s.Sends t) (k : t.Sends u) : s.Sends u := Queues.trans h k

/-- A change of the state that leaves the queue as it is may come first. -/
theorem State.Sends.from {s t u : State} (k : t.Sends u) (h : t.link.queue = s.link.queue) : s.Sends u :=
  (Sends.of_eq h).trans k

theorem State.sends_foldl {α : Type} (f : State → α → State) (hf : ∀ s a, State.Sends s (f s a)) (l : List α) (s : State) :
    s.Sends (l.foldl f s) := by
  induction l generalizing s with
  | nil => exact .refl s
  | cons a l ih => exact (hf s a).trans (ih _)

section Sends
variable (s : State)

theorem State.refreshScreens_sends : s.Sends s.refreshScreens := s.refreshScreens_queues.mono fun g hg => by simp [hg]

theorem State.notice_sends (kind : Nat) (body : List Byte) : s.Sends (s.notice kind body) :=
  (s.notice_queues kind body).mono fun g hg => by simp [hg]

theorem State.floorChange_sends (seat : Nat) (e : FloorEvent) (r c n : Nat) : s.Sends (s.floorChange seat e r c n) :=
  s.refreshScreens_sends.trans (State.notice_sends _ _ _)

theorem State.grantSeat_sends (seat : Seat) (c : Source) : s.Sends (s.grantSeat seat c) :=
  (State.floorChange_sends _ _ _ _ _ _).from (by simp)

theorem State.removeCore_sends (seat : Seat) (r : Reason) : s.Sends (s.removeCore seat r) := by
  unfold State.removeCore
  split
  · exact .refl s
  · simp only
    split <;> exact (State.floorChange_sends _ _ _ _ _ _).from (by simp)

theorem State.withdraw_sends (seat : Seat) (r : Reason) : s.Sends (s.withdraw seat r) := by
  unfold State.withdraw
  split
  · exact .refl s
  · exact (State.floorChange_sends _ _ _ _ _ _).from (by simp)

theorem State.enqueue_sends (seat : Seat) (c : Source) : s.Sends (s.enqueue seat c) :=
  (State.floorChange_sends _ _ _ _ _ _).from (by simp)

theorem State.clearQueue_sends (r : Reason) : s.Sends (s.clearQueue r) :=
  (State.floorChange_sends _ _ _ _ _ _).from (by simp)

theorem State.advanceLoop_sends (n : Nat) (s : State) : s.Sends (State.advanceLoop n s) := by
  induction n generalizing s with
  | zero => exact .refl s
  | succ n ih =>
    unfold State.advanceLoop
    split
    · exact .refl s
    · split
      · exact (s.grantSeat_sends _ _).trans (ih _)
      · exact .refl s

theorem State.autoAdvance_sends : s.Sends s.autoAdvance := by
  unfold State.autoAdvance
  split
  · exact State.advanceLoop_sends _ s
  · exact .refl s

theorem State.startSession_sends (b : Booking) : s.Sends (s.startSession b) :=
  (State.notice_sends _ _ _).from (by simp)

theorem State.removeMissed_sends : s.Sends s.removeMissed := by
  unfold State.removeMissed
  simp only
  split
  · exact .refl s
  · exact (State.notice_sends _ _ _).from rfl

theorem State.testNext_sends : s.Sends s.testNext := by
  unfold State.testNext
  split
  · exact .of_eq rfl
  · split
    · exact s.startSession_sends _
    · split <;> exact .of_eq rfl

theorem State.evaluateIdle_sends : s.Sends s.evaluateIdle := by
  unfold State.evaluateIdle
  split
  · exact .refl s
  · exact s.removeMissed_sends.trans (State.testNext_sends _)

theorem State.completeClosing_sends : s.Sends s.completeClosing :=
  ((State.refreshScreens_sends _).trans (State.evaluateIdle_sends _)).from (by simp)

theorem State.reportClosed_sends : s.Sends s.reportClosed := by
  unfold State.reportClosed
  split
  · exact s.completeClosing_sends
  · exact .refl s

theorem State.removeAll_sends (l : List OpenEntry) (r : Reason) : s.Sends (s.removeAll l r) := by
  unfold State.removeAll
  exact State.sends_foldl _ (fun s e => s.removeCore_sends e.seat r) l s

theorem State.startClosing_sends (c : EndCause) : s.Sends (s.startClosing c) := by
  unfold State.startClosing
  simp only
  generalize hu : State.clearMessages _ = u
  have hq : u.link.queue = s.link.queue := by rw [← hu]; simp
  generalize hv : (u.removeAll u.floor.openList .sessionEnd).clearQueue .sessionEnd = v
  have huv : u.Sends v := hv ▸ (u.removeAll_sends _ _).trans (State.clearQueue_sends _ _)
  have hvs : s.Sends v := huv.from hq
  clear hu hv
  refine hvs.trans (State.Sends.trans ?_ (State.reportClosed_sends _))
  refine State.Sends.trans (State.Sends.of_eq ?_) (State.notice_sends _ _ _)
  rfl

theorem State.removeEntry_sends (seat : Seat) (r : Reason) : s.Sends (s.removeEntry seat r) := by
  unfold State.removeEntry
  simp only
  repeat' split
  · exact (s.removeCore_sends _ _).trans (State.startClosing_sends _ _)
  · exact s.removeCore_sends _ _
  · exact .refl s

theorem State.removeThenAdvance_sends (seat : Seat) (r : Reason) : s.Sends (s.removeThenAdvance seat r) := by
  unfold State.removeThenAdvance
  split
  · exact (s.removeEntry_sends _ _).trans (State.autoAdvance_sends _)
  · exact .refl s

theorem State.reduceLoop_sends (n : Nat) (s : State) : s.Sends (State.reduceLoop n s) := by
  induction n generalizing s with
  | zero => exact .refl s
  | succ n ih =>
    unfold State.reduceLoop
    repeat' split
    · exact (s.removeThenAdvance_sends _ _).trans (ih _)
    · exact .refl s
    · exact .refl s

theorem State.testEnd_sends : s.Sends s.testEnd := by
  unfold State.testEnd
  simp only
  split
  · exact .refl s
  · split
    · split
      · split
        · exact .of_eq rfl
        · exact s.startClosing_sends _
      · exact .refl s
    · split
      · exact (State.autoAdvance_sends _).from rfl
      · split
        · exact s.startClosing_sends _
        · exact .of_eq rfl
    · exact .refl s

theorem State.evaluate_sends : s.Sends s.evaluate := by
  unfold State.evaluate
  repeat' split
  all_goals first
    | exact s.evaluateIdle_sends
    | exact s.testEnd_sends
    | exact .refl s
    | exact s.removeMissed_sends.trans (State.testEnd_sends _)

theorem State.evaluateLimit_sends (seat : Seat) : s.Sends (s.evaluateLimit seat) := by
  have h : ∀ (b : Bool) (f : MicRec → MicRec) (k : Nat) (body : List Byte),
      s.Sends (if b = true then (s.setMic seat f).notice k body else s.setMic seat f) := by
    intro b f k body
    split
    · exact (State.notice_sends _ _ _).from (by simp)
    · exact .of_eq (by simp)
  unfold State.evaluateLimit
  simp only
  split
  · exact .refl s
  · split
    · exact .of_eq (by simp)
    · split
      · exact (h _ _ _ _).trans (State.removeThenAdvance_sends _ _ _)
      · exact h _ _ _ _

theorem State.keyNotice_sends (seat : Seat) : s.Sends (s.keyNotice seat) := by
  unfold State.keyNotice
  split
  · exact s.removeThenAdvance_sends _ _
  · exact s.withdraw_sends _ _

theorem State.classChange_sends (seat : Seat) (c : SeatClass) : s.Sends (s.classChange seat c) := by
  unfold State.classChange
  simp only
  split
  · exact .refl s
  · refine .trans ?_ (State.evaluateLimit_sends _ _)
    repeat' split
    · exact .refl s
    · exact s.autoAdvance_sends
    · exact State.reduceLoop_sends _ s
    · exact .refl s

theorem State.permissionChange_sends (seat : Seat) (b : Bool) : s.Sends (s.permissionChange seat b) := by
  unfold State.permissionChange
  split
  · exact s.keyNotice_sends _
  · exact .refl s

end Sends

/-! ## The end of a request -/

/-- What a command sent before its request ended stands ahead of the reply. -/
theorem State.requestEnds_before {s u t : State} {silent : Bool} {payload : List Byte}
    (hq : s.Sends u) (hr : u.mgmt.requests = s.mgmt.requests)
    (h : u.requestEnds t silent payload) : s.requestEnds t silent payload := by
  intro r rest hrest
  obtain ⟨more, hmore, hq⟩ := hq
  obtain ⟨ahead, behind, ha, hb, h⟩ := h r rest (hr.trans hrest)
  refine ⟨more ++ ahead, behind, by simpa [or_imp, forall_and] using ⟨hmore, ha⟩, hb, ?_⟩
  simpa [hq, hr] using h

/-- Room screens that send after the reply stand behind it. -/
theorem State.requestEnds_after {s t u : State} {silent : Bool} {payload : List Byte}
    (hq : State.Queues (·.kind = .screen) t u) (hm : u.mgmt = t.mgmt) (hs : u.link.station = t.link.station)
    (h : s.requestEnds t silent payload) : s.requestEnds u silent payload := by
  intro r rest hrest
  obtain ⟨more, hmore, hq⟩ := hq
  obtain ⟨ahead, behind, ha, hb, h⟩ := h r rest hrest
  have hmore' : ∀ g ∈ more, g.kind ≠ .reply := fun g hg => by simp [hmore g hg]
  simp only [hq, hm, hs]
  by_cases hp : silent = false ∧ ¬ (r.group = true ∧ 0 < staggerCycles t.link.station) ∧ (s.link.queue ++ ahead).length < 8
  · refine ⟨ahead, behind ++ more, ha, by simpa [or_imp, forall_and] using ⟨hb, hmore⟩, ?_⟩
    obtain ⟨_, h2, _, _⟩ := h
    obtain ⟨p1, p2, p3⟩ := hp
    refine ⟨by simp [p1], fun _ _ _ => ?_, fun _ _ h8 => absurd p3 (by omega), fun _ k => absurd k p2⟩
    have := h2 p1 p2 p3
    exact ⟨this.1, by simp [this.2]⟩
  · refine ⟨ahead ++ more, [], by simpa [or_imp, forall_and] using ⟨ha, hmore'⟩, by simp, ?_⟩
    obtain ⟨h1, h2, h3, h4⟩ := h
    refine ⟨fun k => ?_, fun k1 k2 k3 => absurd ⟨k1, k2, by simp at k3 ⊢; omega⟩ hp, fun k1 k2 k3 => ?_, fun k1 k2 => ?_⟩
    · exact ⟨(h1 k).1, by simp [(h1 k).2]⟩
    · have h8 : 8 ≤ (s.link.queue ++ ahead).length := Nat.not_lt.1 fun k => hp ⟨k1, k2, k⟩
      have := h3 k1 k2 h8
      exact ⟨this.1, this.2.1, by simp [this.2.2]⟩
    · have := h4 k1 k2
      exact ⟨this.1, this.2.1, this.2.2.1, by simp [this.2.2.2]⟩

/-- A reply is offered at once, or held for the stagger of a group request (10 R178, R179). -/
theorem State.reply_eq {s : State} {r : Request} {rest : List Request} (payload : List Byte) (hr : s.mgmt.requests = r :: rest) :
    let f : Frame := ⟨r.source, s.link.station, .reply, payload⟩
    s.reply payload =
      if r.group = true ∧ 0 < staggerCycles s.link.station then
        s.setMgmt fun m => { m with reply := some f, engine := .stagger, stagger := staggerCycles s.link.station }
      else if s.link.queue.length < 8 then
        ({ s with link := { s.link with queue := s.link.queue ++ [f] } }).setMgmt fun m =>
          Mgmt.leaveHead { m with reply := some f, stagger := 0, restart := m.restart.offered }
      else s.setMgmt fun m => { m with reply := some f, engine := .replyWait, stagger := 0, restart := m.restart.offered } := by
  unfold State.reply State.offerReply State.admitReply
  simp only [hr, Bool.and_eq_true, decide_eq_true_eq]
  split
  · rfl
  · split <;> rename_i h8 <;> simp only [State.setMgmt] at h8 ⊢ <;> simp [h8, Mgmt.leaveHead]

theorem State.reply_requestEnds (s : State) (payload : List Byte) : s.requestEnds (s.reply payload) false payload := by
  intro r rest hr
  have hst : (s.reply payload).link.station = s.link.station := (State.reply_keeps s payload .addresses (by decide)).1
  simp only [hst]
  refine ⟨[], [], by simp, by simp, by simp, ?_⟩
  rw [State.reply_eq payload hr]
  refine ⟨fun _ hg hl => ?_, fun _ hg hl => ?_, fun _ hg => ?_⟩
  · rw [if_neg hg, if_pos (by simpa using hl)]
    cases rest <;> simp [Mgmt.leaveHead, hr]
  · rw [if_neg hg, if_neg (by simpa using hl)]
    simp
  · rw [if_pos hg]
    simp

/-- A SILENT request leaves. -/
theorem State.leaveHead_requestEnds (s : State) (payload : List Byte) :
    s.requestEnds (s.setMgmt Mgmt.leaveHead) true payload := by
  intro r rest hr
  refine ⟨[], [], by simp, by simp, ?_⟩
  cases rest <;> simp [Mgmt.leaveHead, hr]

/-- A malformed request ends with its reply, or leaves (10 R176). -/
theorem State.malformedRequest_requestEnds (s : State) (payload : List Byte) :
    s.requestEnds (s.malformedRequest payload) (malformedSilent payload)
      (replyPayload (malformedTag payload) .malformed 0 0 [] []) := by
  unfold State.malformedRequest
  simp only
  have h : ∀ f : Mgmt → Mgmt, (∀ m, (f m).requests = m.requests) → ∀ t silent payload,
      (s.setMgmt f).requestEnds t silent payload → s.requestEnds t silent payload := fun f hf t _ _ =>
    State.requestEnds_before (.of_eq rfl) (by simp [hf])
  split <;> rename_i hs
  · rw [hs]
    exact h _ (by simp) _ _ _ (State.leaveHead_requestEnds _ _)
  · rw [Bool.not_eq_true] at hs
    rw [hs]
    exact h _ (by simp) _ _ _ (State.reply_requestEnds _ _)

/-- A reply leaves the unlock mark as it stands, and no restart where none is to come. -/
theorem State.reply_marks (s : State) (payload : List Byte) (hr : s.mgmt.restart = .none) :
    (s.reply payload).mgmt.unlocked = s.mgmt.unlocked ∧ (s.reply payload).mgmt.restart = .none ∧
      (s.reply payload).mix = s.mix := by
  cases hq : s.mgmt.requests with
  | nil => unfold State.reply; simp [hq, hr]
  | cons r rest =>
    rw [State.reply_eq payload hq]
    split
    · simp [hr]
    · split <;> simp [hr, Mgmt.leaveHead, RestartPhase.offered]

/-- The end of execution: the unlock mark is cleared, an auto-commit made, and the request ends. -/
theorem State.endRequest_ends (s : State) (h : Hand) (hr : s.mgmt.restart = .none) :
    s.requestEnds (s.endRequest h) h.silent h.payload ∧ (s.endRequest h).mgmt.unlocked = false ∧
      (s.endRequest h).mgmt.restart = .none ∧
      (s.endRequest h).mix = if s.autoCommits h then s.mix.commit s.store.halted else s.mix := by
  unfold State.endRequest
  simp only
  have hc : ∃ u : State, (if (s.setMgmt fun m => { m with unlocked := false }).autoCommits h
      then (s.setMgmt fun m => { m with unlocked := false }).commit
      else s.setMgmt fun m => { m with unlocked := false }) = u ∧ u.link = s.link ∧
        u.mgmt = { s.mgmt with unlocked := false } ∧
        u.mix = if s.autoCommits h then s.mix.commit s.store.halted else s.mix := by
    have hc : (s.setMgmt fun m => { m with unlocked := false }).autoCommits h = s.autoCommits h := rfl
    refine ⟨_, rfl, ?_, ?_, ?_⟩ <;> rw [hc] <;> cases s.autoCommits h <;> simp
  obtain ⟨u, hu, hlink, hm, hmix⟩ := hc
  rw [hu]
  have hur : u.mgmt.restart = .none := by simp [hm, hr]
  have hback : ∀ t silent payload, u.requestEnds t silent payload → s.requestEnds t silent payload := fun t _ _ =>
    State.requestEnds_before (.of_eq (by rw [hlink])) (by rw [hm])
  cases hs : h.silent with
  | true =>
    rw [if_pos rfl, if_neg (by simp [hur])]
    refine ⟨hback _ _ _ (u.leaveHead_requestEnds _), ?_, ?_, ?_⟩ <;> simp [Mgmt.leaveHead, hm, hr, hmix]
  | false =>
    rw [if_neg (by simp)]
    obtain ⟨h1, h2, h3⟩ := u.reply_marks h.payload hur
    exact ⟨hback _ _ _ (u.reply_requestEnds _), by simp [h1, hm], h2, by rw [h3, hmix]⟩

/-! ## The end of an operation -/

/-- What an owner leaves of the engine and the queue: the request stays in hand as it was, but for its mark that a value
was staged, and what the operation sent is no reply. -/
structure State.Owned (s : State) (h : Hand) (r : OpResult) : Prop where
  hand : ∃ staged, r.state.mgmt.hand = some { h with staged := staged }
  requests : r.state.mgmt.requests = s.mgmt.requests
  engine : r.state.mgmt.engine = s.mgmt.engine
  none : s.mgmt.restart = .none
  restart : r.state.mgmt.restart = .none
  sends : s.Sends r.state
  goesOn : r.ends = false

/-- The payload of the reply after one more operation, by whether that one succeeded. -/
theorem Hand.payload_snoc (h : Hand) (st : Status) (hs : h.statuses.getLast? = some st) :
    h.payload = replyPayload h.tag (if st.success then .ok else st) h.statuses.length
      (if st.success then 0 else h.statuses.length) h.statuses h.returned := by
  unfold Hand.payload Hand.failure
  cases hb : st.success <;> simp [hs, Option.filter, hb]

/-- The operation that fails, or is the last of its request, ends it. -/
theorem State.finishOp_endsWith {s : State} {op : Op} {rest : List Op} {h : Hand} {r : OpResult} (ho : s.Owned h r)
    (hops : h.ops = op :: rest) (hlast : r.status.success = false ∨ rest = []) :
    let t := (State.finishOp op r).startSending
    s.endsWith t h r.status (r.own op) ∧ t.mix =
      if t.cfg.autoCommit = true ∧ (r.state.mgmt.hand.map (·.staged)) = some true ∧ r.status.success = true
      then r.state.mix.commit t.store.halted else r.state.mix := by
  obtain ⟨⟨staged, hhand⟩, hreq, heng, hnone, hres, hsends, hgoes⟩ := ho
  intro t
  let h' : Hand := { h with
    ops := rest, statuses := h.statuses ++ [r.status], returned := h.returned ++ r.own op, staged := staged }
  let v : State := (r.state.setMgmt fun m => { m with hand := some h' }).refreshScreens
  have hend : (!r.status.success || r.ends || rest.isEmpty) = true := by rcases hlast with k | k <;> simp [k]
  have ht : t = (v.endRequest h').startSending := by
    simp only [t, State.finishOp, hhand, hops, List.tail_cons, hend, if_true]
    rfl
  have hv : v.mgmt = { r.state.mgmt with hand := some h' } := by simp [v]
  have hvmix : v.mix = r.state.mix := by simp [v]
  obtain ⟨e1, e2, e3, e4⟩ := v.endRequest_ends h' (by rw [hv]; exact hres)
  have hpay : h'.payload = replyPayload h.tag (if r.status.success then .ok else r.status) (h.statuses.length + 1)
      (if r.status.success then 0 else h.statuses.length + 1) (h.statuses ++ [r.status]) (h.returned ++ r.own op) := by
    rw [h'.payload_snoc r.status (by simp [h'])]
    simp [h']
  have hkeep : v.keeps t opPieces := ht ▸
    State.keeps_trans (v.endRequest_keeps h') (State.keeps_mono (State.startSending_keeps _) (by decide))
  have hcfg : t.cfg = v.cfg := hkeep .cfg (by decide)
  have hstore : t.store = v.store := hkeep .store (by decide)
  refine ⟨⟨?_, ?_, ?_⟩, ?_⟩
  · simp [ht, e2]
  · simp [ht, e3, hnone]
  · rw [← hpay, ht]
    refine State.requestEnds_before (u := v) ?_ (by simp [hv, hreq]) (State.requestEnds_after ?_ ?_ ?_ e1)
    · exact hsends.trans ((State.refreshScreens_sends _).from rfl)
    · exact .of_eq (by rcases State.startSending_cases (v.endRequest h') with ⟨_, k⟩ | ⟨_, k⟩ <;> simp [k])
    · simp
    · rcases State.startSending_cases (v.endRequest h') with ⟨_, k⟩ | ⟨_, k⟩ <;> simp [k]
  · have hf : h'.failure.isNone = r.status.success := by
      unfold Hand.failure
      cases hb : r.status.success <;> simp [h', Option.filter, hb]
    have hmix : t.mix = (v.endRequest h').mix := by simp [ht]
    rw [hmix, e4, hvmix, hcfg, hstore]
    simp [State.autoCommits, hf, h', hhand, Bool.and_eq_true, and_assoc]

/-- An operation that succeeds answers so: the engine goes on to the next, or the request ends. -/
theorem State.finishOp_answers {s : State} {op : Op} {h : Hand} {r : OpResult} (ho : s.Owned h r)
    (hh : s.mgmt.hand = some h) (hop : s.atOp op = true) (hs : r.status.success = true)
    (hmix : op.mixes = false → s.agrees r.state .tables ∧ r.state.mgmt.hand = some h) :
    s.answers (State.finishOp op r).startSending r.status (r.own op) := by
  refine ⟨hs, fun h2 op2 rest hh2 hops => ?_⟩
  obtain rfl : h = h2 := by simpa [hh] using hh2
  obtain rfl : op = op2 := by
    obtain ⟨_, _, _, g, hg, hhd⟩ := State.atOp_iff.1 hop
    simp_all
  have heng : s.mgmt.engine = .executing := (State.atOp_iff.1 hop).2.1
  constructor
  · intro hr
    obtain ⟨⟨staged, hhand⟩, hreq, heng', hnone, hres, _, hgoes⟩ := ho
    have hm := State.finishOp_more op r _ hhand hs hgoes (by simpa [hops] using hr)
    simp only [hops, List.tail_cons] at hm
    refine ⟨fun k => ?_, by simp [hm.1, hreq], by simp [hm.1, heng', heng], by simp [hm.1, hres, hnone],
      { h with ops := rest, statuses := h.statuses ++ [r.status], returned := h.returned ++ r.own op, staged := staged },
      by simp [hm.1], fun k => ?_, rfl⟩
    · simpa [State.agrees, hm.2] using (hmix k).1
    · have := (hmix k).2
      rw [hhand] at this
      injection this with this
      rw [← this]
  · rintro rfl
    obtain ⟨he, hm⟩ := State.finishOp_endsWith ho hops (.inr rfl)
    refine ⟨he, fun k ka kb => ?_, fun k ka => ?_⟩
    · obtain ⟨hagree, hhand⟩ := hmix k
      rw [if_pos ⟨ka, by simp [hhand, kb], hs⟩] at hm
      simp only [State.commitsTo, hm, MixBlock.commit]
      obtain ⟨hl, hi, hp, hd⟩ := hagree
      split <;> simp_all
    · obtain ⟨hagree, hhand⟩ := hmix k
      rw [if_neg (by rw [hhand]; rintro ⟨k1, k2, _⟩; simp_all)] at hm
      simpa only [State.agrees, hm] using hagree

theorem State.owned_of_failure {s : State} {op : Op} {h : Hand} (st : Status) (hop : s.atOp op = true)
    (hh : s.mgmt.hand = some h) : s.Owned h (fail s st) :=
  have hr := (State.atOp_iff.1 hop).2.2.1
  ⟨⟨h.staged, hh⟩, rfl, rfl, hr, hr, .of_eq rfl, rfl⟩

/-- A failure that changes nothing of its object. -/
theorem State.finishOp_fails {s : State} {op : Op} {st : Status} (hop : s.atOp op = true) (hs : st.success = false) :
    s.fails (State.finishOp op (fail s st)).startSending st := by
  obtain ⟨_, _, _, g, hg, hhd⟩ := State.atOp_iff.1 hop
  obtain ⟨ops, hgops⟩ : ∃ ops, g.ops = op :: ops := by
    cases hq : g.ops <;> simp_all
  obtain ⟨hend, hmix⟩ := State.finishOp_endsWith (State.owned_of_failure st hop hg) hgops (.inl hs)
  refine ⟨hs, fun p hp => ?_, fun h op2 rest hh hops => ?_⟩
  · by_cases hpt : p = .tables
    · subst hpt
      rw [if_neg (by simp [fail, hs])] at hmix
      simp only [State.agrees, hmix]
      simp [fail]
    · refine State.keeps_trans (State.finishOp_keeps op (fail s st))
        (State.keeps_mono (State.startSending_keeps _) (by decide)) p ?_
      simp_all [opPieces]
  · obtain rfl : g = h := by simpa [hg] using hh
    obtain rfl : op = op2 := by simp_all
    exact hend

/-! ## A management command that reaches its owner -/

/-- The owner took it. -/
theorem State.runOp_answers {s : State} {op : Op} {h : Hand} (owner : State → OpResult) (hop : s.atOp op = true)
    (hh : s.mgmt.hand = some h) (hc : s.check h.key op = none) (ho : s.Owned h (owner s))
    (hs : (owner s).status.success = true)
    (hmix : op.mixes = false → s.agrees (owner s).state .tables ∧ (owner s).state.mgmt.hand = some h) :
    ∃ t, s.runOp op owner = .next t ∧ s.answers t (owner s).status ((owner s).own op) :=
  ⟨_, State.runOp_owner owner hop hh hc, State.finishOp_answers ho hh hop hs hmix⟩

/-- The owner turned it away. -/
theorem State.runOp_fails {s : State} {op : Op} {h : Hand} {st : Status} (owner : State → OpResult) (hop : s.atOp op = true)
    (hh : s.mgmt.hand = some h) (hc : s.check h.key op = none) (ho : owner s = fail s st) (hs : st.success = false) :
    ∃ t, s.runOp op owner = .next t ∧ s.fails t st :=
  ⟨_, State.runOp_owner owner hop hh hc, ho ▸ State.finishOp_fails hop hs⟩

end Sys2Proof.Machine
end

