-- ==== Sys2Proof/Laws/Floor.lean ====
section
/-! SUPPORT. What the operations of the floor do: to the two collections, to each microphone, to the seat records, to the
classes of seats, and to the transmit queue. A statement about a press or an action cites these. -/

namespace Sys2Proof.Machine

variable (s : State)

/-! ## The two numberings -/

@[simp] theorem swapSeat_swapSeat (c n : Fin 64) : swapSeat c (swapSeat c n) = n := by
  unfold swapSeat
  split <;> split <;> (try split) <;> simp_all

@[simp] theorem State.logical_phys (seat : Seat) : s.logical (s.phys seat) = seat := swapSeat_swapSeat _ _
@[simp] theorem State.phys_logical (p : Pos) : s.phys (s.logical p) = p := swapSeat_swapSeat _ _

theorem State.phys_inj {i j : Seat} : s.phys i = s.phys j ↔ i = j :=
  ⟨fun h => by simpa using congrArg s.logical h, fun h => h ▸ rfl⟩

theorem State.phys_congr {s t : State} (h : t.seats.chair = s.seats.chair) (i : Seat) : t.phys i = s.phys i := by
  simp [State.phys, h]

theorem State.micOf_congr {s t : State} (h : t.mic = s.mic) (i : Seat) : t.micOf i = s.micOf i := by
  simp [State.micOf, h]

theorem State.seatRec_congr {s t : State} (h : t.seats = s.seats) (i : Seat) : t.seatRec i = s.seatRec i := by
  simp [State.seatRec, State.phys, h]

/-- The record of a seat after a change of one position's. -/
theorem State.recs_setRec (p q : Pos) (f : SeatRec → SeatRec) :
    (s.setRec p f).seats.recs[q] = if q = p then f s.seats.recs[q] else s.seats.recs[q] := modify_get _ _ _ _

/-! ## Classes -/

/-- Two states with the same chair, session kind, participants and overrides give every seat the same class. -/
def State.sameClasses (s t : State) : Prop :=
  t.seats.chair = s.seats.chair ∧ t.cal.session.isActive = s.cal.session.isActive ∧
    ∀ p : Pos, t.seats.recs[p].participant = s.seats.recs[p].participant ∧
      t.seats.recs[p].classOverride = s.seats.recs[p].classOverride

theorem State.sameClasses_refl : s.sameClasses s := ⟨rfl, rfl, fun _ => ⟨rfl, rfl⟩⟩

theorem State.sameClasses_trans {s t u : State} (h : s.sameClasses t) (k : t.sameClasses u) : s.sameClasses u :=
  ⟨k.1.trans h.1, k.2.1.trans h.2.1, fun p => ⟨(k.2.2 p).1.trans (h.2.2 p).1, (k.2.2 p).2.trans (h.2.2 p).2⟩⟩

theorem State.sameClasses_of {s t : State} (h : t.seats = s.seats) (k : t.cal.session = s.cal.session) :
    s.sameClasses t := ⟨by rw [h], by rw [k], fun p => by rw [h]; exact ⟨rfl, rfl⟩⟩

theorem State.classAt_same {s t : State} (h : s.sameClasses t) (p : Pos) : t.classAt p = s.classAt p := by
  obtain ⟨h1, h2, h3⟩ := h
  unfold State.classAt State.computedClassAt State.logical
  rw [(h3 p).1, (h3 p).2, h1]
  simp only [h2]

theorem State.classOf_same {s t : State} (h : s.sameClasses t) (i : Seat) : t.classOf i = s.classOf i := by
  rw [State.classOf, State.classOf, State.phys_congr h.1, State.classAt_same h]

theorem State.nonChair_same {s t : State} (h : s.sameClasses t) (k : t.floor.openList = s.floor.openList) :
    t.nonChair = s.nonChair := by
  simp only [State.nonChair, k, State.classOf_same h]

theorem State.room_same {s t : State} (h : s.sameClasses t) (k : t.floor.openList = s.floor.openList)
    (m : t.floor.maxOpen = s.floor.maxOpen) (i : Seat) : t.room i = s.room i := by
  simp only [State.room, State.nonChair_same h k, k, m, State.classOf_same h]

/-! ## Membership -/

theorem State.holds_iff (seat : Seat) : s.holds seat = true ↔ ∃ e ∈ s.floor.openList, e.seat = seat := by
  simp [State.holds]

theorem State.queued_iff (seat : Seat) : s.queued seat = true ↔ ∃ e ∈ s.floor.queue, e.seat = seat := by
  simp [State.queued]

theorem State.holds_find {seat : Seat} (h : s.holds seat = true) :
    ∃ e, s.floor.openList.find? (fun x => x.seat = seat) = some e ∧ e.seat = seat := by
  rw [State.holds_iff] at h
  cases hf : s.floor.openList.find? (fun x => x.seat = seat) with
  | none =>
    rw [List.find?_eq_none] at hf
    obtain ⟨e, he, hs⟩ := h
    exact absurd hs (by simpa using hf e he)
  | some e => exact ⟨e, rfl, by simpa using List.find?_some hf⟩

theorem State.filter_of_not_holds {seat : Seat} (h : s.holds seat = false) :
    s.floor.openList.filter (fun x => x.seat ≠ seat) = s.floor.openList := by
  rw [List.filter_eq_self]
  intro e he
  have : ¬ ∃ e ∈ s.floor.openList, e.seat = seat := by rw [← State.holds_iff]; simp [h]
  simp only [ne_eq, decide_not, Bool.not_eq_eq_eq_not, Bool.not_true, decide_eq_false_iff_not]
  exact fun hs => this ⟨e, he, hs⟩

theorem State.filter_of_not_queued {seat : Seat} (h : s.queued seat = false) :
    s.floor.queue.filter (fun x => x.seat ≠ seat) = s.floor.queue := by
  rw [List.filter_eq_self]
  intro e he
  have : ¬ ∃ e ∈ s.floor.queue, e.seat = seat := by rw [← State.queued_iff]; simp [h]
  simp only [ne_eq, decide_not, Bool.not_eq_eq_eq_not, Bool.not_true, decide_eq_false_iff_not]
  exact fun hs => this ⟨e, he, hs⟩

/-! ## The transmit queue -/

theorem State.admitScreen_length (e : Fin 4) : (s.admitScreen e).link.queue.length ≤ s.link.queue.length + 1 := by
  unfold State.admitScreen; split <;> simp

theorem State.offerScreen_length (e : Fin 4) : (s.offerScreen e).link.queue.length ≤ s.link.queue.length + 1 := by
  unfold State.offerScreen; split
  · exact s.admitScreen_length e
  · simp

theorem State.refreshScreen_length (e : Fin 4) : (s.refreshScreen e).link.queue.length ≤ s.link.queue.length + 1 := by
  unfold State.refreshScreen; simp only; repeat' split
  · omega
  · simp
  · exact s.offerScreen_length e
  · omega

/-- Four screens bring at most four frames. -/
theorem State.refreshScreens_length : s.refreshScreens.link.queue.length ≤ s.link.queue.length + 4 := by
  have h : ∀ (l : List (Fin 4)) (s : State),
      (l.foldl State.refreshScreen s).link.queue.length ≤ s.link.queue.length + l.length := by
    intro l
    induction l with
    | nil => intro s; simp
    | cons e l ih =>
      intro s
      have := s.refreshScreen_length e
      have := ih (s.refreshScreen e)
      simp only [List.foldl_cons, List.length_cons]
      omega
  exact h _ s

theorem State.refreshScreens_addresses : s.refreshScreens.link.noticeDest = s.link.noticeDest ∧
    s.refreshScreens.link.station = s.link.station ∧ s.refreshScreens.link.groups = s.link.groups ∧
    s.refreshScreens.link.audioDest = s.link.audioDest := by
  have := s.refreshScreens_keeps .addresses (by decide)
  simp only [State.agrees] at this
  exact ⟨this.2.2.1, this.1, this.2.1, this.2.2.2⟩

/-- A notice keeps everything but the queue and its own counter. -/
theorem State.notice_keeps (k : Nat) (b : List Byte) : s.keeps (s.notice k b) [.sending, .linkCounters] := by
  intro p hp
  have hl : (s.notice k b).link = s.link.offerNotice k b := rfl
  cases p <;> simp_all [State.agrees, Link.offerNotice] <;> (repeat' split) <;> simp

theorem Link.offerNotice_queue (l : Link) (k : Nat) (b : List Byte) : l.queue <+: (l.offerNotice k b).queue := by
  unfold Link.offerNotice; repeat' split
  all_goals simp

theorem State.notice_notified (k : Nat) (b : List Byte) : s.notified (s.notice k b) k b := by
  intro d hd hq
  simp [Link.offerNotice, hd, show s.link.queue.length < 8 by omega]

/-- What was notified stays so when the queue only grows. -/
theorem State.notified_mono {s t u : State} {k : Nat} {b : List Byte} (h : s.notified t k b)
    (hq : t.link.queue <+: u.link.queue) : s.notified u k b :=
  fun d hd hl => hq.subset (h d hd hl)

/-- A change of the floor reaches the queue, after the frames of the room screens. -/
theorem State.floorChange_notified (seat : Nat) (ev : FloorEvent) (r c n : Nat) :
    s.notified (s.floorChange seat ev r c n) 0x01
      (be8 seat ++ be8 ev.code ++ be8 r ++ be8 c ++ be8 n) := by
  intro d hd hq
  have h1 := s.refreshScreens_length
  obtain ⟨h2, h3, -, -⟩ := s.refreshScreens_addresses
  unfold State.floorChange
  simp only [State.notice_link]
  unfold Link.offerNotice
  rw [h2, hd]
  simp [show s.refreshScreens.link.queue.length < 8 by omega, h3]

theorem State.floorChange_keeps (seat : Nat) (ev : FloorEvent) (r c n : Nat) :
    s.keeps (s.floorChange seat ev r c n) [.screens, .sending, .linkCounters] :=
  State.keeps_trans (State.keeps_mono s.refreshScreens_keeps (by decide))
    (State.keeps_mono (State.notice_keeps _ _ _) (by decide))

theorem State.floorChange_queue (seat : Nat) (ev : FloorEvent) (r c n : Nat) :
    s.link.queue <+: (s.floorChange seat ev r c n).link.queue :=
  s.refreshScreens_queue.trans (Link.offerNotice_queue _ _ _)

theorem State.floorChange_micOf (seat : Nat) (ev : FloorEvent) (r c n : Nat) (i : Seat) :
    (s.floorChange seat ev r c n).micOf i = s.micOf i := State.micOf_congr (by simp) i

/-- The messages and the deliveries of the composer are not a matter of the floor. -/
theorem State.floorChange_disp (seat : Nat) (ev : FloorEvent) (r c n : Nat) :
    (s.floorChange seat ev r c n).disp.messages = s.disp.messages ∧
    (s.floorChange seat ev r c n).disp.delivery = s.disp.delivery ∧
    (s.floorChange seat ev r c n).disp.templates = s.disp.templates := by
  have h := s.floorChange_keeps seat ev r c n
  exact ⟨h .messages (by decide), h .delivery (by decide), h .templates (by decide)⟩

/-! ## Microphones -/

theorem State.leaveOpen_micOf (seat i : Seat) : (s.leaveOpen seat).micOf i =
    if i = seat ∧ (s.micOf seat).state = .opened then (s.micOf i).endTurn else s.micOf i := by
  unfold State.leaveOpen
  split
  · rename_i h
    rw [State.micOf_setMic]
    by_cases e : i = seat
    · simp [e, h]; rfl
    · simp [e]; rfl
  · rename_i h; simp [h]

theorem State.leaveOpen_recs (seat : Seat) (p : Pos) : (s.leaveOpen seat).seats.recs[p] =
    if p = s.phys seat ∧ (s.micOf seat).state = .opened then (s.seats.recs[p]).capture (s.micOf seat).timer
    else s.seats.recs[p] := by
  unfold State.leaveOpen
  split
  · rename_i h
    have : ((s.setRec (s.phys seat) (SeatRec.capture (s.micOf seat).timer)).setMic seat MicRec.endTurn).seats.recs[p]
        = (modify s.seats.recs (s.phys seat) (SeatRec.capture (s.micOf seat).timer))[p] := rfl
    rw [this, modify_get]; simp [h]
  · rename_i h; simp [h]

theorem State.leaveOpen_chair (seat : Seat) : (s.leaveOpen seat).seats.chair = s.seats.chair ∧
    (s.leaveOpen seat).seats.sessionMute = s.seats.sessionMute ∧
    (s.leaveOpen seat).seats.wingAMute = s.seats.wingAMute ∧
    (s.leaveOpen seat).seats.wingBMute = s.seats.wingBMute ∧
    (s.leaveOpen seat).mic.speakLimit = s.mic.speakLimit ∧
    (s.leaveOpen seat).mic.limitAction = s.mic.limitAction := by
  unfold State.leaveOpen; split <;> exact ⟨rfl, rfl, rfl, rfl, rfl, rfl⟩

theorem State.leaveOpen_seats_of_closed {seat : Seat} (h : (s.micOf seat).state ≠ .opened) : s.leaveOpen seat = s := by
  simp [State.leaveOpen, h]

/-- The microphone of a seat that a removal finds OPENING or OPEN goes to CLOSING; every other is as it was. -/
theorem State.micRemove_micOf (seat i : Seat) : (s.micRemove seat).micOf i =
    if i = seat ∧ ((s.micOf seat).state = .opening ∨ (s.micOf seat).state = .opened) then
      { (if (s.micOf seat).state = .opened then (s.micOf i).endTurn else s.micOf i) with
        state := .closing, gap := s.cfg.closeGap }
    else s.micOf i := by
  unfold State.micRemove
  by_cases e : i = seat
  · subst e
    cases h : (s.micOf i).state <;> simp [State.micOf_setMic, State.leaveOpen_micOf, h]
  · cases h : (s.micOf seat).state <;> simp [State.micOf_setMic, State.leaveOpen_micOf, e]

theorem State.micRemove_recs (seat : Seat) (p : Pos) : (s.micRemove seat).seats.recs[p] =
    if p = s.phys seat ∧ (s.micOf seat).state = .opened then (s.seats.recs[p]).capture (s.micOf seat).timer
    else s.seats.recs[p] := by
  unfold State.micRemove
  cases h : (s.micOf seat).state
  · simp
  · exact (s.leaveOpen_recs seat p).trans (by simp [h])
  · exact (s.leaveOpen_recs seat p).trans (by simp [h])
  · simp

theorem State.micRemove_chair (seat : Seat) : (s.micRemove seat).seats.chair = s.seats.chair ∧
    (s.micRemove seat).mic.speakLimit = s.mic.speakLimit ∧
    (s.micRemove seat).mic.limitAction = s.mic.limitAction := by
  unfold State.micRemove
  cases h : (s.micOf seat).state <;> simp [State.leaveOpen_chair]

/-- A microphone closed at once. -/
theorem State.micClose_micOf (seat i : Seat) : (s.micClose seat).micOf i =
    if i = seat then
      { (if (s.micOf seat).state = .opened then (s.micOf i).endTurn else s.micOf i) with state := .closed, gap := 0 }
    else s.micOf i := by
  unfold State.micClose
  rw [State.micOf_setMic, State.leaveOpen_micOf]
  by_cases e : i = seat <;> simp [e]

theorem State.micClose_recs (seat : Seat) (p : Pos) : (s.micClose seat).seats.recs[p] =
    if p = s.phys seat ∧ (s.micOf seat).state = .opened then (s.seats.recs[p]).capture (s.micOf seat).timer
    else s.seats.recs[p] := s.leaveOpen_recs seat p

theorem State.micClose_chair (seat : Seat) : (s.micClose seat).seats.chair = s.seats.chair ∧
    (s.micClose seat).mic.speakLimit = s.mic.speakLimit ∧
    (s.micClose seat).mic.limitAction = s.mic.limitAction := by
  obtain ⟨h, -, -, -, h2, h3⟩ := s.leaveOpen_chair seat
  exact ⟨h, h2, h3⟩

/-- A capture changes no class. -/
theorem sameClasses_of_capture {s t : State} {seat : Seat} (hc : t.seats.chair = s.seats.chair)
    (hs : t.cal.session = s.cal.session)
    (h : ∀ p : Pos, t.seats.recs[p] = if p = s.phys seat ∧ (s.micOf seat).state = .opened then
      (s.seats.recs[p]).capture (s.micOf seat).timer else s.seats.recs[p]) : s.sameClasses t := by
  refine ⟨hc, by rw [hs], fun p => ?_⟩
  have hp := h p
  split at hp <;> rw [hp] <;> exact ⟨rfl, rfl⟩

/-! ## A seat leaves the queue -/

theorem State.dequeue_floor (seat : Seat) : (s.dequeue seat).floor =
    { s.floor with queue := s.floor.queue.filter (fun x => x.seat ≠ seat) } := by
  unfold State.dequeue
  split
  · rfl
  · rename_i h
    rw [State.filter_of_not_queued s (by simpa using h)]

theorem State.dequeue_micOf (seat i : Seat) : (s.dequeue seat).micOf i =
    if i = seat ∧ s.queued seat = true then { s.micOf i with queued := false } else s.micOf i := by
  have hf : ∀ (f : Floor → Floor) (j : Seat), (s.setFloor f).micOf j = s.micOf j := fun _ _ => rfl
  unfold State.dequeue
  split
  · rename_i h
    rw [State.micOf_setMic, hf]
    by_cases e : i = seat <;> simp [e, h]
  · rename_i h; simp [h]

/-- The seat's place in the queue, if it has one, and its queued mark, go together. -/
theorem State.withdraw_floor (seat : Seat) (r : Reason) : (s.withdraw seat r).floor =
    { s.floor with queue := s.floor.queue.filter (fun x => x.seat ≠ seat) } := by
  unfold State.withdraw
  split
  · rename_i h
    rw [State.filter_of_not_queued]
    rw [State.queued]
    rw [List.find?_eq_none] at h
    simpa using h
  · simp [State.dequeue_floor]

theorem State.withdraw_micOf (seat i : Seat) (r : Reason) : (s.withdraw seat r).micOf i =
    if i = seat ∧ s.queued seat = true then { s.micOf i with queued := false } else s.micOf i := by
  unfold State.withdraw
  split
  · rename_i h
    have : s.queued seat = false := by
      rw [State.queued]; rw [List.find?_eq_none] at h; simpa using h
    simp [this]
  · rw [State.floorChange_micOf, State.dequeue_micOf]

/-! ## A grant -/

theorem State.grantSeat_floor (seat : Seat) (c : Source) : (s.grantSeat seat c).floor =
    { s.floor with queue := s.floor.queue.filter (fun x => x.seat ≠ seat),
                   openList := s.floor.openList ++ [⟨seat, s.clock.now, c⟩] } := by
  simp [State.grantSeat, State.micGrant, State.dequeue_floor]

theorem State.grantSeat_seats (seat : Seat) (c : Source) : (s.grantSeat seat c).seats = s.seats := by
  simp only [State.grantSeat, State.micGrant, State.dequeue]
  split <;> simp

theorem State.grantSeat_micOf (seat : Seat) (c : Source) (i : Seat) : (s.grantSeat seat c).micOf i =
    if i = seat then
      { (if s.queued seat = true then { s.micOf i with queued := false } else s.micOf i) with
        state := .opening, gap := s.cfg.openGap }
    else s.micOf i := by
  unfold State.grantSeat State.micGrant
  simp only
  rw [State.floorChange_micOf, State.micOf_setMic]
  have : ∀ u : State, ∀ f, (u.setFloor f).micOf i = u.micOf i := fun _ _ => rfl
  rw [this, State.dequeue_micOf]
  by_cases e : i = seat
  · subst e
    simp [State.setFloor]
  · simp [e]

theorem State.grantSeat_notified (seat : Seat) (c : Source) : s.notified (s.grantSeat seat c) 0x01
    (be8 seat.val ++ be8 0 ++ be8 0xFF ++ be8 c.code ++ be8 0xFF) := by
  intro d hd hq
  unfold State.grantSeat
  simp only
  have key : ∀ u : State, u.link = s.link → _ := fun u hu =>
    u.floorChange_notified seat.val .grant noByte c.code noByte d (by rw [hu]; exact hd) (by rw [hu]; exact hq)
  have := key (State.micGrant ((s.dequeue seat).setFloor fun f =>
    { f with openList := f.openList ++ [⟨seat, s.clock.now, c⟩] }) seat) (by simp [State.micGrant])
  simpa [State.micGrant, FloorEvent.code, noByte] using this

/-! ## A removal -/

/-- A removal of a seat that holds the floor. -/
theorem State.removeCore_floor (seat : Seat) (r : Reason) (h : s.holds seat = true) : (s.removeCore seat r).floor =
    { s.floor with openList := s.floor.openList.filter (fun x => x.seat ≠ seat),
                   blocked := if s.floor.mode = .voice && r.blocks then s.floor.blocked.set seat true
                     else s.floor.blocked } := by
  obtain ⟨e, he, -⟩ := s.holds_find h
  unfold State.removeCore
  rw [he]
  simp only [State.floorChange_frame]
  split <;> simp

theorem State.removeCore_of_not (seat : Seat) (r : Reason) (h : s.holds seat = false) : s.removeCore seat r = s := by
  unfold State.removeCore
  have : s.floor.openList.find? (fun x => decide (x.seat = seat)) = none := by
    rw [List.find?_eq_none]; simpa [State.holds] using h
  rw [this]

/-- The open list after a removal, whether or not the seat stood in it. -/
theorem State.removeCore_openList (seat : Seat) (r : Reason) :
    (s.removeCore seat r).floor.openList = s.floor.openList.filter (fun x => x.seat ≠ seat) := by
  cases h : s.holds seat
  · rw [s.removeCore_of_not _ _ h, s.filter_of_not_holds h]
  · rw [s.removeCore_floor _ _ h]

theorem State.removeCore_queue (seat : Seat) (r : Reason) : (s.removeCore seat r).floor.queue = s.floor.queue ∧
    (s.removeCore seat r).floor.mode = s.floor.mode ∧ (s.removeCore seat r).floor.maxOpen = s.floor.maxOpen ∧
    (s.removeCore seat r).floor.seen = s.floor.seen := by
  cases h : s.holds seat
  · rw [s.removeCore_of_not _ _ h]; simp
  · rw [s.removeCore_floor _ _ h]; simp

theorem State.removeCore_micOf (seat i : Seat) (r : Reason) (hr : r.atOnce = false) (h : s.holds seat = true) :
    (s.removeCore seat r).micOf i = (s.micRemove seat).micOf i := by
  obtain ⟨e, he, -⟩ := s.holds_find h
  unfold State.removeCore
  rw [he]
  simp only [State.floorChange_micOf, hr, Bool.false_eq_true, if_false]
  simp only [State.micRemove_micOf]
  rfl

theorem State.removeCore_micOf_atOnce (seat i : Seat) (r : Reason) (hr : r.atOnce = true) (h : s.holds seat = true) :
    (s.removeCore seat r).micOf i = (s.micClose seat).micOf i := by
  obtain ⟨e, he, -⟩ := s.holds_find h
  unfold State.removeCore
  rw [he]
  simp only [State.floorChange_micOf, hr, if_true]
  simp only [State.micClose_micOf]
  rfl

/-- No other microphone is touched by a removal. -/
theorem State.removeCore_micOf_ne (seat i : Seat) (r : Reason) (hi : i ≠ seat) :
    (s.removeCore seat r).micOf i = s.micOf i := by
  cases h : s.holds seat
  · rw [s.removeCore_of_not _ _ h]
  · cases hr : r.atOnce
    · rw [s.removeCore_micOf _ _ _ hr h, State.micRemove_micOf]; simp [hi]
    · rw [s.removeCore_micOf_atOnce _ _ _ hr h, State.micClose_micOf]; simp [hi]

/-- The record of the seat takes the turn that a removal ended. -/
theorem State.removeCore_recs (seat : Seat) (p : Pos) (r : Reason) (h : s.holds seat = true) :
    (s.removeCore seat r).seats.recs[p] =
      if p = s.phys seat ∧ (s.micOf seat).state = .opened then (s.seats.recs[p]).capture (s.micOf seat).timer
      else s.seats.recs[p] := by
  obtain ⟨e, he, -⟩ := s.holds_find h
  unfold State.removeCore
  rw [he]
  simp only [State.floorChange_frame]
  split
  · exact State.micClose_recs _ _ _
  · exact State.micRemove_recs _ _ _

theorem State.removeCore_chair (seat : Seat) (r : Reason) : (s.removeCore seat r).seats.chair = s.seats.chair ∧
    (s.removeCore seat r).mic.speakLimit = s.mic.speakLimit ∧
    (s.removeCore seat r).mic.limitAction = s.mic.limitAction := by
  unfold State.removeCore
  split
  · exact ⟨rfl, rfl, rfl⟩
  · simp only [State.floorChange_frame]
    split
    · exact State.micClose_chair _ _
    · exact State.micRemove_chair _ _

theorem State.removeCore_classes (seat : Seat) (r : Reason) : s.sameClasses (s.removeCore seat r) := by
  cases h : s.holds seat
  · rw [s.removeCore_of_not _ _ h]; exact s.sameClasses_refl
  · exact sameClasses_of_capture (s.removeCore_chair _ _).1 (by simp) (fun p => s.removeCore_recs seat p r h)

theorem State.removeCore_notified (seat : Seat) (r : Reason) (e : OpenEntry)
    (h : s.floor.openList.find? (fun x => x.seat = seat) = some e) : s.notified (s.removeCore seat r) 0x01
    (be8 seat.val ++ be8 1 ++ be8 r.code ++ be8 e.source.code ++ be8 0xFF) := by
  intro d hd hq
  unfold State.removeCore
  rw [h]
  have key : ∀ u : State, u.link = s.link → _ := fun u hu =>
    u.floorChange_notified seat.val .remove r.code e.source.code noByte d (by rw [hu]; exact hd) (by rw [hu]; exact hq)
  simp only
  split
  · have := key (State.micClose (s.setFloor fun f =>
      { f with openList := f.openList.filter (fun x => x.seat ≠ seat),
               blocked := if f.mode = .voice && r.blocks then f.blocked.set seat true else f.blocked }) seat) (by simp)
    simpa [FloorEvent.code, noByte] using this
  · have := key (State.micRemove (s.setFloor fun f =>
      { f with openList := f.openList.filter (fun x => x.seat ≠ seat),
               blocked := if f.mode = .voice && r.blocks then f.blocked.set seat true else f.blocked }) seat) (by simp)
    simpa [FloorEvent.code, noByte] using this

/-! ## What follows a removal -/

/-- Without auto-advance, or outside QUEUE mode, the check grants no seat. -/
theorem State.advanceLoop_off (n : Nat) (s : State) (h : s.cfg.autoAdvance = false) : State.advanceLoop n s = s := by
  cases n with
  | zero => rfl
  | succ n =>
    unfold State.advanceLoop
    split
    · rfl
    · simp [State.mayAdvance, h]

theorem State.autoAdvance_off (h : s.noAdvance) : s.autoAdvance = s := by
  unfold State.autoAdvance
  rcases h with h | h
  · simp [h]
  · split
    · exact State.advanceLoop_off _ _ h
    · rfl

/-- Outside GRACE a removal is no more than its own effect. -/
theorem State.removeEntry_plain (seat : Seat) (r : Reason) (h : s.cal.session ≠ .grace) :
    s.removeEntry seat r = s.removeCore seat r := by
  unfold State.removeEntry
  split
  · simp [h]
  · rename_i hh
    rw [s.removeCore_of_not _ _ (by simpa using hh)]

theorem State.noAdvance_congr {s t : State} (h : s.noAdvance) (hm : t.floor.mode = s.floor.mode) (hc : t.cfg = s.cfg) :
    t.noAdvance := by
  unfold State.noAdvance; rw [hm, hc]; exact h

theorem State.removeThenAdvance_plain (seat : Seat) (r : Reason) (h : s.cal.session ≠ .grace) (ha : s.noAdvance) :
    s.removeThenAdvance seat r = s.removeCore seat r := by
  unfold State.removeThenAdvance
  split
  · rw [s.removeEntry_plain _ _ h]
    exact State.autoAdvance_off _ (State.noAdvance_congr ha (s.removeCore_queue _ _).2.1 (by simp))
  · rename_i hh
    rw [s.removeCore_of_not _ _ (by simpa using hh)]

/-! ## The queue as a whole -/

theorem State.enqueue_floor (seat : Seat) (c : Source) : (s.enqueue seat c).floor =
    { s.floor with queue := s.floor.queue ++ [⟨seat, s.clock.now.minute, s.clock.now.second, c⟩] } := by
  simp [State.enqueue]

theorem State.enqueue_micOf (seat i : Seat) (c : Source) : (s.enqueue seat c).micOf i =
    if i = seat then { s.micOf i with queued := true } else s.micOf i := by
  unfold State.enqueue
  simp only
  rw [State.floorChange_micOf, State.micOf_setMic]
  rfl

theorem State.enqueue_notified (seat : Seat) (c : Source) : s.notified (s.enqueue seat c) 0x01
    (be8 seat.val ++ be8 2 ++ be8 0xFF ++ be8 c.code ++ be8 (s.floor.queue.length + 1)) := by
  intro d hd hq
  unfold State.enqueue
  simp only
  have key : ∀ u : State, u.link = s.link → _ := fun u hu =>
    u.floorChange_notified seat.val .enqueue noByte c.code (s.floor.queue.length + 1) d (by rw [hu]; exact hd)
      (by rw [hu]; exact hq)
  have := key ((s.setFloor fun f =>
    { f with queue := f.queue ++ [⟨seat, s.clock.now.minute, s.clock.now.second, c⟩] }).setMic seat
      fun m => { m with queued := true }) (by simp)
  simpa [FloorEvent.code, noByte] using this

theorem State.unqueueAll_micOf (l : List QueueEntry) (i : Seat) (s : State) : (s.unqueueAll l).micOf i =
    if ∃ e ∈ l, e.seat = i then { s.micOf i with queued := false } else s.micOf i := by
  unfold State.unqueueAll
  induction l generalizing s with
  | nil => simp
  | cons e l ih =>
    rw [List.foldl_cons, ih, State.micOf_setMic]
    by_cases h : i = e.seat
    · subst h; simp
    · have : ¬ e.seat = i := fun x => h x.symm
      simp [h, this]

theorem State.clearQueue_floor (r : Reason) : (s.clearQueue r).floor = { s.floor with queue := [] } := by
  simp [State.clearQueue]

theorem State.clearQueue_micOf (r : Reason) (i : Seat) : (s.clearQueue r).micOf i =
    if s.queued i = true then { s.micOf i with queued := false } else s.micOf i := by
  unfold State.clearQueue
  rw [State.floorChange_micOf]
  have : ∀ u : State, ∀ f, (u.setFloor f).micOf i = u.micOf i := fun _ _ => rfl
  rw [this, State.unqueueAll_micOf]
  simp only [State.queued_iff]

/-! ## Frames in pieces -/

theorem State.setMic_keeps (seat : Seat) (f : MicRec → MicRec) : s.keeps (s.setMic seat f) [.mic] := by
  intro p hp; cases p <;> simp_all [State.agrees]

theorem State.setFloor_keeps (f : Floor → Floor) : s.keeps (s.setFloor f) [.floor] := by
  intro p hp; cases p <;> simp_all [State.agrees]

theorem State.setRec_keeps (p : Pos) (f : SeatRec → SeatRec) : s.keeps (s.setRec p f) [.seats] := by
  intro q hq; cases q <;> simp_all [State.agrees]

theorem State.leaveOpen_keeps (seat : Seat) : s.keeps (s.leaveOpen seat) [.mic, .seats] := by
  unfold State.leaveOpen; split
  · exact State.keeps_trans (State.keeps_mono (s.setRec_keeps _ _) (by decide))
      (State.keeps_mono (State.setMic_keeps _ _ _) (by decide))
  · exact s.keeps_refl _

theorem State.micRemove_keeps (seat : Seat) : s.keeps (s.micRemove seat) [.mic, .seats] := by
  unfold State.micRemove
  split
  · exact State.keeps_trans (s.leaveOpen_keeps _) (State.keeps_mono (State.setMic_keeps _ _ _) (by decide))
  · exact State.keeps_trans (s.leaveOpen_keeps _) (State.keeps_mono (State.setMic_keeps _ _ _) (by decide))
  · exact s.keeps_refl _

theorem State.micClose_keeps (seat : Seat) : s.keeps (s.micClose seat) [.mic, .seats] :=
  State.keeps_trans (s.leaveOpen_keeps _) (State.keeps_mono (State.setMic_keeps _ _ _) (by decide))

theorem State.dequeue_keeps (seat : Seat) : s.keeps (s.dequeue seat) [.floor, .mic] := by
  unfold State.dequeue; split
  · exact State.keeps_trans (State.keeps_mono (s.setFloor_keeps _) (by decide))
      (State.keeps_mono (State.setMic_keeps _ _ _) (by decide))
  · exact s.keeps_refl _

theorem State.grantSeat_keeps (seat : Seat) (c : Source) : s.keeps (s.grantSeat seat c) floorPieces := by
  unfold State.grantSeat State.micGrant
  exact State.keeps_trans (State.keeps_mono (s.dequeue_keeps seat) (by decide))
    (State.keeps_trans (State.keeps_mono (State.setFloor_keeps _ _) (by decide))
    (State.keeps_trans (State.keeps_mono (State.setMic_keeps _ _ _) (by decide))
    (State.keeps_mono (State.floorChange_keeps _ _ _ _ _ _) (by decide))))

theorem State.removeCore_keeps (seat : Seat) (r : Reason) : s.keeps (s.removeCore seat r) floorPieces := by
  unfold State.removeCore
  split
  · exact s.keeps_refl _
  · simp only
    split
    · exact State.keeps_trans (State.keeps_mono (State.setFloor_keeps _ _) (by decide))
        (State.keeps_trans (State.keeps_mono (State.micClose_keeps _ _) (by decide))
        (State.keeps_mono (State.floorChange_keeps _ _ _ _ _ _) (by decide)))
    · exact State.keeps_trans (State.keeps_mono (State.setFloor_keeps _ _) (by decide))
        (State.keeps_trans (State.keeps_mono (State.micRemove_keeps _ _) (by decide))
        (State.keeps_mono (State.floorChange_keeps _ _ _ _ _ _) (by decide)))

theorem State.withdraw_keeps (seat : Seat) (r : Reason) : s.keeps (s.withdraw seat r) floorPieces := by
  unfold State.withdraw
  split
  · exact s.keeps_refl _
  · exact State.keeps_trans (State.keeps_mono (s.dequeue_keeps seat) (by decide))
      (State.keeps_mono (State.floorChange_keeps _ _ _ _ _ _) (by decide))

theorem State.enqueue_keeps (seat : Seat) (c : Source) : s.keeps (s.enqueue seat c) floorPieces := by
  unfold State.enqueue
  exact State.keeps_trans (State.keeps_mono (State.setFloor_keeps _ _) (by decide))
    (State.keeps_trans (State.keeps_mono (State.setMic_keeps _ _ _) (by decide))
    (State.keeps_mono (State.floorChange_keeps _ _ _ _ _ _) (by decide)))

theorem State.unqueueAll_keeps (l : List QueueEntry) : s.keeps (s.unqueueAll l) [.mic] :=
  State.foldl_keeps _ _ (fun u _ => u.setMic_keeps _ _) _ _

theorem State.clearQueue_keeps (r : Reason) : s.keeps (s.clearQueue r) floorPieces := by
  unfold State.clearQueue
  exact State.keeps_trans (State.keeps_mono (State.unqueueAll_keeps _ _) (by decide))
    (State.keeps_trans (State.keeps_mono (State.setFloor_keeps _ _) (by decide))
    (State.keeps_mono (State.floorChange_keeps _ _ _ _ _ _) (by decide)))

theorem State.advanceLoop_keeps (n : Nat) (s : State) : s.keeps (State.advanceLoop n s) floorPieces := by
  induction n generalizing s with
  | zero => exact s.keeps_refl _
  | succ n ih =>
    unfold State.advanceLoop
    split
    · exact s.keeps_refl _
    · split
      · exact State.keeps_trans (s.grantSeat_keeps _ _) (ih _)
      · exact s.keeps_refl _

theorem State.autoAdvance_keeps : s.keeps s.autoAdvance floorPieces := by
  unfold State.autoAdvance; split
  · exact State.advanceLoop_keeps _ _
  · exact s.keeps_refl _

theorem State.refuse_keeps (seat : Seat) (r : Refuse) (k : PressKind) :
    s.keeps (s.refuse seat r k) [.mic, .cal, .sending, .linkCounters] := by
  unfold State.refuse
  intro p hp
  have h1 := State.keeps_mono (m := [.mic, .cal, .sending, .linkCounters])
    (s.setMic_keeps seat fun m => { m with flash := 2000 }) (by decide) p hp
  have h2 := State.keeps_mono (m := [.mic, .cal, .sending, .linkCounters])
    ((s.setMic seat fun m => { m with flash := 2000 }).notice_keeps 0x02
      (be8 seat.val ++ be8 r.status.code ++ be8 k.code)) (by decide) p hp
  refine State.agrees_trans (State.agrees_trans h1 h2) ?_
  cases p <;> simp_all [State.agrees]

theorem State.refuse_micOf (seat i : Seat) (r : Refuse) (k : PressKind) : (s.refuse seat r k).micOf i =
    if i = seat then { s.micOf i with flash := 2000 } else s.micOf i := s.micOf_setMic _ _ _

/-! ## The auto-advance check -/

theorem State.roomBeside_iff (l : List OpenEntry) (seat : Seat) (h : s.floor.openList = l) :
    s.roomBeside l seat ↔ s.room seat = true := by
  subst h
  simp [State.roomBeside, State.room, State.nonChair]

theorem State.roomBeside_same {s t : State} (h : s.sameClasses t) (m : t.floor.maxOpen = s.floor.maxOpen)
    (l : List OpenEntry) (seat : Seat) : t.roomBeside l seat ↔ s.roomBeside l seat := by
  simp only [State.roomBeside, State.classOf_same h, m]

/-- What a check promises of a state it promises of another that agrees in the classes, the limit, the clock, the gap and the
microphones that are not touched. -/
theorem State.Advances.congr {s u t : State} {kept : List OpenEntry} {waiting : List QueueEntry} {l m : List Seat}
    (h : u.Advances t kept waiting l) (hc : s.sameClasses u) (hm : u.floor.maxOpen = s.floor.maxOpen)
    (hk : u.clock = s.clock) (hg : u.cfg.openGap = s.cfg.openGap) (hl : ∀ i ∈ l, i ∈ m)
    (hs : ∀ i, i ∉ m → u.micOf i = s.micOf i) : s.Advances t kept waiting m := by
  obtain ⟨k, h1, h2, h3, h4, h5, h6⟩ := h
  refine ⟨k, h1, hk ▸ h2, h3, fun n e he => ?_, fun e he => hg ▸ h5 e he, fun i hi hn => ?_⟩
  · simpa only [State.roomBeside_same hc hm, hk] using h4 n e he
  · rw [h6 i (fun x => hi (hl i x)) hn, hs i hi]

/-- The check, made as often as the queue is long, grants the heads that find room and no more. -/
theorem State.advanceLoop_advances (n : Nat) (u : State) (hn : u.floor.queue.length ≤ n)
    (hd : (u.floor.queue.map (·.seat)).Nodup) (hh : u.store.halted = false) (hs : u.cal.session = .inSession)
    (ha : u.cfg.autoAdvance = true) : u.Advances (State.advanceLoop n u) u.floor.openList u.floor.queue [] := by
  induction n generalizing u with
  | zero =>
    have hq : u.floor.queue = [] := List.length_eq_zero_iff.mp (by omega)
    exact ⟨0, by simp [State.advanceLoop, hq]⟩
  | succ n ih =>
    unfold State.advanceLoop
    split
    · next hq => exact ⟨0, by simp [hq]⟩
    · next e rest hq =>
      have hm : u.mayAdvance e.seat = true ↔ u.roomBeside u.floor.openList e.seat := by
        rw [u.roomBeside_iff _ _ rfl]
        simp [State.mayAdvance, State.room, ha, hs, hh]
      rw [hq] at hd hn
      simp only [List.map_cons, List.nodup_cons, List.mem_map, not_exists, not_and] at hd
      split
      · next hr =>
        set v := u.grantSeat e.seat .queue with hv
        have hk := u.grantSeat_keeps e.seat .queue
        have hcal := hk .cal (by decide)
        have hcfg := hk .cfg (by decide)
        have hclk := hk .clock (by decide)
        have hsto := hk .store (by decide)
        have hf : v.floor = { u.floor with
            queue := rest, openList := u.floor.openList ++ [⟨e.seat, u.clock.now, .queue⟩] } := by
          rw [hv, u.grantSeat_floor, hq]
          have : rest.filter (fun x => x.seat ≠ e.seat) = rest :=
            List.filter_eq_self.mpr fun x hx => by simpa using hd.1 x hx
          simpa using this
        obtain ⟨k, h1, h2, h3, h4, h5, h6⟩ := ih v (by rw [hf]; simp at hn ⊢; omega) (by rw [hf]; exact hd.2)
          (by rw [hsto]; exact hh) (by rw [hcal]; exact hs) (by rw [hcfg]; exact ha)
        rw [hf] at h1 h2 h3 h4 h5 h6
        rw [hclk] at h2 h4
        rw [hcfg] at h5
        have hc : u.sameClasses v := State.sameClasses_of (u.grantSeat_seats e.seat .queue) (by rw [hcal])
        have hmic := u.grantSeat_micOf e.seat .queue
        rw [← hv] at hmic
        refine ⟨k + 1, by rw [hq]; simpa using h1, ?_, ?_, ?_, ?_, ?_⟩
        · rw [h2, hq]; simp
        · rw [h3, hq]; simp
        · rw [hq]
          rintro (_ | j) x hx
          · simp only [List.getElem?_cons_zero, Option.some.injEq] at hx
            subst hx
            simpa using hm.mp hr
          · have := h4 j x (by simpa using hx)
            simp only [State.roomBeside_same hc (by rw [hf]), List.append_assoc, List.singleton_append] at this
            simpa using this
        · rw [hq]
          intro x hx
          rw [List.take_succ_cons, List.mem_cons] at hx
          by_cases hin : ∃ y ∈ rest.take k, y.seat = x.seat
          · obtain ⟨y, hy, hyx⟩ := hin
            rw [← hyx]; exact h5 y hy
          · push Not at hin
            rcases hx with rfl | hx
            · rw [h6 x.seat (by simp) hin, hmic, if_pos rfl]
              have : u.queued x.seat = true := by rw [u.queued_iff, hq]; exact ⟨x, by simp, rfl⟩
              simp [this]
            · exact absurd rfl (hin x hx)
        · rw [hq]
          intro i _ hi
          rw [List.take_succ_cons] at hi
          rw [h6 i (by simp) fun y hy => hi y (List.mem_cons_of_mem _ hy), hmic, if_neg]
          exact fun h => hi e (by simp) h.symm
      · next hr =>
        refine ⟨0, by simp, by simp, by simp, ?_, by simp, by simp⟩
        intro j x hx
        refine ⟨by omega, ?_⟩
        rintro rfl
        rw [hq] at hx
        simp only [List.getElem?_cons_zero, Option.some.injEq] at hx
        subst hx
        simpa using fun h => hr (hm.mpr h)

theorem State.autoAdvance_advances (h : s.Advancing) : s.Advances s.autoAdvance s.floor.openList s.floor.queue [] := by
  obtain ⟨hh, hs, hm, ha, hf⟩ := h
  unfold State.autoAdvance
  rw [if_pos hm]
  refine State.advanceLoop_advances _ s le_rfl ?_ hh hs ha
  have := hf.2.2.1
  rw [Floor.seats, List.nodup_append] at this
  exact this.2.1

end Sys2Proof.Machine
end

