-- ==== Sys2Proof/Laws/Session.lean ====
section
/-! SUPPORT. What the operations of the calendar, of a limit, and of a loss can touch, in pieces, and the calendar's own
steps where they are plain. -/

namespace Sys2Proof.Machine

variable (s : State)

theorem floor_session {s t : State} (h : s.keeps t floorPieces) : s.keeps t sessionPieces :=
  State.keeps_mono h (by decide)

theorem State.bindRoster_keeps (r : Option (Fin 8)) : s.keeps (s.bindRoster r) [.seats] := by
  intro p hp; cases p <;> simp_all [State.agrees, State.bindRoster]

theorem State.clearMessages_keeps : s.keeps s.clearMessages [.messages] := by
  intro p hp; cases p <;> simp_all [State.agrees, State.clearMessages]

theorem State.startSession_keeps (b : Booking) : s.keeps (s.startSession b) sessionPieces := by
  unfold State.startSession
  simp only
  refine State.keeps_trans ?_ (State.keeps_mono (State.notice_keeps _ _ _) (by decide))
  refine State.keeps_trans ?_ (State.keeps_mono (State.clearMessages_keeps _) (by decide))
  intro p hp
  cases p <;> simp_all [State.agrees, State.bindRoster, sessionPieces]

theorem State.removeMissed_keeps : s.keeps s.removeMissed sessionPieces := by
  unfold State.removeMissed
  simp only
  split
  · exact s.keeps_refl _
  · refine State.keeps_trans ?_ (State.keeps_mono (State.notice_keeps _ _ _) (by decide))
    intro p hp; cases p <;> simp_all [State.agrees, sessionPieces]

theorem State.testNext_keeps : s.keeps s.testNext sessionPieces := by
  unfold State.testNext
  split
  · intro p hp; cases p <;> simp_all [State.agrees, sessionPieces]
  · split
    · exact s.startSession_keeps _
    · split <;> (intro p hp; cases p <;> simp_all [State.agrees, sessionPieces])

theorem State.evaluateIdle_keeps : s.keeps s.evaluateIdle sessionPieces := by
  unfold State.evaluateIdle
  split
  · exact s.keeps_refl _
  · exact State.keeps_trans s.removeMissed_keeps (State.testNext_keeps _)

theorem State.completeClosing_keeps : s.keeps s.completeClosing sessionPieces := by
  unfold State.completeClosing
  simp only
  refine State.keeps_trans ?_ (State.evaluateIdle_keeps _)
  refine State.keeps_trans ?_ (State.keeps_mono (State.refreshScreens_keeps _) (by decide))
  refine State.keeps_trans ?_ (State.keeps_mono (State.clearMessages_keeps _) (by decide))
  intro p hp; cases p <;> simp_all [State.agrees, State.endOfSessionWork, sessionPieces]

theorem State.reportClosed_keeps : s.keeps s.reportClosed sessionPieces := by
  unfold State.reportClosed
  split
  · exact s.completeClosing_keeps
  · exact s.keeps_refl _

theorem State.removeAll_keeps (l : List OpenEntry) (r : Reason) : s.keeps (s.removeAll l r) floorPieces :=
  State.foldl_keeps _ _ (fun u (e : OpenEntry) => u.removeCore_keeps e.seat r) _ _

theorem State.startClosing_keeps (c : EndCause) : s.keeps (s.startClosing c) sessionPieces := by
  unfold State.startClosing
  simp only
  refine State.keeps_trans ?_ (State.reportClosed_keeps _)
  refine State.keeps_trans ?_ (State.keeps_mono (State.notice_keeps _ _ _) (by decide))
  refine State.keeps_trans (t := State.clearQueue (State.removeAll (State.clearMessages { s with cal := { s.cal with
    session := .closing, endCause := some c, actualEnd := s.clock.now, graceEnd := none } })
    (State.clearMessages { s with cal := { s.cal with
    session := .closing, endCause := some c, actualEnd := s.clock.now, graceEnd := none } }).floor.openList .sessionEnd) .sessionEnd) ?_ ?_
  · refine State.keeps_trans ?_ (floor_session (State.clearQueue_keeps _ _))
    refine State.keeps_trans ?_ (floor_session (State.removeAll_keeps _ _ _))
    refine State.keeps_trans ?_ (State.keeps_mono (State.clearMessages_keeps _) (by decide))
    intro p hp; cases p <;> simp_all [State.agrees, sessionPieces]
  · intro p hp; cases p <;> simp_all [State.agrees, sessionPieces]

theorem State.removeEntry_keeps (seat : Seat) (r : Reason) : s.keeps (s.removeEntry seat r) sessionPieces := by
  unfold State.removeEntry
  split
  · simp only
    split
    · exact State.keeps_trans (floor_session (s.removeCore_keeps _ _)) (State.startClosing_keeps _ _)
    · exact floor_session (s.removeCore_keeps _ _)
  · exact s.keeps_refl _

theorem State.removeThenAdvance_keeps (seat : Seat) (r : Reason) : s.keeps (s.removeThenAdvance seat r) sessionPieces := by
  unfold State.removeThenAdvance
  split
  · exact State.keeps_trans (s.removeEntry_keeps _ _) (floor_session (State.autoAdvance_keeps _))
  · exact s.keeps_refl _

theorem State.reduceLoop_keeps (n : Nat) (s : State) : s.keeps (State.reduceLoop n s) sessionPieces := by
  induction n generalizing s with
  | zero => exact s.keeps_refl _
  | succ n ih =>
    unfold State.reduceLoop
    split
    · split
      · exact State.keeps_trans (s.removeThenAdvance_keeps _ _) (ih _)
      · exact s.keeps_refl _
    · exact s.keeps_refl _

theorem State.reduceOpen_keeps : s.keeps s.reduceOpen sessionPieces := State.reduceLoop_keeps _ _

theorem State.testEnd_keeps : s.keeps s.testEnd sessionPieces := by
  have h : ∀ (f : Calendar → Calendar), s.keeps { s with cal := f s.cal } sessionPieces := by
    intro f p hp; cases p <;> simp_all [State.agrees, sessionPieces]
  unfold State.testEnd
  split
  · exact s.keeps_refl _
  · simp only
    split
    · split
      · split
        · exact h fun c => { c with session := .grace, graceEnd := some _ }
        · exact s.startClosing_keeps _
      · exact s.keeps_refl _
    · split
      · exact State.keeps_trans (h fun c => { c with session := .inSession, graceEnd := none })
          (floor_session (State.autoAdvance_keeps _))
      · split
        · exact s.startClosing_keeps _
        · exact h fun c => { c with graceEnd := some _ }
    · exact s.keeps_refl _

theorem State.evaluate_keeps : s.keeps s.evaluate sessionPieces := by
  unfold State.evaluate
  split
  · exact s.evaluateIdle_keeps
  · exact s.evaluateIdle_keeps
  · exact s.keeps_refl _
  all_goals
    split
    · split
      · exact s.testEnd_keeps
      · exact s.keeps_refl _
    · exact State.keeps_trans s.removeMissed_keeps (State.testEnd_keeps _)

theorem State.evaluateLimit_keeps (seat : Seat) : s.keeps (s.evaluateLimit seat) sessionPieces := by
  unfold State.evaluateLimit
  simp only
  split
  · exact s.keeps_refl _
  · split
    · exact State.keeps_mono (s.setMic_keeps _ _) (by decide)
    · rename_i l _
      have h1 : ∀ f, s.keeps (s.setMic seat f) sessionPieces := fun f => State.keeps_mono (s.setMic_keeps _ _) (by decide)
      have h2 : ∀ (u : State) (c : Bool) (k : Nat) (b : List Byte), u.keeps (if c then u.notice k b else u) sessionPieces := by
        intro u c k b
        cases c
        · exact u.keeps_refl _
        · exact State.keeps_mono (u.notice_keeps _ _) (by decide)
      split
      · exact State.keeps_trans (State.keeps_trans (h1 _) (h2 _ _ _ _)) (State.removeThenAdvance_keeps _ _ _)
      · exact State.keeps_trans (h1 _) (h2 _ _ _ _)

theorem State.keyNotice_keeps (seat : Seat) : s.keeps (s.keyNotice seat) sessionPieces := by
  unfold State.keyNotice
  split
  · exact s.removeThenAdvance_keeps _ _
  · exact floor_session (s.withdraw_keeps _ _)

theorem State.classChange_keeps (seat : Seat) (c : SeatClass) : s.keeps (s.classChange seat c) sessionPieces := by
  unfold State.classChange
  simp only
  split
  · exact s.keeps_refl _
  · refine State.keeps_trans ?_ (State.evaluateLimit_keeps _ _)
    split
    · exact s.keeps_refl _
    · split
      · exact floor_session s.autoAdvance_keeps
      · split
        · exact s.reduceOpen_keeps
        · exact s.keeps_refl _

theorem State.permissionChange_keeps (seat : Seat) (b : Bool) : s.keeps (s.permissionChange seat b) sessionPieces := by
  unfold State.permissionChange
  split
  · exact s.keyNotice_keeps _
  · exact s.keeps_refl _

/-! ## Losses -/

theorem State.zeroLevel_keeps (p : Pos) : s.keeps (s.zeroLevel p) [.level] := by
  intro q hq; cases q <;> simp_all [State.agrees]

theorem State.composerLost_keeps (p : Pos) (seat : Seat) : s.keeps (s.composerLost p seat) [.delivery, .messages] := by
  intro q hq; cases q <;> simp_all [State.agrees, State.composerLost]

theorem State.floorLost_keeps (seat : Seat) : s.keeps (s.floorLost seat) sessionPieces := by
  unfold State.floorLost
  simp only
  refine State.keeps_trans ?_ (State.keeps_mono (State.setFloor_keeps _ _) (by decide))
  split
  · exact s.removeThenAdvance_keeps _ _
  · exact floor_session (s.withdraw_keeps _ _)

theorem State.micLost_keeps (seat : Seat) : s.keeps (s.micLost seat) sessionPieces := by
  unfold State.micLost
  split
  · exact s.keeps_refl _
  · exact State.keeps_trans (State.keeps_mono (s.micClose_keeps _) (by decide)) (State.reportClosed_keeps _)

theorem State.lossNotice_keeps (p : Pos) : s.keeps (s.lossNotice p) lossPieces := by
  unfold State.lossNotice
  simp only
  exact State.keeps_trans (State.keeps_mono (s.floorLost_keeps _) (by decide))
    (State.keeps_trans (State.keeps_mono (State.micLost_keeps _ _) (by decide))
    (State.keeps_trans (State.keeps_mono (State.zeroLevel_keeps _ _) (by decide))
    (State.keeps_mono (State.composerLost_keeps _ _ _) (by decide))))

/-! ## Several removals -/

/-- Several removals outside GRACE: the seats named leave, in their order; the others, the queue and the classes are as
they were. -/
theorem State.removeEntries (l : List Seat) (r : Reason) (hr : r.atOnce = false) (s : State)
    (hs : s.cal.session ≠ .grace) :
    let t := l.foldl (fun t i => t.removeEntry i r) s
    t.floor.openList = s.floor.openList.filter (fun e => e.seat ∉ l) ∧ t.floor.queue = s.floor.queue ∧
    t.floor.mode = s.floor.mode ∧ t.floor.maxOpen = s.floor.maxOpen ∧ s.sameClasses t ∧ s.keeps t floorPieces ∧
    (∀ i, i ∉ l → t.micOf i = s.micOf i) ∧
    (∀ i, i ∈ l → s.holds i = true → ((s.micOf i).state = .opening ∨ (s.micOf i).state = .opened) →
      (t.micOf i).state = .closing ∧ (t.micOf i).gap = s.cfg.closeGap) := by
  induction l generalizing s with
  | nil =>
    exact ⟨(List.filter_eq_self.2 (fun _ _ => by simp)).symm, rfl, rfl, rfl, s.sameClasses_refl, s.keeps_refl _,
      fun _ _ => rfl, by simp⟩
  | cons x l ih =>
    simp only [List.foldl_cons]
    rw [s.removeEntry_plain x r hs]
    have hcal : (s.removeCore x r).cal = s.cal := by simp
    obtain ⟨h1, h2, h3, h4, h5, h6, h7, h8⟩ := ih (s.removeCore x r) (by rw [hcal]; exact hs)
    obtain ⟨q1, q2, q3, q4⟩ := s.removeCore_queue x r
    refine ⟨?_, h2.trans q1, h3.trans q2, h4.trans q3, State.sameClasses_trans (s.removeCore_classes _ _) h5,
      State.keeps_trans (s.removeCore_keeps x r) h6, ?_, ?_⟩
    · rw [h1, s.removeCore_openList, List.filter_filter]
      congr 1; funext e; simp [not_or, Bool.and_comm]
    · intro i hi
      simp only [List.mem_cons, not_or] at hi
      rw [h7 i hi.2, s.removeCore_micOf_ne _ _ _ hi.1]
    · intro i hi hh hst
      by_cases hx : i = x
      · subst hx
        have hc : ((s.removeCore i r).micOf i).state = .closing ∧
            ((s.removeCore i r).micOf i).gap = s.cfg.closeGap := by
          rw [s.removeCore_micOf _ _ _ hr hh, State.micRemove_micOf]; simp [hst]
        have hno : (s.removeCore i r).holds i = false := by simp [State.holds, s.removeCore_openList]
        have gone : ∀ (l : List Seat) (u : State), u.holds i = false → u.cal.session ≠ .grace →
            (l.foldl (fun t i => t.removeEntry i r) u).micOf i = u.micOf i := by
          intro l
          induction l with
          | nil => intros; rfl
          | cons y l ih2 =>
            intro u hu hg
            simp only [List.foldl_cons]
            rw [u.removeEntry_plain y r hg]
            rw [ih2 _ (by
              simp only [State.holds, u.removeCore_openList]
              simp only [State.holds, List.any_eq_false] at hu
              simp only [List.any_eq_false]
              intro e he; exact hu e (List.mem_filter.1 he).1) (by simpa using hg)]
            by_cases hy : i = y
            · subst hy; rw [u.removeCore_of_not _ _ hu]
            · exact u.removeCore_micOf_ne _ _ _ hy
        rw [gone l _ hno (by rw [hcal]; exact hs)]; exact hc
      · have hi' : i ∈ l := by simpa [hx] using hi
        have := h8 i hi' (by
          rw [State.holds_iff] at hh ⊢
          obtain ⟨e, he, hes⟩ := hh
          refine ⟨e, ?_, hes⟩
          rw [s.removeCore_openList]
          simp [he, hes, hx]) (by rw [s.removeCore_micOf_ne _ _ _ hx]; exact hst)
        simpa using this

end Sys2Proof.Machine
end

