-- ==== Sys2Proof/Laws/Cycle.lean ====
section
/-! SUPPORT. What the steps of a chain cycle can touch, in pieces, and what the cycle that begins is made of. -/

namespace Sys2Proof.Machine

variable (s : State)

/-- What a whole chain cycle can touch. -/
def cyclePieces : List Piece :=
  lossPieces ++ [.pos, .wings, .tables, .clock, .mgmt, .audioReturn, .outCounter, .out, .early]

theorem session_cycle {s t : State} (h : s.keeps t sessionPieces) : s.keeps t cyclePieces :=
  State.keeps_mono h (by decide)

theorem State.setWing_keeps (w : Wing) (f : WingPort → WingPort) : s.keeps (s.setWing w f) [.wings] := by
  intro p hp; cases p <;> simp_all [State.agrees]

theorem State.startPass_keeps (w : Wing) : s.keeps (s.startPass w) [.wings] := s.setWing_keeps _ _

theorem State.setPos_keeps (p : Pos) (f : PosRec → PosRec) : s.keeps (s.setPos p f) [.pos] := by
  intro q hq; cases q <;> simp_all [State.agrees]

/-! ## What the slots of a cycle carry (01 R14, R18) -/

theorem State.takeAnswer_keeps (p : Pos) (c : Option Key) (t : Serial) : s.keeps (s.takeAnswer p c t) cyclePieces := by
  unfold State.takeAnswer
  split
  · exact State.keeps_mono (s.startPass_keeps _) (by decide)
  · exact State.keeps_trans (State.keeps_mono (s.setPos_keeps _ _) (by decide))
      (session_cycle (State.permissionChange_keeps _ _ _))

theorem State.slotAnswer_keeps (p : Pos) : s.keeps (s.slotAnswer p) cyclePieces := by
  unfold State.slotAnswer
  split
  · split
    · exact State.keeps_trans (State.keeps_mono (s.setPos_keeps _ _) (by decide)) (State.takeAnswer_keeps _ _ _ _)
    · exact s.keeps_refl _
  · exact s.keeps_refl _

theorem State.replaceAndGrant_keeps (o i : Seat) (c : Source) : s.keeps (s.replaceAndGrant o i c) sessionPieces :=
  State.keeps_trans (s.removeEntry_keeps _ _)
    (State.keeps_trans (floor_session (State.grantSeat_keeps _ _ _)) (floor_session (State.autoAdvance_keeps _)))

theorem State.refuse_session (i : Seat) (r : Refuse) (k : PressKind) : s.keeps (s.refuse i r k) sessionPieces :=
  State.keeps_mono (s.refuse_keeps _ _ _) (by decide)

theorem State.askOpen_keeps (i : Seat) : s.keeps (s.askOpen i) sessionPieces := by
  unfold State.askOpen
  split
  · exact floor_session (s.grantSeat_keeps _ _)
  · split
    · split
      · exact s.replaceAndGrant_keeps _ _ _
      · exact s.refuse_session _ _ _
    · exact s.refuse_session _ _ _

theorem State.askQueue_keeps (i : Seat) : s.keeps (s.askQueue i) sessionPieces := by
  unfold State.askQueue
  split
  · exact s.askOpen_keeps _
  · split
    · exact State.keeps_trans (floor_session (s.enqueue_keeps _ _)) (floor_session (State.autoAdvance_keeps _))
    · exact s.refuse_session _ _ _

theorem State.press_keeps (i : Seat) : s.keeps (s.press i) sessionPieces := by
  unfold State.press
  split
  · exact s.refuse_session _ _ _
  · split
    · exact s.removeThenAdvance_keeps _ _
    · simp only
      refine State.keeps_trans (State.keeps_mono
        (s.setFloor_keeps fun f => { f with blocked := f.blocked.set i false }) (by decide)) ?_
      split
      · exact State.keeps_trans (floor_session (State.withdraw_keeps _ _ _)) (floor_session (State.autoAdvance_keeps _))
      · split
        · exact State.askOpen_keeps _ _
        · exact State.askQueue_keeps _ _
        · exact State.keeps_refl _ _

theorem State.priorityTaken_keeps (i : Seat) : s.keeps (s.priorityTaken i) sessionPieces := by
  unfold State.priorityTaken
  simp only
  refine State.keeps_trans ?_ (floor_session (State.autoAdvance_keeps _))
  have clear : ∀ (u : State) (c : Bool), u.keeps (if c = true then u.clearQueue .priority else u) sessionPieces := by
    intro u c; cases c
    · exact u.keeps_refl _
    · exact floor_session (u.clearQueue_keeps _)
  have grant : ∀ u : State, u.keeps (if u.holds i = true then u
      else if u.floor.openList.length < 8 then u.grantSeat i .button
      else u.refuse i .floorFull .priority) sessionPieces := by
    intro u
    split
    · exact u.keeps_refl _
    · split
      · exact floor_session (u.grantSeat_keeps _ _)
      · exact u.refuse_session _ _ _
  exact State.keeps_trans (State.keeps_trans
    (State.foldl_keeps _ _ (fun (u : State) (j : Seat) => u.removeEntry_keeps j .priority) _ s) (clear _ _)) (grant _)

theorem State.priorityPress_keeps (i : Seat) : s.keeps (s.priorityPress i) sessionPieces := by
  unfold State.priorityPress
  split
  · exact s.keeps_refl _
  · split
    · exact s.refuse_session _ _ _
    · exact s.priorityTaken_keeps _

theorem State.slotEvent_keeps (p : Pos) : s.keeps (s.slotEvent p) cyclePieces := by
  unfold State.slotEvent
  simp only
  refine State.keeps_trans (s.slotAnswer_keeps p) ?_
  split
  · exact State.keeps_refl _ _
  · split
    · refine State.keeps_trans (State.keeps_mono
        (State.setPos_keeps _ p fun r => { r with event := none }) (by decide)) ?_
      split
      · exact session_cycle (State.press_keeps _ _)
      · exact session_cycle (State.priorityPress_keeps _ _)
    · exact State.keeps_refl _ _

theorem State.takeSlots_keeps : s.keeps s.takeSlots cyclePieces :=
  State.foldl_keeps _ _ (fun (u : State) (p : Pos) => u.slotEvent_keeps p) _ _

/-! ## The end of a cycle -/

theorem State.passNotice_keeps (p : Pos) (o : PassOutcome) : s.keeps (s.passNotice p o) lossPieces := by
  unfold State.passNotice
  split
  · exact s.lossNotice_keeps _
  · exact s.lossNotice_keeps _
  · exact State.keeps_mono (s.zeroLevel_keeps _) (by decide)
  · exact s.keeps_refl _
  · exact s.keeps_refl _

theorem State.forgetDisplays_keeps (w : Wing) : s.keeps (s.forgetDisplays w) [.delivery] := by
  intro q hq; cases q <;> simp_all [State.agrees, State.forgetDisplays]

theorem State.finishPass_keeps (w : Wing) : s.keeps (s.finishPass w) (lossPieces ++ [.pos, .wings]) := by
  unfold State.finishPass
  simp only
  refine State.keeps_trans ?_ (State.keeps_mono (State.forgetDisplays_keeps _ _) (by decide))
  refine State.keeps_trans ?_ (State.keeps_mono
    (State.foldl_keeps _ _ (fun (u : State) (o : Pos × PassOutcome) => u.passNotice_keeps o.1 o.2) _ _) (by decide))
  refine State.keeps_trans ?_ (State.keeps_mono (State.setWing_keeps _ _ _) (by decide))
  intro q hq; cases q <;> simp_all [State.agrees, lossPieces, sessionPieces]

theorem State.endPass_keeps (w : Wing) : s.keeps (s.endPass w) (lossPieces ++ [.pos, .wings]) := by
  unfold State.endPass; split
  · exact s.finishPass_keeps w
  · exact s.keeps_refl _

theorem State.voiceTry_keeps (seen : Seat → Bool) (seat : Seat) : s.keeps (State.voiceTry seen s seat) sessionPieces := by
  unfold State.voiceTry
  split
  · exact s.keeps_refl _
  · split
    · split
      · exact floor_session (s.grantSeat_keeps _ _)
      · exact s.keeps_refl _
    · split
      · exact s.keeps_refl _
      · exact State.keeps_mono (s.refuse_keeps _ _ _) (by decide)
    · exact s.keeps_refl _

theorem State.voiceCycle_keeps : s.keeps s.voiceCycle sessionPieces := by
  unfold State.voiceCycle
  simp only
  refine State.keeps_trans ?_ (State.keeps_mono (State.setFloor_keeps _ _) (by decide))
  split
  · exact State.keeps_trans (State.foldl_keeps _ _ (fun (u : State) (i : Seat) => u.removeEntry_keeps i .voiceIdle) _ _)
      (State.foldl_keeps _ _ (fun (u : State) (i : Seat) => u.voiceTry_keeps _ i) _ _)
  · exact s.keeps_refl _

theorem State.endCycle_keeps : s.keeps s.endCycle cyclePieces := by
  unfold State.endCycle
  simp only
  refine State.keeps_trans ?_ (State.keeps_mono (State.setWing_keeps _ _ _) (by decide))
  refine State.keeps_trans ?_ (State.keeps_mono (State.setWing_keeps _ _ _) (by decide))
  exact State.keeps_trans (State.keeps_trans (State.keeps_trans s.takeSlots_keeps
    (State.keeps_mono (State.voiceCycle_keeps _) (by decide)))
    (State.keeps_mono (State.endPass_keeps _ _) (by decide))) (State.keeps_mono (State.endPass_keeps _ _) (by decide))

/-! ## The boundary -/

theorem State.transferDue_keeps : s.keeps s.transferDue [.tables] := by
  intro q hq
  unfold State.transferDue MixBlock.transfer
  cases q <;> split <;> simp_all [State.agrees]

theorem State.endGap_keeps (seat : Seat) : s.keeps (s.endGap seat) sessionPieces := by
  unfold State.endGap
  split
  · simp only
    refine State.keeps_trans ?_ (State.evaluateLimit_keeps _ _)
    split
    · exact State.keeps_trans (State.keeps_mono (s.setMic_keeps _ _) (by decide))
        (State.keeps_mono (State.setRec_keeps _ _ _) (by decide))
    · exact State.keeps_mono (s.setMic_keeps _ _) (by decide)
  · exact State.keeps_trans (State.keeps_mono (s.setMic_keeps _ _) (by decide)) (State.reportClosed_keeps _)
  · exact s.keeps_refl _

theorem State.advanceTurn_keeps (seat : Seat) : s.keeps (s.advanceTurn seat) sessionPieces :=
  State.keeps_trans (State.keeps_mono (s.setMic_keeps _ _) (by decide)) (State.evaluateLimit_keeps _ _)

theorem State.micBoundary_keeps : s.keeps s.micBoundary sessionPieces := by
  unfold State.micBoundary
  simp only
  have h : ∀ f : MicBlock → MicBlock, s.keeps { s with mic := f s.mic } sessionPieces := by
    intro f q hq; cases q <;> simp_all [State.agrees, sessionPieces]
  refine State.keeps_trans (h fun b => { b with recs := mapAll s.mic.recs fun i (m : MicRec) => m.tick (s.early.contains (.mic i)) }) ?_
  refine State.foldl_keeps _ _ (fun (u : State) (i : Seat) => ?_) _ _
  split
  · exact u.keeps_refl _
  · split
    · exact u.endGap_keeps _
    · exact u.advanceTurn_keeps _

theorem State.messageBoundary_keeps : s.keeps s.messageBoundary [.messages] := by
  intro q hq; cases q <;> simp_all [State.agrees, State.messageBoundary]

theorem State.endWindow_keeps (e : Fin 4) : s.keeps (s.endWindow e) screenPieces := by
  unfold State.endWindow
  simp only
  split
  · exact State.keeps_trans (s.refreshScreen_keeps _) (State.keeps_trans (State.setScreen_keeps _ _ _) (State.offerScreen_keeps _ _))
  · exact State.keeps_trans (s.refreshScreen_keeps _) (State.setScreen_keeps _ _ _)

theorem State.windowBoundary_keeps (e : Fin 4) : s.keeps (s.windowBoundary e) screenPieces := by
  unfold State.windowBoundary
  simp only
  split
  · exact s.keeps_refl _
  · split
    · exact s.endWindow_keeps _
    · exact s.setScreen_keeps _ _

theorem State.screenBoundary_keeps (before : State) : s.keeps (s.screenBoundary before) screenPieces := by
  refine State.foldl_keeps _ _ (fun (u : State) (e : Fin 4) => ?_) _ _
  split
  · exact u.windowBoundary_keeps e
  · exact u.keeps_refl _

theorem State.advanceClock_keeps : s.keeps s.advanceClock (sessionPieces ++ [.clock]) := by
  have h : ∀ (u : State) (f : Clock → Clock), u.keeps { u with clock := f u.clock } (sessionPieces ++ [.clock]) := by
    intro u f q hq; cases q <;> simp_all [State.agrees, sessionPieces]
  have hr : ∀ now, s.keeps (s.holdRoll now) (sessionPieces ++ [.clock]) := by
    intro now q hq
    unfold State.holdRoll
    split
    · cases q <;> simp_all [State.agrees, sessionPieces]
    · exact s.keeps_refl [] q (by simp)
  unfold State.advanceClock
  simp only
  split
  · exact State.keeps_trans (State.keeps_trans (hr _) (h _ fun c => { s.clock with now := _, cycles := 0, age := _ }))
      (State.keeps_mono (State.evaluate_keeps _) (by decide))
  · exact State.keeps_trans (hr _) (h _ fun c => { s.clock with now := _, cycles := 0, age := _ })

theorem State.clockBoundary_keeps : s.keeps s.clockBoundary (sessionPieces ++ [.clock]) := by
  have h : ∀ (u : State) (f : Clock → Clock), u.keeps { u with clock := f u.clock } (sessionPieces ++ [.clock]) := by
    intro u f q hq; cases q <;> simp_all [State.agrees, sessionPieces]
  unfold State.clockBoundary
  simp only
  refine State.keeps_trans ?_ (h _ Clock.holdover)
  split
  · exact s.keeps_refl _
  · split
    · exact s.advanceClock_keeps
    · exact h s fun c => { c with cycles := s.clock.cycles + 1 }

theorem State.staggerBoundary_keeps : s.keeps s.staggerBoundary [.mgmt, .sending] := by
  unfold State.staggerBoundary
  split
  · exact s.keeps_refl _
  · split
    · exact s.offerReply_keeps
    · exact State.keeps_mono (s.setMgmt_keeps _) (by decide)

/-- What a boundary can touch. -/
def boundaryPieces : List Piece := sessionPieces ++ [.tables, .clock, .mgmt]

/-- The clock's step of a boundary comes after the steps of the tables, microphones, messages and screens. -/
theorem State.boundary_split : ∃ v, s.boundary = v.clockBoundary.staggerBoundary ∧
    s.transferDue.keeps v sessionPieces :=
  ⟨_, rfl, State.keeps_trans (State.micBoundary_keeps _)
    (State.keeps_trans (State.keeps_mono (State.messageBoundary_keeps _) (by decide))
      (State.keeps_mono (State.screenBoundary_keeps _ _) (by decide)))⟩

theorem State.boundary_keeps : s.keeps s.boundary boundaryPieces := by
  obtain ⟨v, hv, hk⟩ := s.boundary_split
  rw [hv]
  exact State.keeps_trans (State.keeps_mono s.transferDue_keeps (by decide))
    (State.keeps_trans (State.keeps_mono hk (by decide))
    (State.keeps_trans (State.keeps_mono (State.clockBoundary_keeps _) (by decide))
    (State.keeps_mono (State.staggerBoundary_keeps _) (by decide))))

/-- The live tables after a boundary are those after the transfer. -/
theorem State.boundary_tables : s.boundary.mix.live = s.mix.transfer.live ∧ s.boundary.mix.due = s.mix.transfer.due := by
  obtain ⟨v, hv, hk⟩ := s.boundary_split
  have a := hk .tables (by decide)
  have b := v.clockBoundary_keeps .tables (by decide)
  have c := v.clockBoundary.staggerBoundary_keeps .tables (by decide)
  rw [hv, c.1, b.1, a.1, c.2.2.2, b.2.2.2, a.2.2.2]
  exact ⟨rfl, rfl⟩

/-! ## The cycle that begins -/

theorem State.latchFacts_keeps : s.keeps s.latchFacts [.mic, .mixCycle] := by
  intro q hq; cases q <;> simp_all [State.agrees, State.latchFacts]

theorem State.giveReturn_keeps : s.keeps s.giveReturn [.audioReturn, .linkCounters, .mixCycle] := by
  unfold State.giveReturn
  split
  · intro q hq; cases q <;> simp_all [State.agrees]
  · intro q hq; cases q <;> cases s.link.learnt <;> simp_all [State.agrees]

theorem State.settleTransfers_keeps : s.keeps s.settleTransfers [.delivery] := by
  intro q hq; cases q <;> simp_all [State.agrees, State.settleTransfers]

/-- The port at the start of a cycle: its line and its block counter alone can change. -/
theorem Link.sendCycle_frame (l : Link) (f : Option Frame) (n : Nat) : (l.sendCycle f n).station = l.station ∧
    (l.sendCycle f n).groups = l.groups ∧ (l.sendCycle f n).noticeDest = l.noticeDest ∧
    (l.sendCycle f n).audioDest = l.audioDest ∧ (l.sendCycle f n).up = l.up ∧ (l.sendCycle f n).learnt = l.learnt ∧
    (l.sendCycle f n).expected = l.expected ∧ (l.sendCycle f n).buffer = l.buffer ∧ (l.sendCycle f n).queue = l.queue ∧
    (l.sendCycle f n).begun = l.begun ∧ (l.sendCycle f n).lastAdmitted = l.lastAdmitted ∧
    (l.sendCycle f n).counters = l.counters := by
  unfold Link.sendCycle Link.sendAudio
  simp only
  repeat' split
  all_goals simp

theorem State.sendCycle_keeps (t : State) : s.keeps (s.sendCycle t) [.out, .mixCycle, .outCounter, .sending] := by
  unfold State.sendCycle
  intro q hq
  cases q <;> simp_all [State.agrees, Link.sendCycle_frame]

theorem State.clearSlots_keeps : s.keeps s.clearSlots [.pos, .early] := by
  intro q hq; cases q <;> simp_all [State.agrees, State.clearSlots]

theorem State.beginCycle_keeps (t : State) : s.keeps (s.beginCycle t) cyclePieces := by
  unfold State.beginCycle
  simp only
  exact State.keeps_trans (State.keeps_mono (s.setWing_keeps _ _) (by decide))
    (State.keeps_trans (State.keeps_mono (State.setWing_keeps _ _ _) (by decide))
    (State.keeps_trans (State.keeps_mono (State.latchFacts_keeps _) (by decide))
    (State.keeps_trans (State.keeps_mono (State.giveReturn_keeps _) (by decide))
    (State.keeps_trans (State.keeps_mono (State.settleTransfers_keeps _) (by decide))
    (State.keeps_trans (State.keeps_mono (State.sendCycle_keeps _ _) (by decide))
    (State.keeps_mono (State.clearSlots_keeps _) (by decide)))))))

end Sys2Proof.Machine
end

