-- ==== Sys2Proof/Tests/Slice0.lean ====
section
/-! SUPPORT. Tests: ill-formed terms that the check refuses, the worked examples of the manual, and for every statement
of Obligations.lean a state and operands that meet its hypotheses, clause by clause. -/

open Sys2Proof Sys2Proof.Machine

namespace Sys2Proof.Tests

-- Elaborate one theorem after another: the kernel checks below would else wait on one another in many threads.
set_option Elab.async false

/-! ## Ill-formed commands (WellFormed) -/

theorem test_wf_booking_change_of_the_delete_form : (Instr.bookingChange 1 0xFE [0]).wellFormed = false := by decide
theorem test_wf_gap_warn_field : (Instr.gapWarnWrite 0 5 [0, 1]).wellFormed = false := by decide
theorem test_wf_detector_field : (Instr.detectorSettingsWrite 0 10 [1]).wellFormed = false := by decide
theorem test_wf_page_field : (Instr.pageSelectionWrite 0 9 [1]).wellFormed = false := by decide
theorem test_wf_message_too_long : (Instr.sendMessage 0 (List.replicate 253 0x41)).wellFormed = false := by decide +kernel
theorem test_wf_write_without_values : (Instr.switchWrite 0 []).wellFormed = false := by decide
theorem test_wf_write_text_runs_past : (Instr.templateWrite 0 0 [3, 0x41]).wellFormed = false := by decide
theorem test_wf_write_too_long : (Instr.write 5 0 0 (List.replicate 252 0)).wellFormed = false := by decide +kernel
theorem test_wf_accepts : (Instr.bookingChange 1 0x10 [1]).wellFormed = true ∧
    (Instr.sendMessage 0 (List.replicate 252 0x41)).wellFormed = true ∧ (Instr.templateWrite 0 0 [1, 0x41]).wellFormed = true := by
  decide +kernel

/-! ## Worked examples of the manual -/

/-- 09 R162's generator and order give the usual check of the nine digits. -/
theorem test_crc32_of_nine_digits : crc32 (text "123456789") = 0xCBF43926#32 := by decide +kernel

/-- 06 section 6.9: a quarter of 3000, rounded. -/
theorem test_scale_near : scale (3000 * 1024) = 750 ∧ scale (11000 * 1024) = 2750 ∧ scale (3000 * 4096) = 3000 := by decide

/-- 07 section 7.8. -/
theorem test_envelope_attack_and_release : envelopeNext 64 8 1000 9000 = 3000 ∧ envelopeNext 64 8 3000 200 = 2913 := by decide

/-- 07 R136: −32768 counts as 32767. -/
theorem test_peak_of_the_lowest_sample : peakOf (silence.set 3 0x8000#16) = 32767 ∧ atEnds (silence.set 3 0x8000#16) = true ∧
    atEnds (silence.set 3 0x7FFE#16) = false := by decide

/-- 10 R179: a station address that ends in 47H waits 14 cycles. -/
theorem test_stagger : staggerCycles 0x020000000047#48 = 14 := by decide

/-- 03 R43: 4,294,967,295 minutes, 59 seconds, 9 tenths are followed by 0. -/
theorem test_clock_wraps : RoomTime.next ⟨4294967295, 59, 9⟩ = ⟨0, 0, 0⟩ ∧ RoomTime.next ⟨5, 58, 9⟩ = ⟨5, 59, 0⟩ := by decide

/-- 05 R105: the warn point is 0 when the warn time is L or more. -/
theorem test_limit_points : State.reset.warnPoint 30 = 0 ∧ State.reset.warnPoint 31 = 10 ∧ limitPoint 31 = 310 := by decide +kernel

/-- 08 Table 8-3 and R149: the idle page at power-on. -/
theorem test_idle_rendering : State.reset.rendering 3 = text "ROOM FREE               00:00                   " := by
  decide +kernel

/-- 01 R2, R3: a slot and a marker that lose a byte are bad. -/
theorem test_items_that_lose_a_byte : readUpSlot [] = none ∧ readMarker (markerBytes 5).tail = none ∧
    readMarker (markerBytes 5) = some 5 ∧ readMarker (markerBytes 64) = none := by decide +kernel

/-- 09 R165: a group address has the lowest bit of its first byte set. -/
theorem test_group_address : isGroup 0x010000000000#48 = true ∧ isGroup 0x020000000000#48 = false ∧ isGroup broadcast = true := by
  decide

/-! ## The states the witnesses are made of -/

/-- A PRESENT position with a house card, whose slot of the cycle was good. -/
def unitRec : PosRec := { PosRec.powerOn with
  presence := .present, serial := some 7, statusValid := true, card := some 0, slot := .good }

/-- Twelve units on wing A, the link UP, a station address and a notice destination. -/
def ready : State := { State.reset with
  wingA := { WingPort.powerOn true with state := .running, recorded := 12, assigned := 12 }
  pos := Vector.ofFn fun p => if p.val < 12 then unitRec else PosRec.powerOn
  link := { State.reset.link with up := true, station := 0x020000000047, noticeDest := some 0x020000000009 } }

/-- The ACTIVE ad hoc record of the witnesses. -/
def meetingRecord : Booking := adhocBooking 10 60 0 0 .openFloor 4

/-- A session with a floor mode; nobody holds the floor. -/
def meeting (m : Mode) : State := { ready with
  cal := { ready.cal with session := .inSession, bookings := [meetingRecord] }
  clock := { ready.clock with now := ⟨20, 59, 9⟩ }
  floor := { ready.floor with mode := m } }

/-- The seats 0 to `n - 1` hold the floor, their microphones OPEN. -/
def speaking (m : Mode) (n : Nat) : State :=
  let s := meeting m
  { s with
    floor := { s.floor with openList := ((numbers 64).filter (·.val < n)).map fun i => ⟨i, ⟨20, 0, 0⟩, .button⟩ }
    mic := { s.mic with recs := mapAll s.mic.recs fun i r => if i.val < n then { r with state := .opened } else r } }

/-- The seats 12 to 11 + `n` wait in the queue. -/
def waiting (s : State) (n : Nat) : State := { s with
  floor := { s.floor with queue := ((numbers 64).filter fun i => 12 ≤ i.val && i.val < 12 + n).map fun i => ⟨i, 20, 0, .button⟩ }
  mic := { s.mic with recs := mapAll s.mic.recs fun i r => { r with queued := decide (12 ≤ i.val ∧ i.val < 12 + n) } } }

def noAuto (s : State) : State := { s with cfg := { s.cfg with autoAdvance := false } }
def haltedAt (s : State) : State := { s with store := { s.store with halted := true } }
def inState (s : State) (x : Session) : State := { s with cal := { s.cal with session := x } }
def classed (s : State) (c : SeatClass) : State :=
  { s with seats := { s.seats with recs := mapAll s.seats.recs fun _ r => { r with classOverride := some c } } }
def queueOf (s : State) (n : Nat) : State :=
  { s with link := { s.link with queue := List.replicate n ⟨0, 0, .notice, []⟩ } }

/-- The clock is set and stands at a minute. -/
def timed (s : State) (m : Nat) : State := { s with clock := { now := ⟨m, 59, 9⟩, cycles := 199, sync := .synced, age := 0 } }

/-- The good slot of the seat's unit carried a press. -/
def pressed (s : State) (i : Seat) (k : Press := .button) : State := s.setPos (s.phys i) fun r => { r with event := some k }

/-- Seat `i` alone waits in the queue. -/
def queued1 (s : State) (i : Seat) : State :=
  ({ s with floor := { s.floor with queue := [⟨i, 20, 0, .button⟩] } }).setMic i fun m => { m with queued := true }

/-- The seat's record has a class override. -/
def classOf1 (s : State) (i : Seat) (c : SeatClass) : State := s.setRec (s.phys i) fun r => { r with classOverride := some c }

/-- The engine is at the operation of a command, under a key, with more operations to come. -/
def asked (i : Instr) (s : State) (key : Key := 0) (more : List Op := [.unlock 0]) (silent group : Bool := false) : State :=
  { s with mgmt := { s.mgmt with
    requests := [⟨0x020000000005, group, []⟩], engine := .executing, unlocked := true
    hand := i.op.map fun op => { tag := 1, key := key, silent := silent, total := 1 + more.length, reads := 0, ops := op :: more,
                                 statuses := [], returned := [], staged := false } } }

/-- A good upstream slot of the witnesses. -/
def goodSlot : UpSlot := ⟨silence, 0, 0, true, 0, 7⟩

/-- A booking that waits, its start `m` minutes from the clock's zero. -/
def waitingRecord (n m : Nat) : Booking := { meetingRecord with number := n, start := m, active := false }

def booked (n m : Nat) : State := { ready with cal := { ready.cal with bookings := [waitingRecord n m] } }

/-- The stagger is at its last cycle. -/
def staggering (n : Nat) : State := { queueOf ready n with
  mgmt := { ready.mgmt with requests := [⟨5, true, []⟩], engine := .stagger, stagger := 1, reply := some ⟨5, 6, .reply, []⟩ } }

/-- 08 section 8.7: the delegate page of seat 3. -/
def financePage : State :=
  let s := speaking .openFloor 4
  let r : SeatRec := { SeatRec.powerOn with participant := some ⟨text "Finance", 0, .delegate, none⟩, limitOverride := some 240 }
  { (s.setRec 3 fun _ => r).setMic 3 fun m => { m with timer := 1043 } with
    level := modify s.level 3 fun l => { l with meter := 9000 } }

theorem test_delegate_rendering : financePage.rendering 3 = text "Finance       3         02:16 Q   ##            " := by
  decide +kernel

/-! ## Witnesses: the step, the invariants, the bytes, power and the store -/

theorem witness_StepRunsTheFrontCommand :
    ({ ready with pending := [.halt, .commit] }).pending = .halt :: [.commit] ∧ ready.pending = [] := by decide +kernel

theorem witness_EveryCommandAnswersANextState :
    (ready.powerLoss.powered = false ∧ (Instr.halt ≠ .powerLoss ∧ ∀ x y, Instr.halt ≠ .powerOn x y)) ∧
    ((Instr.op .commit).isSome = true ∧ ready.atOp (.action 0x0B []) = false) ∧
    ((ready.takeEarly (.mic 3)).early.contains (.mic 3) = true ∧ (ready.micOf 3).state = .closed ∧ (ready.micOf 3).flash ≠ 1) ∧
    (∀ m, ready.disp.messages[(3 : Seat)] = some m → 2 ≤ m.counter) ∧ ready.disp.screens[(0 : Fin 4)].window ≠ 1 ∧
    ready.clock.cycles < 199 ∧ ready.mgmt.engine ≠ .stagger ∧ ready.pos[(3 : Pos)].answer ≠ some (none, 7) ∧
    ready.pos[(3 : Pos)].event ≠ some .button ∧ ready.pos[(3 : Pos)].event ≠ some .priority := by decide +kernel

/-- Eight open entries and sixteen in the queue, the sizes at their limits. -/
def full : State := { queueOf (waiting (speaking .queue 8) 16) 8 with
  mgmt := { ready.mgmt with requests := List.replicate 4 ⟨0, false, []⟩, engine := .executing } }

theorem witness_FloorOk : full.FloorOk := by
  refine ⟨?_, ?_, ?_, ?_⟩ <;> decide +kernel

theorem witness_MicOk : full.MicOk := by unfold State.MicOk; decide +kernel

theorem witness_invariants_meet_a_step : full.LinkOk ∧ full.MgmtOk ∧ full.ClockOk ∧ full.ClipsOk ∧ step full = .next full := by
  refine ⟨?_, ?_, ?_, ?_, rfl⟩
  · unfold State.LinkOk; decide +kernel
  · unfold State.MgmtOk; decide +kernel
  · unfold State.ClockOk; decide +kernel
  · unfold State.ClipsOk; decide +kernel

/-- The open list at max_open, the queue full, in a session whose record stands in the table. -/
theorem witness_TableOk : (waiting (speaking .openFloor 5) 0).TableOk := by
  simp only [State.TableOk, bookingsOk, Booking.ok]; decide +kernel

theorem witness_EveryStepKeepsTheFloorInvariant : (speaking .openFloor 5).FloorOk ∧ (speaking .openFloor 5).HoldersOk ∧
    step (speaking .openFloor 5) = .next (speaking .openFloor 5) := by
  refine ⟨⟨?_, ?_, ?_, ?_⟩, ?_, rfl⟩
  · decide +kernel
  · decide +kernel
  · decide +kernel
  · decide +kernel
  · unfold State.HoldersOk; decide +kernel

theorem witness_PayloadsAndSlotsAreReadBack :
    ([Op.unlock 0] ≠ [] ∧ ∀ o ∈ [Op.unlock 0], o.wellFormed = true) ∧
    ((List.replicate 16 (Op.read 1 0 1)).length ≤ 16 ∧ ∀ o ∈ List.replicate 16 (Op.read 1 0 1), o.wellFormed = true) ∧
    ((⟨silence, 255, 255, true, 255, 1⟩ : UpSlot).event < 256) := by decide +kernel

theorem witness_RequestsJoinTheQueueAndAreTaken :
    (ready.powered = true ∧ ready.link.up = true ∧ (List.replicate 1000 (0 : Byte)).length ≤ 1000 ∧
      ready.link.accepts broadcast = true ∧ ready.link.accepts 0x020000000047 = true ∧ ready.mgmt.requests = []) ∧
    ¬ full.mgmt.requests.length < 4 ∧
    (full.mgmt.engine = .executing ∧ full.mgmt.hand = none ∧ full.mgmt.restart = .none ∧ parseRequest [] = none ∧
      malformedSilent [0, 0, 0, 1] = true ∧ (parseRequest (requestPayload 1 0 false [.unlock 0x5C])).isSome = true) := by
  decide +kernel

/-- The engine is at an ACTION with a code that no command carries. -/
def unnamed (code : Byte) (key : Key) (more : List Op) : State := (asked .halt ready key more).setMgmt fun m =>
  { m with hand := m.hand.map fun h => { h with ops := .action code [] :: more } }

theorem witness_RequestsJoinTheQueueAndAreTaken_malformed :
    (parseRequest [0, 9, 0, 0] = none ∧ parseRequest [0, 9, 0, 1] = none ∧ parseRequest [9] = none) ∧
    (let s := { ready with mgmt := { ready.mgmt with requests := [⟨5, true, [0, 9, 0, 0]⟩], engine := .executing } }
     s.powered = true ∧ s.mgmt.hand = none ∧ s.mgmt.restart = .none ∧ 0 < staggerCycles s.link.station) ∧
    ((unnamed 0 0 []).atOp (.action 0 []) = true ∧ (unnamed 0x12 5 [.unlock 0]).atOp (.action 0x12 []) = true) ∧
    (ready.mgmt.engine ≠ .executing ∧ full.mgmt.restart = .none ∧
      ∃ h, (unnamed 0x11 0 []).mgmt.hand = some h ∧ h.ops.head? = some (.action 0x11 [])) := by
  refine ⟨?_, ?_, ?_, ?_, ?_, _, rfl, ?_⟩ <;> decide +kernel

/-- 10 R176: the reply to a malformed request is its tag, the status 16H and no operation, and a single byte has tag 0. -/
theorem test_malformed_reply :
    let replies := fun payload : List Byte =>
      (State.takeRequest { ready with mgmt := { ready.mgmt with requests := [⟨5, false, payload⟩], engine := .executing } }).link.queue
    replies [0, 9, 0, 0] = [⟨5, ready.link.station, .reply, [0, 9, 0x16, 0, 0]⟩] ∧
      replies [9] = [⟨5, ready.link.station, .reply, [0, 0, 0x16, 0, 0]⟩] ∧ replies [0, 9, 0, 1] = [] := by decide +kernel

theorem witness_PowerCyclesRestoreTheCurrentImage : ready.powered = true ∧
    Instr.resetInput true false = .resetInput true false := by decide +kernel

theorem witness_SavesKeepTheCurrentImageUntilTheyComplete :
    (asked .save ready).reaches .save = true ∧ ready.store.writing = none ∧
    (asked .save { ready with store := ready.store.beginSave ready.snapshot }).store.writing.isSome = true ∧
    (let st := { ready.store with areaA := some { Image.factory with generation := 65535 } }
     st.currentImage.map (·.generation) = some 65535 ∧ st.nextGeneration = 0) ∧
    ((queueOf ready 7).link.queue.length < 8 ∧ ready.link.noticeDest = some 0x020000000009 ∧
      (({ ready with store := ready.store.beginSave ready.snapshot }).store.writing).isSome = true) := by decide +kernel

/-! ## Witnesses: the chain -/

theorem witness_CarrierGainLossAndEnumerate :
    ready.powered = true ∧ (asked (.enumerate 0) ready).reaches (.enumerate 0) = true ∧
    (asked (.enumerate 1) ready).reaches (.enumerate 1) = true ∧ (asked (.enumerate 2) ready).reaches (.enumerate 2) = true := by
  decide +kernel

/-- The carrier of wing A, on which every unit is, in a session with and without auto-advance, and in GRACE with every holder
on it; that of wing B, on which no unit is. -/
theorem witness_CarrierGainLossAndEnumerate_loss :
    (let s := waiting (speaking .queue 4) 2
     s.powered = true ∧ s.FloorOk ∧ s.cal.session = .inSession ∧ s.floor.mode = .queue ∧ s.cfg.autoAdvance = true ∧
       s.floor.openList.all (fun e => decide (wingOf (s.phys e.seat) = .a) && s.present (s.phys e.seat)) = true ∧
       s.floor.queue.all (fun e => !s.present (s.phys e.seat)) = true ∧ (noAuto s).cfg.autoAdvance = false ∧
       (inState s .grace).cal.session = .grace ∧ (∀ p : Pos, wingOf p = .b → s.pos[p].presence = .absent) ∧
       wingOf 11 = .a ∧ s.pos[(11 : Pos)].presence = .present ∧ s.pos[(12 : Pos)].presence = .absent) := by
  unfold State.FloorOk; decide +kernel

/-- Position A3 has had two bad slots in a row. -/
def lossy : State := (speaking .openFloor 4).setPos 3 fun r => { r with loss := 2 }

/-- Seat 3 alone holds the floor, its microphone OPEN. -/
def sole (x : Session) : State :=
  let s := inState (meeting .openFloor) x
  ({ s with floor := { s.floor with openList := [⟨3, ⟨20, 0, 0⟩, .button⟩] } }).setMic 3 fun m => { m with state := .opened }

theorem witness_GoodAndBadSlotsAreTaken :
    (ready.live 3 = true ∧ readUpSlot goodSlot.bytes = some goodSlot ∧ readUpSlot [] = none ∧ ready.pos[(3 : Pos)].loss < 2) ∧
    (({ goodSlot with event := 1 } : UpSlot).event = 1 ∧ ({ goodSlot with status := 1 } : UpSlot).status = 1 ∧
      ({ goodSlot with status := 1, key := 16 } : UpSlot).present = true ∧ goodSlot.key = (0 : Key).val) ∧
    (lossy.live 3 = true ∧ 2 ≤ lossy.pos[(3 : Pos)].loss ∧ lossy.cal.session = .inSession ∧ lossy.floor.mode ≠ .queue) ∧
    (let s := (queued1 (meeting .queue) 3).setPos 3 fun r => { r with loss := 2 }
     s.live 3 = true ∧ 2 ≤ s.pos[(3 : Pos)].loss ∧ s.cal.session = .inSession ∧ s.holds (s.logical 3) = false) ∧
    (let s := (sole .grace).setPos 3 fun r => { r with loss := 2 }
     s.live 3 = true ∧ 2 ≤ s.pos[(3 : Pos)].loss ∧ s.cal.session = .grace ∧ s.holds (s.logical 3) = true ∧
       ∀ i, i ≠ s.logical 3 → s.holds i = false) ∧
    (ready.live 40 = false ∧ (ready.wing (wingOf 40)).state ≠ .enumerating) := by decide +kernel

/-- A pass of wing A in one of its cycles. -/
def passing (n : Nat) (count : Option Nat) : State :=
  ready.setWing .a fun w => { w with state := .enumerating, passCycle := n, passCount := count }

theorem witness_GoodAndBadSlotsAreTaken_pass :
    (let s := (passing 2 (some 12)).setWing .a fun w => { w with command := .identify }
     s.powered = true ∧ (s.wing (wingOf 3)).state = .enumerating ∧ (s.wing (wingOf 3)).command = .identify ∧
       2 ≤ (s.wing (wingOf 3)).passCycle ∧
       readUpSlot ({ goodSlot with status := 2 } : UpSlot).bytes = some { goodSlot with status := 2 } ∧ readUpSlot [] = none) ∧
    (goodSlot.status ≠ 2 ∧ ((passing 1 none).wing .a).command ≠ .identify) := by decide +kernel

theorem witness_WingEndMarkersWatchTheChain :
    readMarker (markerBytes 12) = some 12 ∧ readMarker (markerBytes 63) = some 63 ∧ readMarker (markerBytes 0) = some 0 ∧
    readMarker (markerBytes 64) = none ∧ readMarker (markerBytes 255) = none ∧
    (([5, 0, 0] : List Byte).length = 3 ∧ ([5, 0, 0] : List Byte).drop 1 ≠ crc16Bytes ([5, 0, 0].take 1) ∧
      (markerBytes 5).tail.length ≠ 3) ∧
    readMarker [] = none ∧ (ready.wing .a).inUse = true ∧ (ready.wing .a).recorded = 12 ∧
    ((ready.setWing .b fun w => { w with carrier := true }).wing .b).carrier = true ∧ (ready.wing .b).state = .down ∧
    ((passing 1 none).wing .a).passCycle = 1 ∧ ((passing 2 (some 12)).wing .a).state = .enumerating := by decide +kernel

theorem witness_APassDecidesEveryPosition :
    (passing 4 (some 33)).powered = true ∧ ((passing 4 (some 33)).wing .a).state = .enumerating ∧
    ((passing 4 (some 33)).wing .a).passCycle = 4 ∧
    (let s := { speaking .openFloor 4 with wingA := { (passing 4 (some 33)).wingA with
        reports := ((Vector.replicate 32 none).set 3 (some 7)).set 20 (some 9) } }
     s.powered = true ∧ (s.wing .a).state = .enumerating ∧ (s.wing .a).passCycle = 4 ∧
       s.cal.session = .inSession ∧ s.floor.mode ≠ .queue ∧
       (s.wing .a).found (place 3) = some 7 ∧ s.pos[(3 : Pos)].serial = some 7 ∧ s.pos[(3 : Pos)].presence = .present ∧
       (s.wing .a).found (place 4) = none ∧ s.pos[(4 : Pos)].presence = .present ∧
       (s.wing .a).found (place 20) ≠ none ∧ s.pos[(20 : Pos)].presence = .absent ∧
       (s.wing .a).found (place 21) = none ∧ s.pos[(21 : Pos)].presence = .absent) := by decide +kernel

/-- The end of a pass in QUEUE mode that finds every unit but those of the seats given. -/
def queuePass (lost : List (Fin 32)) : State := { waiting (speaking .queue 4) 2 with
  wingA := { (passing 4 (some 12)).wingA with reports := Vector.ofFn fun i => if lost.contains i then none else some 7 } }

/-- QUEUE mode: a holder is gone, with auto-advance and a queue of which nobody is; no holder is gone, without auto-advance.
GRACE: one of several holders is gone, and the last one. -/
theorem witness_APassDecidesEveryPosition_queue :
    (let s := queuePass [1]
     s.FloorOk ∧ s.powered = true ∧ (s.wing .a).state = .enumerating ∧ (s.wing .a).passCycle = 4 ∧ s.cal.session = .inSession ∧
       s.floor.mode = .queue ∧ s.cfg.autoAdvance = true ∧ s.holds 1 = true ∧ s.phys 1 = 1 ∧ (s.wing .a).found (place 1) = none ∧
       s.pos[(1 : Pos)].presence = .present ∧ s.holds 0 = true ∧ s.phys 0 = 0 ∧ s.pos[(0 : Pos)].serial = some 7 ∧
       (s.wing .a).found (place 0) = some 7 ∧ (∀ e ∈ s.floor.queue, s.pos[s.phys e.seat].presence = .absent) ∧
       s.floor.queue.head?.map (·.seat) = some 12) ∧
    ((noAuto (queuePass [])).noAdvance ∧ (noAuto (queuePass [])).FloorOk ∧
      ∀ p : Pos, (queuePass []).pos[p].presence = .present → ((queuePass []).wing .a).found (place p) = (queuePass []).pos[p].serial) ∧
    ((inState (queuePass [1]) .grace).cal.session = .grace ∧ (inState (queuePass [1]) .grace).floor.openList.length = 4 ∧
      (queuePass [0, 1, 2, 3]).floor.openList.all (fun e => ((queuePass [0, 1, 2, 3]).wing .a).found
        (place ((queuePass [0, 1, 2, 3]).phys e.seat)) = none) = true) := by
  refine ⟨⟨⟨?_, ?_, ?_, ?_⟩, ?_⟩, ⟨.inr ?_, ⟨?_, ?_, ?_, ?_⟩, ?_⟩, ?_⟩ <;> decide +kernel

/-- A session of key 5 with the card 5 at seat 3, whose slot answers with another card. -/
def keyed (s : State) : State :=
  ({ s with cal := { s.cal with bookings := [{ meetingRecord with key := 5 }] } }).setPos 3
    fun r => { r with card := some 5, answer := some (some 4, 7) }

theorem witness_StatusWordsSetTheCard :
    (let s := keyed (sole .inSession)
     s.powered = true ∧ s.live 3 = true ∧ s.pos[(3 : Pos)].answer = some (some 4, 7) ∧ s.pos[(3 : Pos)].serial = some 7 ∧
       s.logical 3 = 3 ∧ s.cal.session.runs = true ∧ s.permitted 3 = true ∧
       (s.setPos 3 fun r => { r with answer := none, statusValid := true, card := some 4 }).permitted 3 = false ∧
       s.floor.mode ≠ .queue ∧ s.holds 3 = true ∧ s.MicOk ∧ (keyed (sole .grace)).MicOk ∧
       s.floor.openList.find? (fun x => x.seat = 3) = some ⟨3, ⟨20, 0, 0⟩, .button⟩) ∧
    (let s := keyed (queued1 (noAuto (meeting .queue)) 3)
     s.cfg.autoAdvance = false ∧ s.holds 3 = false ∧ s.queued 3 = true ∧ s.permitted 3 = true) ∧
    (let s := keyed (meeting .openFloor); s.holds 3 = false ∧ s.queued 3 = false ∧ s.permitted 3 = true) ∧
    (let s := ready.setPos 3 fun r => { r with answer := some (none, 8) }
     s.live 3 = true ∧ s.pos[(3 : Pos)].answer = some (none, 8) ∧ s.pos[(3 : Pos)].serial ≠ some 8) := by
  simp only [State.MicOk]; decide +kernel

/-- A press with a status word that admits its seat. -/
theorem witness_StatusWordsSetTheCard_press :
    let s := pressed ((keyed (meeting .openFloor)).setPos 3 fun r => { r with card := none, answer := some (some 5, 7) }) 3
    let known := s.setPos 3 fun r => { r with answer := none, event := none, statusValid := true, card := some 5 }
    s.powered = true ∧ s.live 3 = true ∧ s.pos[(3 : Pos)].answer = some (some 5, 7) ∧ s.pos[(3 : Pos)].event = some .button ∧
      s.pos[(3 : Pos)].serial = some 7 ∧ s.cal.session = .inSession ∧ s.floor.mode = .openFloor ∧
      s.permitted (s.logical 3) = false ∧ known.mayAsk (s.logical 3) ∧ s.holds (s.logical 3) = false ∧
      s.queued (s.logical 3) = false ∧ known.room (s.logical 3) = true := by
  unfold State.mayAsk; decide +kernel

/-! ## Witnesses: presses and the floor -/

theorem heard_of {s : State} {i : Seat} {k : Press}
    (h : (s.powered && s.live (s.phys i) && s.pos[s.phys i].slot == .good && s.pos[s.phys i].event == some k &&
      s.pos[s.phys i].answer == none) = true) : s.heard i k := by
  simpa [State.heard, and_assoc] using h

/-- The first failing check is each of the six in turn. -/
theorem witness_APressIsRefusedByTheFirstFailingCheck :
    (pressed (meeting .openFloor) 3).heard 3 .button ∧ (pressed (haltedAt ready) 3).heard 3 .button ∧
    (pressed ready 3).heard 3 .button ∧ (haltedAt ready).store.halted = true ∧
    (ready.cal.session ≠ .inSession ∧ ready.cal.session ≠ .grace) ∧
    ((inState (meeting .openFloor) .grace).holds 3 = false) ∧
    (((meeting .openFloor).setPos 3 fun r => { r with statusValid := false }).pos[(3 : Pos)].statusValid = false) ∧
    ((classed (meeting .openFloor) .observer).classOf 3 = .observer) ∧
    (let s := ({ meeting .openFloor with cal := { (meeting .openFloor).cal with
        bookings := [{ meetingRecord with key := 5 }] } }).setPos 3 fun r => { r with card := some 4 }
     s.permitted 3 = false ∧ s.classOf 3 ≠ .observer) := by
  refine ⟨heard_of ?_, heard_of ?_, heard_of ?_, ?_⟩ <;> decide +kernel

theorem witness_mayAsk : (speaking .openFloor 4).mayAsk 3 ∧ (meeting .queue).mayAsk 3 ∧
    (pressed (speaking .openFloor 3) 5).mayAsk 5 ∧ (pressed (meeting .queue) 5).mayAsk 5 ∧
    (pressed (speaking .openFloor 5) 0 .priority).mayAsk 0 := by
  unfold State.mayAsk; decide +kernel

/-- A holder's press in IN_SESSION from OPEN and from OPENING, in GRACE, and in QUEUE mode with auto-advance where the head
of the queue finds room, where it finds none, and where nobody waits. -/
theorem witness_APressOfAHolderReleasesTheFloor :
    ((pressed (speaking .openFloor 4) 3).heard 3 .button ∧ (pressed (speaking .openFloor 4) 3).mayAsk 3 ∧
      (pressed (speaking .openFloor 4) 3).noAdvance ∧
      (pressed (speaking .openFloor 4) 3).floor.openList.find? (fun x => x.seat = 3) = some ⟨3, ⟨20, 0, 0⟩, .button⟩ ∧
      ((pressed (speaking .openFloor 4) 3).micOf 3).state = .opened) ∧
    (((speaking .openFloor 4).setMic 3 fun m => { m with state := .opening }).micOf 3).state = .opening ∧
    ((pressed (sole .grace) 3).heard 3 .button ∧ (sole .grace).store.halted = false ∧ (sole .grace).cal.session = .grace ∧
      (sole .grace).holds 3 = true ∧ (sole .grace).pos[(sole .grace).phys 3].statusValid = true ∧
      (sole .grace).classOf 3 ≠ .observer ∧ (sole .grace).permitted 3 = true ∧ ((sole .grace).micOf 3).state = .opened) ∧
    ((pressed (waiting (speaking .queue 5) 2) 3).heard 3 .button ∧ (pressed (waiting (speaking .queue 5) 2) 3).mayAsk 3 ∧
      (waiting (speaking .queue 5) 2).cfg.autoAdvance = true ∧ (waiting (speaking .queue 5) 2).holds 3 = true ∧
      (waiting (speaking .queue 5) 2).floor.queue = [⟨12, 20, 0, .button⟩, ⟨13, 20, 0, .button⟩] ∧
      (waiting (speaking .queue 5) 2).floor.maxOpen = 4) ∧
    (speaking .queue 5).floor.queue = [] := by
  refine ⟨⟨heard_of ?_, ?_, ?_, ?_⟩, ?_, ⟨heard_of ?_, ?_⟩, ⟨heard_of ?_, ?_, ?_⟩, ?_⟩
  · decide +kernel
  · unfold State.mayAsk; decide +kernel
  · unfold State.noAdvance; decide +kernel
  all_goals first | (unfold State.mayAsk; decide +kernel) | decide +kernel

/-- Room, no room, no room under REPLACE at no and at yes; a seat 5 that neither holds nor waits. -/
theorem witness_APressInOpenModeIsGrantedRefusedOrReplaces :
    ((pressed (speaking .openFloor 3) 5).heard 5 .button ∧ (pressed (speaking .openFloor 3) 5).mayAsk 5 ∧
      (speaking .openFloor 3).holds 5 = false ∧ (speaking .openFloor 3).queued 5 = false ∧
      (speaking .openFloor 3).floor.openList.length < 8 ∧ (speaking .openFloor 3).nonChair < 4) ∧
    ((pressed (speaking .openFloor 5) 5).heard 5 .button ∧ (pressed (speaking .openFloor 5) 5).mayAsk 5 ∧
      (speaking .openFloor 5).nonChair = 4 ∧ (speaking .openFloor 5).classOf 5 ≠ .chair ∧
      (speaking .openFloor 5).cfg.replace = false ∧ (speaking .openFloor 5).oldestNonChair = some 1) ∧
    (let s := pressed { speaking .openFloor 5 with cfg := { ready.cfg with replace := true } } 5
     s.heard 5 .button ∧ s.mayAsk 5 ∧ s.floor.mode = .openFloor ∧ s.holds 5 = false ∧ s.queued 5 = false ∧
       s.cfg.replace = true ∧ s.nonChair = s.floor.maxOpen ∧ s.classOf 5 ≠ .chair ∧ s.oldestNonChair = some 1 ∧
       (s.micOf 1).state = .opened) := by
  refine ⟨⟨heard_of ?_, ?_⟩, ⟨heard_of ?_, ?_⟩, ⟨heard_of ?_, ?_⟩⟩ <;>
    first | (unfold State.mayAsk; decide +kernel) | decide +kernel

/-- A seat in the queue, a new one with 15 before it, a full queue, an empty one with room. -/
theorem witness_QueueModeQueuesWithdrawsAndAdvances :
    (pressed (meeting .queue) 5).heard 5 .button ∧ (pressed (meeting .queue) 5).mayAsk 5 ∧
    ((meeting .queue).floor.mode = .queue ∧ (meeting .queue).holds 5 = false ∧ (meeting .queue).classOf 5 ≠ .chair ∧
      (meeting .queue).floor.queue = [] ∧ (meeting .queue).cfg.autoAdvance = true ∧
      (meeting .queue).floor.openList.length < 8 ∧ (meeting .queue).nonChair < (meeting .queue).floor.maxOpen) ∧
    ((noAuto (waiting (meeting .queue) 15)).queued 5 = false ∧ (noAuto (waiting (meeting .queue) 15)).floor.queue.length = 15 ∧
      (waiting (meeting .queue) 16).floor.queue.length = 16 ∧ (waiting (meeting .queue) 16).queued 5 = false) ∧
    ((queued1 (noAuto (meeting .queue)) 5).queued 5 = true ∧ (queued1 (noAuto (meeting .queue)) 5).cfg.autoAdvance = false) := by
  refine ⟨heard_of ?_, ?_, ?_⟩ <;> first | (unfold State.mayAsk; decide +kernel) | decide +kernel

/-- The CHAIR seat 9 in QUEUE mode: queued, with room, and at 8 entries with REPLACE at no and at yes. -/
theorem witness_QueueModeQueuesWithdrawsAndAdvances_chair :
    (let s := classOf1 (noAuto (queued1 (meeting .queue) 9)) 9 .chair
     (pressed s 9).heard 9 .button ∧ (pressed s 9).mayAsk 9 ∧ s.floor.mode = .queue ∧ s.holds 9 = false ∧
       s.classOf 9 = .chair ∧ s.queued 9 = true ∧ s.cfg.autoAdvance = false) ∧
    (let s := classOf1 (speaking .queue 7) 9 .chair
     (pressed s 9).heard 9 .button ∧ s.queued 9 = false ∧ s.floor.openList.length < 8) ∧
    (let s := classOf1 (speaking .queue 8) 9 .chair
     (pressed s 9).heard 9 .button ∧ s.holds 9 = false ∧ s.classOf 9 = .chair ∧ s.queued 9 = false ∧
       s.floor.openList.length = 8 ∧ s.cfg.replace = false ∧ s.oldestNonChair = some 1 ∧ (s.micOf 1).state = .opened ∧
       ({ s with cfg := { s.cfg with replace := true } }).cfg.replace = true ∧ s.FloorOk) := by
  refine ⟨⟨heard_of ?_, ?_⟩, ⟨heard_of ?_, ?_⟩, ⟨heard_of ?_, ?_⟩⟩ <;>
    first | (unfold State.mayAsk; decide +kernel) | (unfold State.FloorOk; decide +kernel) | decide +kernel

/-- Five seats hold the floor and three wait, the second of CHAIR class: a check has heads that find room and one that does
not. -/
def advancing : State := classOf1 (waiting (speaking .queue 5) 3) 13 .chair

theorem advancing_of {s : State} (h : (!s.store.halted && s.cal.session == .inSession && s.floor.mode == .queue &&
    s.cfg.autoAdvance && decide (s.floor.openList.length ≤ 8) && decide (s.floor.queue.length ≤ 16) &&
    decide s.floor.seats.Nodup) = true) : s.Advancing := by
  simp only [Bool.and_eq_true, Bool.not_eq_true', beq_iff_eq, decide_eq_true_eq] at h
  obtain ⟨⟨⟨⟨⟨⟨h1, h2⟩, h3⟩, h4⟩, h5⟩, h6⟩, h7⟩ := h
  exact ⟨h1, h2, h3, h4, h5, h6, h7, by simp [State.floorRuns, h1, h2, Session.runs]⟩

/-- A holder leaves by release, loss, KEY, LIMIT and REVOKE. -/
theorem witness_QueueModeQueuesWithdrawsAndAdvances_removals :
    (let s := pressed advancing 3; s.Advancing ∧ s.holds 3 = true ∧ s.heard 3 .button ∧ s.mayAsk 3) ∧
    (let s := advancing.setPos 3 fun r => { r with loss := 2 }
     s.Advancing ∧ s.powered = true ∧ s.live (s.phys 3) = true ∧ readUpSlot [] = none ∧ 2 ≤ s.pos[s.phys 3].loss) ∧
    (let s := keyed advancing
     s.Advancing ∧ s.holds 3 = true ∧ s.live (s.phys 3) = true ∧ s.pos[s.phys 3].answer = some (some 4, 7) ∧
       s.pos[s.phys 3].serial = some 7 ∧ s.permitted 3 = true ∧
       (s.setPos (s.phys 3) fun r => { r with answer := none, statusValid := true, card := some 4 }).permitted 3 = false) ∧
    (let s := { advancing.setMic 3 (fun m => { m with cycles := 199, timer := 9 }) with
       mic := { (advancing.setMic 3 fun m => { m with cycles := 199, timer := 9 }).mic with speakLimit := 1, limitAction := .auto } }
     s.Advancing ∧ s.early.contains (.mic 3) = false ∧ (s.micOf 3).state = .opened ∧ 199 ≤ (s.micOf 3).cycles ∧
       s.limitOf 3 = some 1 ∧ s.mic.limitAction = .auto ∧ 1 * 10 ≤ min 65535 ((s.micOf 3).timer + 1)) ∧
    (let i : Instr := .revoke (BitVec.ofNat 8 3); (asked i advancing).Advancing ∧ (asked i advancing).reaches i = true) := by
  refine ⟨⟨advancing_of ?_, ?_, heard_of ?_, ?_⟩, ⟨advancing_of ?_, ?_⟩, ⟨advancing_of ?_, ?_⟩, ⟨advancing_of ?_, ?_⟩,
    ⟨advancing_of ?_, ?_⟩⟩ <;> first | (unfold State.mayAsk; decide +kernel) | decide +kernel

/-- A seat withdraws, joins, takes the floor by priority, is placed (new and moved), granted by NEXT and by force; CLOSE_ALL. -/
theorem witness_QueueModeQueuesWithdrawsAndAdvances_additions :
    (let s := pressed (queued1 (speaking .queue 4) 5) 5
     s.Advancing ∧ s.heard 5 .button ∧ s.mayAsk 5 ∧ s.queued 5 = true) ∧
    (let s := pressed advancing 5
     s.Advancing ∧ s.heard 5 .button ∧ s.mayAsk 5 ∧ s.classOf 5 ≠ .chair ∧ s.holds 5 = false ∧ s.queued 5 = false ∧
       s.floor.queue.length < 16 ∧ (waiting (meeting .queue) 15).floor.queue.length = 15) ∧
    (let s := pressed { advancing with cfg := { ready.cfg with clearQueue := false } } 0 .priority
     s.Advancing ∧ s.heard 0 .priority ∧ s.mayAsk 0 ∧ s.classOf 0 = .chair ∧ s.cfg.clearQueue = false ∧ s.holds 0 = true ∧
       (s.floor.openList.filter fun x => s.classOf x.seat = .chair).length < 8) ∧
    (let i : Instr := .queuePlace (BitVec.ofNat 8 5) 1; let s := asked i advancing
     s.Advancing ∧ s.reaches i = true ∧ s.mayAsk 5 ∧ s.holds 5 = false ∧ s.queued 5 = false ∧ s.floor.queue.length < 16 ∧
       (queued1 advancing 5).floor.queue.find? (fun x => x.seat = 5) = some ⟨5, 20, 0, .button⟩) ∧
    (let s := asked .next (waiting (speaking .queue 4) 2)
     s.Advancing ∧ s.reaches .next = true ∧ s.floor.queue.head?.map (·.seat) = some 12 ∧ s.room 12 = true) ∧
    (let i : Instr := .grant (BitVec.ofNat 8 5) 1; let s := asked i advancing
     s.Advancing ∧ s.reaches i = true ∧ s.mayAsk 5 ∧ s.holds 5 = false ∧ s.room 5 = false ∧ s.oldestNonChair = some 1) ∧
    (let s := asked .closeAll advancing; s.Advancing ∧ s.reaches .closeAll = true ∧ s.holds 3 = true) := by
  refine ⟨⟨advancing_of ?_, heard_of ?_, ?_⟩, ⟨advancing_of ?_, heard_of ?_, ?_⟩, ⟨advancing_of ?_, heard_of ?_, ?_⟩,
    ⟨advancing_of ?_, ?_⟩, ⟨advancing_of ?_, ?_⟩, ⟨advancing_of ?_, ?_⟩, ⟨advancing_of ?_, ?_⟩⟩ <;>
    first | (unfold State.mayAsk; decide +kernel) | decide +kernel

/-- max_open at 1 and at 6, QUEUE mode, auto_advance at yes, a holder made CHAIR, and EXTEND in GRACE. -/
theorem witness_QueueModeQueuesWithdrawsAndAdvances_settings :
    (let s := asked (.maxOpenWrite 0 [BitVec.ofNat 8 1]) advancing
     ({ s with floor := { s.floor with maxOpen := 1 } }).Advancing ∧ s.reaches (.maxOpenWrite 0 [BitVec.ofNat 8 1]) = true ∧
       (asked (.maxOpenWrite 0 [BitVec.ofNat 8 6]) advancing).reaches (.maxOpenWrite 0 [BitVec.ofNat 8 6]) = true) ∧
    (let s := asked (.floorModeWrite 0 [1]) (waiting (speaking .voice 2) 2)
     ({ s with floor := { s.floor with mode := .queue } }).Advancing ∧ s.reaches (.floorModeWrite 0 [1]) = true ∧
       s.floor.mode ≠ .queue) ∧
    (let s := asked (.switchWrite 0 [31]) (noAuto advancing)
     ({ s with cfg := { s.cfg with autoAdvance := true } }).Advancing ∧ s.reaches (.switchWrite 0 [31]) = true ∧
       (31 : Byte).toNat ≤ 31 ∧ (31 : Byte).getLsbD 1 = true) ∧
    (let i : Instr := .classOverrideWrite (BitVec.ofNat 16 3) [0]; let s := asked i advancing
     (s.setRec (s.phys 3) fun r => { r with classOverride := some .chair, changed := true }).Advancing ∧
       s.reaches i = true ∧ s.holds 3 = true ∧ s.classOf 3 ≠ .chair) ∧
    (let s := asked (.extend 120) (inState { advancing with clock := { ready.clock with now := ⟨189, 0, 0⟩, sync := .synced } } .grace)
     ({ s with cal := { s.cal with session := .inSession } }).Advancing ∧ s.reaches (.extend 120) = true ∧
       s.cal.session = .grace ∧ s.clock.sync ≠ .unsynced ∧ s.activeBooking = some meetingRecord ∧ s.nextBooking = none ∧
       meetingRecord.duration + 120 ≤ 1440 ∧ s.clock.now.minute < meetingRecord.start + meetingRecord.duration + 120) := by
  refine ⟨⟨advancing_of ?_, ?_⟩, ⟨advancing_of ?_, ?_⟩, ⟨advancing_of ?_, ?_⟩, ⟨advancing_of ?_, ?_⟩, ⟨advancing_of ?_, ?_⟩⟩ <;>
    decide +kernel

theorem witness_PriorityClearsTheFloorForTheChair :
    ((pressed (speaking .openFloor 5) 0 .priority).heard 0 .priority ∧ (pressed (speaking .openFloor 5) 0 .priority).mayAsk 0 ∧
      (speaking .openFloor 5).noAdvance ∧ (speaking .openFloor 5).classOf 0 = .chair ∧
      (speaking .openFloor 5).classOf 1 ≠ .chair ∧
      ((speaking .openFloor 5).floor.openList.filter fun e => (speaking .openFloor 5).classOf e.seat = .chair).length < 8 ∧
      (speaking .openFloor 5).holds 1 = true ∧ ((speaking .openFloor 5).micOf 1).state = .opened) ∧
    (let s := classed (speaking .openFloor 8) .chair
     (pressed s 9 .priority).heard 9 .priority ∧ (pressed s 9 .priority).mayAsk 9 ∧ s.noAdvance ∧ s.classOf 9 = .chair ∧
       (s.floor.openList.filter fun e => s.classOf e.seat = .chair).length = 8 ∧ s.holds 9 = false) ∧
    (let s := { waiting (speaking .queue 5) 2 with cfg := { ready.cfg with clearQueue := false } }
     (pressed s 0 .priority).heard 0 .priority ∧ (pressed s 0 .priority).mayAsk 0 ∧ s.floor.mode = .queue ∧
       s.cfg.autoAdvance = true ∧ s.cfg.clearQueue = false ∧ 0 < s.floor.maxOpen ∧
       s.floor.queue = [⟨12, 20, 0, .button⟩, ⟨13, 20, 0, .button⟩] ∧
       (s.floor.openList.filter fun e => s.classOf e.seat = .chair).length < 7) ∧
    (pressed (inState (speaking .openFloor 5) .grace) 0 .priority).heard 0 .priority ∧
    (inState (speaking .openFloor 5) .grace).cal.session = .grace := by
  refine ⟨⟨heard_of ?_, ?_, ?_, ?_⟩, ⟨heard_of ?_, ?_, ?_, ?_⟩, ⟨heard_of ?_, ?_⟩, heard_of ?_, ?_⟩ <;>
    first | (unfold State.mayAsk; decide +kernel) | (unfold State.noAdvance; decide +kernel) | decide +kernel

/-! ## Witnesses: the cycle, the mix, levels and displays -/

theorem witness_TheChainCycleSendsEverySlot :
    (speaking .openFloor 2).powered = true ∧ (speaking .openFloor 2).mgmt.restart = .none ∧
    ((passing 3 none).wing .a).state = .enumerating ∧ ready.pos[(20 : Pos)].presence = .absent ∧ ready.live 3 = true ∧
    (haltedAt ready).live 3 = true ∧ ready.mix.due = false ∧ (ready.mix.commit false).due = true ∧
    (ready.mix.commit false).image = some ready.mix.staged ∧ ready.clock.cycles < 199 ∧ Early.tenth ∉ ready.early ∧
    Early.tenth ∈ (ready.takeEarly .tenth).early := by
  decide +kernel

/-- A position that is to be told its text, one that knows it, and one whose transfer goes towards it. -/
theorem witness_TheChainCycleSendsEverySlot_transfers :
    let told (d : Delivery) : State := { ready with disp := { ready.disp with delivery := ready.disp.delivery.set 3 d } }
    let target := ready.rendering 3
    ∀ d ∈ [⟨none, none, false⟩, ⟨some target, none, false⟩, ⟨none, some ⟨target, 5⟩, false⟩, ⟨some target, some ⟨[], 5⟩, true⟩],
      (told d).wingA.passEnds = false ∧ (told d).wingB.passEnds = false ∧ (told d).store.halted = false ∧
        (match exec .chainCycle (told d) with
         | .next t => t.live 3 && t.logical 3 == 3 && t.rendering 3 == target
         | _ => false) = true := by decide +kernel

theorem quiet_of {s : State} (h : (s.powered && s.mgmt.restart == .none &&
    (numbers 64).all (fun p => s.pos[p].answer == none && s.pos[p].event == none) && s.floor.mode != .voice &&
    !s.wingA.passEnds && !s.wingB.passEnds) = true) : s.quiet := by
  simpa [State.quiet, numbers, and_assoc] using h

/-- A session at rest under WARN, with seat 3 in a gap, one at the end of its gap, one at the end of a tenth, and one in a
tenth; the boundary of a session under AUTO at which seat 3 reaches its limit. -/
theorem witness_TheChainCycleSendsEverySlot_microphones :
    (let s := ((speaking .openFloor 8).setMic 3 fun m => { m with state := .opening, gap := 2 }).setMic 4
       fun m => { m with cycles := 199 }
     s.quiet ∧ s.mic.limitAction = .warn ∧ s.cal.session ≠ .closing ∧ s.clock.cycles < 199 ∧ s.early = [] ∧
       (s.micOf 3).state = .opening ∧ 2 ≤ (s.micOf 3).gap ∧ (s.micOf 4).state = .opened ∧ 199 ≤ (s.micOf 4).cycles ∧
       (s.micOf 5).cycles < 199 ∧ (s.micOf 9).state = .closed ∧ s.limitOf 4 = none) ∧
    (let s := ((speaking .openFloor 8).setMic 3 fun m => { m with state := .opening, gap := 1 }).setMic 4
       fun m => { m with state := .closing, gap := 0 }
     s.quiet ∧ (s.micOf 3).gap ≤ 1 ∧ (s.micOf 4).state = .closing ∧ (s.micOf 4).gap ≤ 1) ∧
    (let s := { (speaking .openFloor 4).setMic 3 (fun m => { m with cycles := 199, timer := 9 }) with
       mic := { ((speaking .openFloor 4).setMic 3 fun m => { m with cycles := 199, timer := 9 }).mic with
         speakLimit := 1, limitAction := .auto } }
     s.quiet ∧ s.FloorOk ∧ s.mic.limitAction = .auto ∧ s.cal.session = .inSession ∧ s.noAdvance ∧ s.clock.cycles < 199 ∧
       s.early = [] ∧ s.limitOf 3 = some 1 ∧ 1 * 10 ≤ min 65535 ((s.micOf 3).timer + 1) ∧ s.holds 3 = true) := by
  refine ⟨⟨quiet_of ?_, ?_⟩, ⟨quiet_of ?_, ?_⟩, ⟨quiet_of ?_, ⟨?_, ?_, ?_, ?_⟩, ?_, ?_, ?_, ?_⟩⟩ <;>
    first | (unfold State.noAdvance; decide +kernel) | decide +kernel

/-- A room screen at the end of its window, whose rendering has come back to the text last sent under the pending mark. -/
def backAgain : State :=
  ready.setScreen 0 fun sc => { sc with addr := some 5, window := 1, pending := true, lastSent := some (ready.screenText 0) }

/-- A message in a step and at the end of one, a window that runs and one that ends, a wing in each state, a stagger that
runs and one that ends; the change of the minute with a booking that starts and one that ends. -/
theorem witness_TheChainCycleSendsEverySlot_counters :
    (let s := ((({ ready with mgmt := (staggering 3).mgmt }).setMessage 3 fun _ => some ⟨[], 1, 2⟩).setMessage 4
       fun _ => some ⟨[], 24, 1⟩).setScreen 0 fun sc => { sc with addr := some 5, window := 1 }
     s.quiet ∧ s.mic.limitAction = .warn ∧ s.cal.session ≠ .closing ∧ s.clock.cycles < 199 ∧ s.early = [] ∧
       s.disp.messages[(3 : Seat)] = some ⟨[], 1, 2⟩ ∧ s.disp.messages[(4 : Seat)] = some ⟨[], 24, 1⟩ ∧
       s.disp.screens[(0 : Fin 4)].addr = some 5 ∧ s.disp.screens[(0 : Fin 4)].window = 1 ∧
       s.disp.screens[(0 : Fin 4)].waiting = false ∧ s.disp.screens[(0 : Fin 4)].lastSent = none ∧ s.link.queue.length < 4 ∧
       backAgain.disp.screens[(0 : Fin 4)].lastSent = some (backAgain.screenText backAgain.disp.screens[(0 : Fin 4)].template) ∧
       (∀ i, s.limitOf i = none) ∧ s.mgmt.engine = .stagger ∧ s.mgmt.stagger ≤ 1 ∧
       s.mgmt.reply = some ⟨5, 6, .reply, []⟩) ∧
    ((({ ready with mgmt := { (staggering 3).mgmt with stagger := 2 } }).setScreen 0 fun sc => { sc with window := 2 }).quiet ∧
      (passing 0 none).quiet ∧ (passing 3 none).quiet) ∧
    (let s := timed (booked 1 70) 69
     s.quiet ∧ s.ClockOk ∧ s.TableOk ∧ s.clock.cycles = 199 ∧ s.early = [] ∧ (∀ seat : Seat, (s.micOf seat).state = .closed) ∧
       s.clock.sync ≠ .unsynced ∧ s.cal.session = .vacant ∧ s.clock.now.next.minute = 70) ∧
    (let s := timed (meeting .openFloor) 69
     s.quiet ∧ s.ClockOk ∧ s.TableOk ∧ (∀ seat : Seat, (s.micOf seat).state = .closed) ∧ s.cal.session = .inSession ∧
       s.activeBooking = some meetingRecord ∧ meetingRecord.start + meetingRecord.duration ≤ s.clock.now.next.minute ∧
       meetingRecord.grace = 0) := by
  refine ⟨⟨quiet_of ?_, ?_⟩, ⟨quiet_of ?_, quiet_of ?_, quiet_of ?_⟩, ⟨quiet_of ?_, ?_, ?_, ?_⟩, ⟨quiet_of ?_, ?_, ?_, ?_⟩⟩ <;>
    first
    | (unfold State.ClockOk; decide +kernel)
    | (simp only [State.TableOk, bookingsOk, Booking.ok]; decide +kernel)
    | decide +kernel

/-- A pass at its last cycle; a slot whose status word and whose press no command has taken. -/
theorem witness_TheChainCycleSendsEverySlot_items :
    (let s := (passing 4 (some 12)).setWing .a fun w => { w with command := .identify }
     s.powered = true ∧ s.mgmt.restart = .none ∧ s.floor.mode ≠ .voice ∧
       (∀ p : Pos, s.pos[p].answer = none ∧ s.pos[p].event = none) ∧ (s.wing .a).state = .enumerating ∧
       (s.wing .a).passCycle = 4 ∧ (s.wing .a).command = .identify) ∧
    (let s := pressed ready 3
     s.powered = true ∧ s.mgmt.restart = .none ∧ s.floor.mode ≠ .voice ∧ s.wingA.passEnds = false ∧ s.wingB.passEnds = false ∧
       s.mic.limitAction = .warn ∧ s.clock.cycles < 199 ∧
       (∀ q : Pos, q ≠ 3 → s.pos[q].answer = none ∧ s.pos[q].event = none) ∧ s.live 3 = true ∧ s.pos[(3 : Pos)].slot = .good ∧
       s.pos[(3 : Pos)].answer = none ∧ s.pos[(3 : Pos)].event = some .button ∧ s.store.halted = false ∧
       s.cal.session = .vacant) ∧
    (let s := ready.setPos 3 fun r => { r with answer := some (some 3, 7) }
     (∀ q : Pos, q ≠ 3 → s.pos[q].answer = none ∧ s.pos[q].event = none) ∧ s.live 3 = true ∧
       s.pos[(3 : Pos)].answer = some (some 3, 7) ∧ s.pos[(3 : Pos)].serial = some 7) ∧
    (let s := ready.setPos 3 fun r => { r with answer := some (some 3, 8) }
     s.pos[(3 : Pos)].answer = some (some 3, 8) ∧ s.pos[(3 : Pos)].serial ≠ some 8) := by decide +kernel

theorem witness_FeedsCarryNoOwnVoiceAndAreSaturated :
    ready.store.halted = false ∧ ({ ready with seats := { ready.seats with sessionMute := true } }).muted 3 = true ∧
    (let s := { meeting .openFloor with link := { ready.link with audioDest := some 9 }, mix := { ready.mix with roomSend := true } }
     s.powered = true ∧ s.mgmt.restart = .none ∧ s.store.halted = false ∧ s.link.audioDest = some 9 ∧ s.link.up = true ∧
       s.cal.session = .inSession ∧ s.mix.roomSend = true ∧ s.link.begun = false ∧ s.live (s.phys 3) = true ∧
       s.live (s.phys 20) = false ∧ ({ queueOf s 1 with link := (queueOf s 1).link.startSending }).link.begun = true) ∧
    ready.link.audioDest = none ∧ (haltedAt ready).store.halted = true ∧ (haltedAt ready).mix.sendClips ≤ 65535 := by
  decide +kernel

theorem witness_TheDuckStageFollowsTheDuckClass :
    ready.powered = true ∧ ready.mix.cycleLive = MixTables.default ∧
    (let t := { MixTables.default with duckOwn := 4096, duckNear := 4096 }
     t.duckOwn = 4096 ∧ t.duckNear = 4096 ∧ t.duckNear ≤ t.duckOwn) ∧
    (let t := { MixTables.default with duckNear := 0 }; t.duckOwn = 0 ∧ t.duckNear = 0) := by decide +kernel

theorem witness_CommitThenTransferMakesTheTablesLive :
    (asked .commit ready).reaches .commit = true ∧ (asked .commit (haltedAt ready)).reaches .commit = true ∧
    (asked .commit (haltedAt ready)).store.halted = true ∧
    (let s := { ready with mix := ready.mix.commit false }
     s.powered = true ∧ s.mix.due = true ∧ s.mix.image = some ready.mix.staged) ∧ ready.mix.due = false := by decide +kernel

theorem witness_DiscardRestoresTheStagedTables :
    (asked .discard ready).reaches .discard = true ∧ (asked .discard ready 1).atOp (.action 0x0C []) = true ∧
    (asked .discard ready 1).reaches .discard = false ∧
    ((asked .discard ready 1).mgmt.hand.map (·.key)) = some 1 := by decide +kernel

theorem witness_ThePeakTheInputClipsAndTheMeter :
    (let b : Block := silence.set 15 0x7FFF; (∃ k : Fin 16, (b[k]).toInt = 32767 ∨ (b[k]).toInt = -32768)) ∧
    (let b : Block := silence.set 0 0x8000; (∃ k : Fin 16, (b[k]).toInt = 32767 ∨ (b[k]).toInt = -32768)) ∧
    (∀ k : Fin 16, (silence[k]).toInt ≠ 32767 ∧ (silence[k]).toInt ≠ -32768) ∧
    (∀ x ∈ LevelRec.powerOn.peaks.toList, x ≤ 32767) ∧ (List.replicate 7 silence).length = 7 ∧ ready.powered = true ∧
    ready.live 40 = false ∧ ready.live 3 = true := by decide +kernel

theorem witness_TheEnvelopeFollowsThePeak :
    (1 ≤ Settings.default.kAtt ∧ Settings.default.kAtt ≤ 255 ∧ 1 ≤ Settings.default.kRel ∧ Settings.default.kRel ≤ 255) ∧
    LevelRec.powerOn.envelope < peakOf (silence.set 3 0x8000#16) ∧
    (let l := { LevelRec.powerOn with envelope := 32767 }; l.envelope ≤ 32767 ∧ peakOf silence ≤ l.envelope) ∧
    ((peakOf (silence.set 3 3#16) - 0) * 64 < 256 ∧ 0 < peakOf (silence.set 3 3#16) ∧ (31 - peakOf silence) * 8 < 256) ∧
    (∀ x ∈ LevelRec.powerOn.peaks.toList, x ≤ 32767) ∧
    (ready.powered = true ∧ ready.live 3 = true ∧ readUpSlot goodSlot.bytes = some goodSlot) := by decide +kernel

theorem witness_TheVoiceConditionsFollowTheEnvelope :
    (Settings.default.hold ≤ 4000 ∧ LevelRec.powerOn.idle = 0 ∧ [silence] ≠ [] ∧
      (([silence].take 1).foldl (LevelRec.take Settings.default) LevelRec.powerOn).envelope < Settings.default.closeThr) ∧
    (Settings.default.closeThr ≤ Settings.default.openThr ∧
      (LevelRec.powerOn.take { Settings.default with openThr := 0, closeThr := 0 } silence).voiceStart = true) ∧
    (let l := LevelRec.powerOn.take { Settings.default with closeThr := 0 } silence
     0 ≤ l.envelope ∧ l.envelope < Settings.default.openThr) ∧
    (ready.pos[ready.phys 20].presence = .absent ∧ (ready.wing (wingOf (ready.phys 40))).state = .down) ∧
    (let s := { passing 2 none with level := modify ready.level 3 fun l => l.take Settings.default silence }
     s.pos[s.phys 3].presence = .present ∧ (s.wing (wingOf (s.phys 3))).state = .enumerating ∧
       s.level[s.phys 3].fresh = true) ∧ ready.level[ready.phys 3].fresh = false ∧
    (let s := asked (.read 0x0A (BitVec.ofNat 16 3) 1) ready
     s.reaches (.read 0x0A (BitVec.ofNat 16 3) 1) = true ∧ (s.seatEntry 3).length ≤ s.replyRoom) := by decide +kernel

theorem witness_ATextReachesItsDisplayInTwelveChunks :
    (spaces 48).length = 48 ∧ Delivery.powerOn.transfer = none ∧ Delivery.powerOn.known ≠ some (spaces 48) ∧
    (let d : Delivery := ⟨none, some ⟨spaces 48, 11⟩, true⟩; d.transfer = some ⟨spaces 48, 11⟩ ∧ d.carried = true) := by
  decide +kernel

/-! ## Witnesses: steps of a boundary by their own commands -/

def opening (gap : Nat) : State := (speaking .openFloor 4).setMic 3 fun m => { m with state := .opening, gap := gap }

theorem witness_GapsEndAndTurnsAdvance_gaps :
    (opening 1).powered = true ∧ (opening 1).early.contains (.mic 3) = false ∧ ((opening 1).micOf 3).gap ≤ 1 ∧
    ((opening 0).micOf 3).gap ≤ 1 ∧ ((opening 1).micOf 3).state = .opening ∧
    (let s := (meeting .openFloor).setMic 3 fun m => { m with state := .closing, gap := 1 }
     (s.micOf 3).state = .closing ∧ s.cal.session ≠ .closing) ∧
    (let s := (inState (speaking .openFloor 1) .closing).setMic 3 fun m => { m with state := .closing, gap := 1 }
     (s.micOf 3).state = .closing ∧ (s.micOf 3).gap ≤ 1 ∧ s.cal.session = .closing ∧
       ∃ i, i ≠ 3 ∧ (s.micOf i).state ≠ .closed) := by decide +kernel

/-- Seat 3 at the last cycle of a tenth, with a limit of one second and its timer at `timer`. -/
def turning (timer : Nat) (action : LimitAction) (limit : Nat) : State :=
  let s := (speaking .openFloor 4).setMic 3 fun m => { m with cycles := 199, timer := timer }
  { s with mic := { s.mic with speakLimit := limit, limitAction := action } }

theorem witness_GapsEndAndTurnsAdvance_turns :
    ((turning 8 .warn 0).micOf 3).state = .opened ∧ 199 ≤ ((turning 8 .warn 0).micOf 3).cycles ∧
    (turning 8 .warn 0).limitOf 3 = none ∧ (turning 8 .warn 1).limitOf 3 = some 1 ∧ (turning 8 .auto 1).limitOf 3 = some 1 ∧
    ((turning 8 .warn 1).micOf 3).warning = false ∧ (1 - (turning 8 .warn 1).cfg.warnTime) * 10 ≤ 9 ∧
    min 65535 (((turning 8 .auto 1).micOf 3).timer + 1) < 1 * 10 ∧ 1 * 10 ≤ min 65535 (((turning 9 .auto 1).micOf 3).timer + 1) ∧
    (turning 9 .auto 1).holds 3 = true ∧ (turning 9 .auto 1).cal.session = .inSession ∧
    (turning 9 .auto 1).floor.mode ≠ .queue ∧
    (let s := inState (turning 9 .auto 1) .grace
     s.limitOf 3 = some 1 ∧ s.holds 3 = true ∧ s.cal.session = .grace ∧ (s.micOf 3).state = .opened) := by decide +kernel

theorem witness_FlashesMessagesAndWindowsEnd :
    (let s := ready.setMic 3 fun m => { m with flash := 1 }; s.powered = true ∧ (s.micOf 3).flash = 1) ∧
    (let s := ready.setMessage 3 fun _ => some ⟨[], 24, 1⟩
     s.disp.messages[(3 : Seat)] = some ⟨[], 24, 1⟩ ∧ s.early.contains (.message 3) = false) ∧
    (let s := ready.setScreen 0 fun sc => { sc with addr := some 5, window := 1 }
     s.disp.screens[(0 : Fin 4)].window = 1 ∧ s.disp.screens[(0 : Fin 4)].addr = some 5 ∧
       s.disp.screens[(0 : Fin 4)].waiting = false ∧ s.disp.screens[(0 : Fin 4)].lastSent = none ∧
       (queueOf s 7).link.queue.length < 8 ∧ 8 ≤ (queueOf s 8).link.queue.length) ∧
    (backAgain.disp.screens[(0 : Fin 4)].window = 1 ∧ backAgain.disp.screens[(0 : Fin 4)].waiting = false ∧
       backAgain.disp.screens[(0 : Fin 4)].lastSent = some (backAgain.screenText backAgain.disp.screens[(0 : Fin 4)].template)) := by
  decide +kernel

/-- 08 R160: a rendering that has come back to the text last sent when its window ends hands no second frame. -/
theorem test_window_end_without_a_change :
    (backAgain.screenBoundary backAgain).link.queue = [] ∧
    (backAgain.screenBoundary backAgain).disp.screens[(0 : Fin 4)].window = 0 := by decide +kernel

def lastCycle : State := { meeting .openFloor with clock := { now := ⟨4294967295, 59, 9⟩, cycles := 199, sync := .synced, age := 65535 } }

theorem witness_TheClockAdvancesAndFallsToHoldover :
    lastCycle.ClockOk ∧ lastCycle.powered = true ∧ 199 ≤ lastCycle.clock.cycles ∧ lastCycle.early.contains .tenth = false := by
  refine ⟨?_, ?_⟩
  · unfold State.ClockOk; decide +kernel
  · decide +kernel

/-- The minute changes: with the clock set beside a booking that is due, in a session with the clock set and in UNSYNCED
before and at its end, in VACANT in UNSYNCED, and in CLOSING. -/
theorem witness_TheClockAdvancesAndFallsToHoldover_minutes :
    (let s := timed (booked 1 70) 69
     s.ClockOk ∧ s.TableOk ∧ s.clock.sync ≠ .unsynced ∧ s.cal.session = .vacant ∧ s.clock.now.next.minute ≠ s.clock.now.minute) ∧
    (let s := timed (meeting .openFloor) 69; s.ClockOk ∧ s.TableOk ∧ s.cal.session = .inSession) ∧
    (let s := { timed (meeting .openFloor) 69 with clock := { (timed ready 69).clock with sync := .unsynced } }
     s.activeBooking = some meetingRecord ∧ s.clock.sync = .unsynced ∧ meetingRecord.number = 0 ∧ meetingRecord.grace = 0 ∧
       s.cal.session = .inSession ∧ meetingRecord.start + meetingRecord.duration ≤ s.clock.now.next.minute) ∧
    ((timed ready 20).clock.now.next.minute < meetingRecord.start + meetingRecord.duration) ∧
    (inState (timed (meeting .openFloor) 69) .closing).cal.session = .closing := by
  refine ⟨⟨?_, ?_, ?_⟩, ⟨?_, ?_, ?_⟩, ?_⟩ <;>
    first
    | (unfold State.ClockOk; decide +kernel)
    | (simp only [State.TableOk, bookingsOk, Booking.ok]; decide +kernel)
    | decide +kernel

/-- CLOSING with every microphone CLOSED; a microphone in its last gap, alone, by its own command and at a boundary; the
third bad slot of its position; HALT. -/
theorem witness_ClosingCompletesWhenEveryMicrophoneIsClosed :
    (let s := inState (meeting .openFloor) .closing
     s.powered = true ∧ s.cal.session = .closing ∧ (∀ seat, (s.micOf seat).state = .closed) ∧ s.clock.sync = .unsynced ∧
       s.TableOk) ∧
    (∃ seat, ((inState (speaking .openFloor 1) .closing).micOf seat).state ≠ .closed) ∧
    (let s := ((inState (meeting .openFloor) .closing).setMic 3 fun m => { m with state := .closing, gap := 1 }).setPos 3
       fun r => { r with loss := 2 }
     s.quiet ∧ s.FloorOk ∧ s.MicOk ∧ s.TableOk ∧ s.ClosingOk ∧ step s = .next s ∧ s.early = [] ∧ s.cal.session = .closing ∧
       (s.micOf 3).state = .closing ∧ (s.micOf 3).gap ≤ 1 ∧ (∀ i, i ≠ 3 → (s.micOf i).state = .closed) ∧
       s.clock.cycles < 199 ∧ s.live 3 = true ∧ readUpSlot [] = none ∧ 2 ≤ s.pos[(3 : Pos)].loss ∧ s.logical 3 = 3 ∧
       (asked .halt s).reaches .halt = true ∧ s.store.halted = false) := by
  refine ⟨?_, ?_, ⟨quiet_of ?_, ⟨?_, ?_, ?_, ?_⟩, ?_, ?_, ?_, rfl, ?_⟩⟩ <;>
    first
    | (unfold State.MicOk; decide +kernel)
    | (unfold State.ClosingOk; decide +kernel)
    | (simp only [State.TableOk, bookingsOk, Booking.ok]; decide +kernel)
    | decide +kernel

theorem witness_TheStaggerEndsWithTheReply :
    (staggering 7).powered = true ∧ (staggering 7).mgmt.engine = .stagger ∧ (staggering 7).mgmt.stagger ≤ 1 ∧
    (staggering 7).early.contains .stagger = false ∧ (staggering 7).mgmt.reply = some ⟨5, 6, .reply, []⟩ ∧
    (staggering 7).mgmt.requests = [⟨5, true, []⟩] ∧ (staggering 7).link.queue.length < 8 ∧
    8 ≤ (staggering 8).link.queue.length := by decide +kernel

/-! ## Witnesses: the room link -/

def restartDue (silent : Bool) (s : State) : State := { s with mgmt := { s.mgmt with restart := .due silent } }

def linkDownState : State := { ready with link := { ready.link with up := false } }

theorem witness_LinkUpAndLinkDown :
    ready.powered = true ∧ ready.link.up = true ∧ linkDownState.link.up = false ∧ linkDownState.store.storeInvalid = true ∧
    linkDownState.link.noticeDest.isSome = true ∧
    ({ linkDownState with store := { ready.store with storeInvalid := false } }).store.storeInvalid = false ∧
    ((queueOf linkDownState 1).link.begun = false ∧ (queueOf linkDownState 1).link.queue ≠ [] ∧
      ∀ silent, (queueOf linkDownState 1).mgmt.restart ≠ .due silent) ∧
    (restartDue false (queueOf linkDownState 1)).mgmt.restart = .due false := by decide +kernel

theorem witness_DroppedFramesAreCountedOnce :
    ready.powered = true ∧ ready.link.up = true ∧ (List.replicate 19 (0 : Byte)).length < 20 ∧
    1020 < (List.replicate 1021 (0 : Byte)).length ∧
    (let raw := List.replicate 20 (0 : Byte)
     20 ≤ raw.length ∧ raw.length ≤ 1020 ∧ raw.drop (raw.length - 4) ≠ crc32Bytes (raw.take (raw.length - 4))) ∧
    ((33 : Nat) ≠ 34 ∧ (5 : Nat) ≠ 6 ∧ (5 : BitVec 16).toNat ≠ (be32 0).length ∧ (4 : BitVec 16).toNat = (be32 0).length ∧
      (34 : BitVec 16).toNat = (be16 0 ++ blockBytes silence).length) ∧
    (let station := ready.link.station
     let covered := addrBytes station ++ addrBytes 5 ++ [0x03, 0x7F] ++ be16 6 ++ (be32 0 ++ be8 59 ++ be8 9)
     ready.link.filter (covered ++ crc32Bytes covered) = .time ⟨0, 59, 9⟩ ∧ field (be32 0 ++ be8 59 ++ be8 9) 4 1 ≤ 59 ∧
       field (be32 0 ++ be8 59 ++ be8 9) 5 1 ≤ 9) ∧
    ((7 : Addr) ≠ ready.link.station ∧ (7 : Addr) ≠ broadcast ∧ ∀ g : Fin 4, ready.link.groups[g] ≠ some 7) ∧
    (59 < field (be32 0 ++ be8 60 ++ be8 0) 4 1 ∧ 9 < field (be32 0 ++ be8 0 ++ be8 10) 5 1) := by decide +kernel

theorem witness_AudioReturnBlocksJoinTheBuffer :
    ready.powered = true ∧ ready.link.up = true ∧ ready.link.learnt = false ∧
    (let l := { ready.link with learnt := true, expected := 65535, buffer := [silence, silence] }
     l.expected < 65536 ∧ (65535 + 65536 - l.expected) % 65536 = 0 ∧ (32766 + 65536 - l.expected) % 65536 = 32767 ∧
       ¬ (32767 + 65536 - l.expected) % 65536 ≤ 32767 ∧ 2 ≤ l.buffer.length) := by decide +kernel

theorem witness_ATimeFrameSetsTheClock :
    ready.powered = true ∧ ready.link.up = true ∧ (0x020000000047 : Addr) = ready.link.station ∧
    ready.cal.session = .vacant ∧ ready.cal.bookings = [] ∧
    (inState (meeting .openFloor) .closing).cal.session = .closing ∧
    ((timed (meeting .openFloor) 20).clock.sync ≠ .unsynced ∧ (booked 1 5).activeBooking = none) ∧
    (let s := { meeting .openFloor with cal := { (meeting .openFloor).cal with
        bookings := [meetingRecord, waitingRecord 1 100, waitingRecord 2 200] } }
     s.activeBooking = some meetingRecord ∧ s.cal.session = .inSession ∧ s.clock.sync = .unsynced ∧ meetingRecord.grace = 0 ∧
       s.TableOk ∧ 170 < min (170 + (10 + 60 - 20)) 200 ∧ min (205 + (10 + 60 - 20)) (max 205 200) ≤ 205) := by
  simp only [State.TableOk, bookingsOk, Booking.ok]; decide +kernel

/-- Two room screens wait while the queue is full. -/
def screensWait : State :=
  ((queueOf ready 8).setScreen 1 fun sc => { sc with addr := some 5, waiting := true }).setScreen 3
    fun sc => { sc with addr := some 6, waiting := true }

/-- An AUDIO_OUT frame with 16 clips is held behind the frame being sent. -/
def sendingAudio : State := { queueOf ready 1 with
  link := { (queueOf ready 1).link with begun := true, held := [⟨⟨9, 0, .audioOut, []⟩, 16⟩] }, mix := { ready.mix with sendClips := 65520 } }

theorem witness_ASentFrameFreesAPlace :
    screensWait.powered = true ∧ screensWait.link.up = true ∧
    screensWait.link.queue = ⟨0, 0, .notice, []⟩ :: List.replicate 7 ⟨0, 0, .notice, []⟩ ∧
    screensWait.mgmt.engine ≠ .replyWait ∧
    (screensWait.link.lastAdmitted = 3 ∧ screensWait.disp.screens[screensWait.link.lastAdmitted + 1 + 1].waiting = true ∧
      (∀ k : Fin 4, k < 1 → screensWait.disp.screens[screensWait.link.lastAdmitted + 1 + k].waiting = false) ∧
      screensWait.disp.screens[screensWait.link.lastAdmitted + 1 + 1].addr = some 5) ∧
    (let s := { staggering 8 with mgmt := { (staggering 8).mgmt with engine := .replyWait } }
     s.mgmt.engine = .replyWait ∧ s.mgmt.reply = some ⟨5, 6, .reply, []⟩ ∧ s.mgmt.requests = [⟨5, true, []⟩] ∧
       (∀ silent, s.mgmt.restart ≠ .due silent) ∧ s.powered = true ∧ s.link.up = true ∧ s.link.queue ≠ [] ∧
       (restartDue false s).mgmt.restart = .due false ∧ (restartDue true s).mgmt.restart = .due true) ∧
    (∀ e : Fin 4, ready.disp.screens[e].waiting = false) ∧
    (sendingAudio.link.queue ≠ [] ∧ sendingAudio.link.held = [⟨⟨9, 0, .audioOut, []⟩, 16⟩] ∧
      (restartDue false sendingAudio).link.held ≠ [] ∧ screensWait.link.held = []) := by decide +kernel

/-- 06 R121: the clips of a held frame are counted when it goes on the line, up to 65535, and not where a link loss drops
it. -/
theorem test_clips_of_a_held_frame : sendingAudio.frameSent.mix.sendClips = 65535 ∧
    sendingAudio.frameSent.link.line = [⟨9, 0, .audioOut, []⟩] ∧ (restartDue false sendingAudio).frameSent.mix.sendClips = 16 ∧
    sendingAudio.linkDown.mix.sendClips = 65520 ∧ sendingAudio.linkDown.link.held = [] := by decide +kernel

/-! ## Witnesses: the management engine -/

/-- The request has stored a staged value, and auto_commit is as given. -/
def staged (auto : Bool) (s : State) : State :=
  { (s.setMgmt fun m => { m with hand := m.hand.map fun h => { h with staged := true } }) with
    cfg := { s.cfg with autoCommit := auto }, mix := { s.mix with pending := true, staged := { s.mix.staged with sendGain := 7 } } }

/-- What `State.answers` and `State.fails` speak of: an operation that is the last of a SILENT request, of an individual one,
of a group one with a stagger or with none, at a full queue; with the request behind it. -/
theorem witness_answers :
    let i : Instr := .unlock 0x5C
    let alone := fun (s : State) (silent group : Bool) => asked i s 0 [] silent group
    let two := { alone ready false false with mgmt.requests := [⟨5, false, []⟩, ⟨6, true, []⟩] }
    ((alone ready true false).reaches i = true ∧ (alone ready false false).reaches i = true ∧
      (alone ready false true).reaches i = true ∧ 0 < staggerCycles (alone ready false true).link.station ∧
      (alone (queueOf ready 8) false false).reaches i = true ∧ 8 ≤ (queueOf ready 8).link.queue.length ∧
      staggerCycles ({ ready with link.station := 0x020000000040 } : State).link.station = 0) ∧
    (two.reaches i = true ∧ two.mgmt.requests.tail ≠ []) ∧
    ((staged true (alone ready false false)).reaches i = true ∧ (staged true (alone (haltedAt ready) true false)).reaches i = true ∧
      (staged false (alone ready false false)).reaches i = true ∧ (Op.unlock 0x5C).mixes = false) := by decide +kernel

/-- 12 section 12.2: the reply to a request of one UNLOCK, and to one of one READ of STATION. -/
theorem test_reply_of_the_last_operation :
    let replies := fun (i : Instr) => match exec i (asked i ready 0 []) with
      | .next t => t.link.queue
      | _ => []
    replies (.unlock 0x5C) = [⟨0x020000000005, ready.link.station, .reply, [0, 1, 0x00, 1, 0, 0x00]⟩] ∧
      (replies (.read 0x02 0 1)).map (·.payload) =
        [[0, 1, 0x00, 1, 0, 0x00, 0, 1, 0x02, 0, 0, 0, 0, 0x47]] := by decide +kernel

/-- 06 R128: an auto-commit at the end of a request that stored a staged value before its last operation, while running and
while halted; none with auto_commit at no. -/
theorem test_auto_commit_at_the_end :
    let after := fun s : State => match exec (.unlock 0x5C) (staged s.cfg.autoCommit (asked (.unlock 0x5C) s 0 [])) with
      | .next t => some (t.mix.pending, t.mix.due, t.mix.image.map (·.sendGain), t.mix.live.sendGain)
      | _ => none
    let auto := fun s : State => { s with cfg := { s.cfg with autoCommit := true } }
    after (auto ready) = some (false, true, some 7, ready.mix.live.sendGain) ∧
      after (auto (haltedAt ready)) = some (false, false, none, 7) ∧
      after ready = some (true, false, none, ready.mix.live.sendGain) := by decide +kernel

theorem witness_AnOperationTurnedAwayChangesNothing :
    (let i : Instr := .write 0x01 0 0 [0]
     i.op = some (.write 0x01 0 0 [0]) ∧ (asked i ready).atOp (.write 0x01 0 0 [0]) = true ∧
       ready.check 0 (.write 0x01 0 0 [0]) = some .badObject) ∧
    (0x13 < (0x14 : Byte).toNat ∧ (0x0C : Byte) ∈ ([0x01, 0x0C, 0x0E, 0x0F, 0x10, 0x12, 0x13] : List Byte) ∧
      (0x05 : Byte) ∈ ([0x05, 0x06, 0x07, 0x08, 0x09, 0x0B, 0x11] : List Byte) ∧
      (0x0D : Byte) ∈ ([0x05, 0x06, 0x07, 0x08, 0x09, 0x0B, 0x0D, 0x11] : List Byte) ∧
      (0x02 : Byte) ∈ ([0x02, 0x03, 0x04] : List Byte)) ∧
    (0x11 < (0x12 : Byte).toNat ∧ (0x0A : Byte) ∈ ([0x01, 0x02, 0x03, 0x04, 0x05, 0x06, 0x08, 0x09, 0x0A] : List Byte) ∧
      (0x11 : Byte) ∈ ([0x07, 0x0B, 0x0C, 0x0D, 0x0E, 0x0F, 0x10, 0x11] : List Byte)) := by decide +kernel

/-- 10 R182; log 47: the session key writes a mute by a flag operation, and not the seat's class, a field above 2 or FLOOR. -/
theorem test_flag_operations_under_the_session_key :
    let s : State := { meeting .openFloor with cal := { (meeting .openFloor).cal with bookings := [{ meetingRecord with key := 6 }] } }
    s.check 6 (.flags .set 0x0A 63 0 1) = none ∧ s.check 6 (.flags .set 0x0A 64 0 1) = none ∧
      s.check 6 (.flags .set 0x0A 63 3 1) = some .protectedKey ∧ s.check 6 (.flags .set 0x0D 0 0 1) = some .protectedKey := by
  decide +kernel

theorem witness_ReadAnswersEntriesAndReadClearClears :
    (let s := asked (.read 0x10 60 7) ready
     s.reaches (.read 0x10 60 7) = true ∧ Object.ofCode (0x10 : Byte).toNat = some .wings ∧ 60 < s.entryCount .wings ∧
       (((List.range (s.entryCount .wings - 60)).map fun i => s.entry .wings (60 + i)).flatten).length ≤ s.replyRoom) ∧
    (let s := asked (.read 0x10 66 1) ready; s.reaches (.read 0x10 66 1) = true ∧ s.entryCount .wings ≤ 66) ∧
    ((asked (.readClear 0x11 3) ready).reaches (.readClear 0x11 3) = true ∧
      (asked (.readClear 0x11 4) ready).reaches (.readClear 0x11 4) = true ∧
      ((asked (.readClear 0x11 0) ready).counterPart 0).length ≤ (asked (.readClear 0x11 0) ready).replyRoom) := by
  decide +kernel

/-- A reply in which 970 bytes are taken has room for four entries of WINGS, or for no part of COUNTERS. -/
theorem witness_ReadAnswersEntriesAndReadClearClears_room :
    let crowd := fun s : State => s.setMgmt fun m => { m with hand := m.hand.map fun h =>
      { h with returned := [⟨1, List.replicate 970 0⟩] } }
    (let s := crowd (asked (.read 0x10 0 6) ready)
     let entries := (List.range 6).map fun i => s.entry .wings i
     s.reaches (.read 0x10 0 6) = true ∧ ∃ k : Fin 512, k.val < 6 ∧ (entries.take k.val).flatten.length ≤ s.replyRoom ∧
       s.replyRoom < (entries.take (k.val + 1)).flatten.length) ∧
    (let s := crowd (asked (.readClear 0x11 1) ready)
     s.reaches (.readClear 0x11 1) = true ∧ s.replyRoom < (s.counterPart 1).length) := by decide +kernel

theorem witness_UnlockEndsWithItsRequestAndRestartWaits :
    (asked (.unlock 0x5C) ready).reaches (.unlock 0x5C) = true ∧ (asked (.unlock 0) ready).reaches (.unlock 0) = true ∧
    (asked (.unlock 0x5C) ready 0 []).reaches (.unlock 0x5C) = true ∧
    ((asked .restart ready).reaches .restart = true ∧ (queueOf ready 3).link.queue.length < 4 ∧
      (asked .restart ready 0 [] true).reaches .restart = true ∧ (staged true (asked .restart ready)).reaches .restart = true ∧
      (asked .restart ready 0 [] false true).reaches .restart = true ∧ 0 < staggerCycles ready.link.station ∧
      (asked .restart (queueOf ready 8) 0 [] false false).reaches .restart = true ∧
      staggerCycles { ready with link := { ready.link with station := 0x020000000040 } }.link.station = 0 ∧
      (asked .restart { ready with link := { ready.link with station := 0x020000000040 } } 0 [] false true).reaches .restart = true) := by
  decide +kernel

theorem witness_AWarmRestartKeepsSettingsAndRequests :
    (let s := { meeting .openFloor with mgmt := { ready.mgmt with restart := .due true, requests := [⟨5, false, []⟩] } }
     s.TableOk ∧ s.powered = true ∧ s.mgmt.restart = .due true ∧ s.clock.sync = .unsynced ∧ s.cal.session.isActive = true) ∧
    (let s := { timed (booked 1 70) 70 with mgmt := { ready.mgmt with restart := .due false } }
     s.TableOk ∧ s.mgmt.restart = .due false ∧ s.clock.sync ≠ .unsynced) ∧
    (ready.mgmt.restart = .none ∧ ready.cal.session.isActive = false ∧
      ({ staggering 0 with mgmt.restart := .scheduled } : State).mgmt.restart = .scheduled) := by
  refine ⟨⟨?_, ?_⟩, ⟨?_, ?_⟩, ?_⟩ <;>
    first | decide +kernel | (simp only [State.TableOk, bookingsOk, Booking.ok]; decide +kernel)

/-- 02 R33, R23: RESTART makes a mute no that was set while no session is active. -/
theorem test_restart_clears_mutes :
    ({ ready with seats := { ready.seats with sessionMute := true }
                  mgmt := { ready.mgmt with restart := .due false } }).takeRestart.seats.sessionMute = false := by decide +kernel

theorem witness_FlagOperationsStoreTheResultingBits :
    (asked (.setFlags 0x05 0 1 31) ready).reaches (.setFlags 0x05 0 1 31) = true ∧
    (asked (.clearFlags 0x05 0 1 32) ready).reaches (.clearFlags 0x05 0 1 32) = true ∧
    (asked (.toggleFlags 0x05 0 1 0) ready).reaches (.toggleFlags 0x05 0 1 0) = true ∧
    (asked (.setFlags 0x0A 63 0 1) ready).reaches (.setFlags 0x0A 63 0 1) = true ∧
    (asked (.clearFlags 0x0A 0 0 2) ready).reaches (.clearFlags 0x0A 0 0 2) = true ∧
    (asked (.toggleFlags 0x0A 0 0 0) ready).reaches (.toggleFlags 0x0A 0 0 0) = true := by decide +kernel

theorem witness_FlagOperationsStoreTheResultingBits_sets :
    ((asked (.setFlags 0x0A 64 0 7) ready).reaches (.setFlags 0x0A 64 0 7) = true ∧
      (asked (.toggleFlags 0x0A 64 0 8) ready).reaches (.toggleFlags 0x0A 64 0 8) = true) ∧
    (let i : Instr := .clearFlags 0x06 (BitVec.ofNat 16 1) 0x10 3; let s := asked i (booked 1 10)
     s.TableOk ∧ s.reaches i = true ∧ s.cal.bookings = [] ++ waitingRecord 1 10 :: [] ∧ (waitingRecord 1 10).number ≠ 0 ∧
       (waitingRecord 1 10).active = false ∧ s.clock.now.minute < 10 + 60 ∧ s.clock.sync = .unsynced ∧
       (waitingRecord 1 10).start + (waitingRecord 1 10).duration ≤ (timed (booked 1 10) 70).clock.now.minute) ∧
    (let r := { meetingRecord with number := 5 }
     let i : Instr := .setFlags 0x06 (BitVec.ofNat 16 5) 0x10 1
     let s := asked i { meeting .openFloor with cal := { (meeting .openFloor).cal with bookings := [r] } }
     s.TableOk ∧ s.reaches i = true ∧ s.cal.bookings = [] ++ r :: [] ∧ r.active = true) := by
  refine ⟨?_, ⟨?_, ?_⟩, ⟨?_, ?_⟩⟩ <;>
    first | decide +kernel | (simp only [State.TableOk, bookingsOk, Booking.ok]; decide +kernel)

/-! ## Witnesses: writes -/

theorem witness_TemplatesAndRostersTakeTheirValues :
    (let i : Instr := .templateWrite (BitVec.ofNat 16 19) 0 (textBytes (spaces 161)); (asked i ready).reaches i = true) ∧
    (let i : Instr := .write 0x08 (BitVec.ofNat 16 15) 0 (textBytes (spaces 64)); (asked i ready).reaches i = true) ∧
    (let e : RosterEntry := ⟨63, spaces 24, 15, .guest, some 3600⟩
     e.name.length ≤ 24 ∧ takeIn e.name = e.name ∧ (∀ l, e.limit = some l → l ≤ 3600) ∧
       (let i : Instr := .rosterWrite (BitVec.ofNat 16 (64 * 7 + 63)) 0xFF
          (be8 63 ++ textBytes e.name ++ be8 15 ++ be8 3 ++ be16 3600)
        (asked i ready).reaches i = true)) ∧
    (let t : Vector (Option RosterEntry) 64 := (Vector.replicate 64 none).set 5 (some ⟨63, [], 0, .guest, none⟩)
     ((t[(5 : Fin 64)]).map (·.position) = some 63 ∧ ∀ other : Fin 64, other ≠ 5 → (t[other]).map (·.position) ≠ some 63)) ∧
    (let i : Instr := .rosterWrite (BitVec.ofNat 16 0) 0xFE [0]; (asked i ready).reaches i = true) := by
  refine ⟨?_, ?_, ⟨?_, ?_, fun l h => by cases h; decide, ?_⟩, ⟨?_, ?_⟩, ?_⟩
  all_goals decide +kernel

theorem witness_ARoomScreenEntryStartsAfresh :
    (let i : Instr := .roomScreenWrite (BitVec.ofNat 16 3) 0xFF (addrBytes 5 ++ [19])
     (asked i (queueOf ready 3)).reaches i = true ∧ (queueOf ready 3).link.queue.length < 4) ∧
    (let i : Instr := .roomScreenWrite (BitVec.ofNat 16 0) 0xFF (addrBytes 0 ++ [16]); (asked i ready).reaches i = true) ∧
    (let i : Instr := .roomScreenWrite (BitVec.ofNat 16 0) 0xFF (addrBytes 5 ++ [20]); (asked i ready).reaches i = true) := by
  decide +kernel

theorem witness_AddressWrites :
    (let i : Instr := .stationWrite 0 0 (addrBytes 5); (asked i ready).reaches i = true) ∧
    (isGroup 5 = false ∧ isGroup broadcast = true ∧ isGroup 0x010000000001 = true ∧ (0x010000000001 : Addr) ≠ broadcast) ∧
    (let i : Instr := .groupsWrite (BitVec.ofNat 16 3) 0 (addrBytes 0x010000000001); (asked i ready).reaches i = true) ∧
    (let i : Instr := .destinationsWrite 1 0 (addrBytes 0)
     (asked i linkDownState).reaches i = true ∧ (asked i linkDownState).link.up = false) ∧
    (let i : Instr := .destinationsWrite 0 0 (addrBytes 9)
     (asked i ready).reaches i = true ∧ ready.store.storeInvalid = true ∧ ready.link.up = true ∧
       (queueOf ready 7).link.queue.length < 8 ∧ 8 ≤ (asked i (queueOf ready 8)).link.queue.length ∧ (9 : Addr) ≠ 0) := by
  decide +kernel

theorem witness_MixValuesAreStaged :
    (let i : Instr := .mixStagedWrite (BitVec.ofNat 16 63) 1 (be16 8192); (asked i ready).reaches i = true) ∧
    (let i : Instr := .mixStagedWrite (BitVec.ofNat 16 0) 2 (be16 4097); (asked i ready).reaches i = true) ∧
    (let i : Instr := .mixStagedWrite (BitVec.ofNat 16 0) 5 (be16 0); (asked i ready).reaches i = true) ∧
    (let i : Instr := .mixStagedWrite (BitVec.ofNat 16 3) 6 [2, 4, 0xFF, 0xFF]
     (asked i ready).reaches i = true ∧
       (let l : Vector (Option Pos) 4 := #v[some 2, some 4, none, none]
        (∀ k : Fin 4, l[k] ≠ some 3) ∧ ∀ j k : Fin 4, j ≠ k → l[j] = l[k] → l[j] = none)) ∧
    (∃ k : Fin 4, (#v[some (3 : Pos), none, none, none] : Vector (Option Pos) 4)[k] = some 3) := by decide +kernel

/-- The write is the last operation of its request, under auto_commit at yes and at no, running and halted. -/
theorem witness_MixValuesAreStaged_last :
    let i : Instr := .mixStagedWrite (BitVec.ofNat 16 63) 1 (be16 8191)
    let auto := fun s : State => { s with cfg := { s.cfg with autoCommit := true } }
    (asked i ready 0 []).reaches i = true ∧ ready.cfg.autoCommit = false ∧ (asked i (auto ready) 0 []).reaches i = true ∧
      (asked i (auto (haltedAt ready)) 0 []).reaches i = true ∧ (auto (haltedAt ready)).store.halted = true := by decide +kernel

theorem witness_ModeAndMaxOpenWrites :
    (let i : Instr := .floorModeWrite 0 [2]
     (asked i (noAuto (meeting .queue))).reaches i = true ∧ (noAuto (meeting .queue)).cfg.autoAdvance = false ∧
       (2 : Byte).toNat = Mode.voice.code ∧ Mode.voice ≠ (meeting .queue).floor.mode) ∧
    (let i : Instr := .floorModeWrite 0 [3]; (asked i (meeting .queue)).reaches i = true) ∧
    (let i : Instr := .floorModeWrite 0 [1]
     (asked i (meeting .voice)).reaches i = true ∧ (meeting .voice).floor.queue = [] ∧ (asked i ready).reaches i = true ∧
       ready.cal.session ≠ .inSession ∧ (asked i (haltedAt (meeting .voice))).store.halted = true) ∧
    (let i : Instr := .maxOpenWrite 0 [6]; (asked i ready).reaches i = true ∧ ready.cal.session ≠ .grace) ∧
    (let s := speaking .openFloor 4; let i : Instr := .maxOpenWrite 0 [1]
     (asked i s).reaches i = true ∧ s.floor.mode ≠ .queue ∧ s.cal.session = .inSession ∧ 1 ≤ s.nonChair ∧ s.nonChair ≤ 3 ∧
       (asked i (inState s .grace)).reaches i = true ∧ (inState s .grace).cal.session = .grace) ∧
    (asked (.maxOpenWrite 0 [1]) (speaking .openFloor 4)).FloorOk ∧
    (asked (.maxOpenWrite 0 [1]) (inState (speaking .openFloor 4) .grace)).FloorOk := by
  refine ⟨by decide +kernel, by decide +kernel, by decide +kernel, by decide +kernel, by decide +kernel, ⟨?_, ?_, ?_, ?_⟩,
    ⟨?_, ?_, ?_, ?_⟩⟩ <;> decide +kernel

theorem witness_MutesAndOverrides :
    (let i : Instr := .muteWrite (BitVec.ofNat 16 63) [1]; (asked i ready).reaches i = true) ∧
    (let i : Instr := .muteWrite 64 [7]; (asked i ready).reaches i = true) ∧
    (let i : Instr := .muteWrite 64 [8]; (asked i ready).reaches i = true) ∧
    (let i : Instr := .classOverrideWrite (BitVec.ofNat 16 3) [2]; let s := asked i ((speaking .openFloor 4).setMic 3 fun m => { m with state := .opening })
     s.reaches i = true ∧ (2 : Byte).toNat = SeatClass.observer.code ∧ s.cal.session = .inSession ∧ s.holds 3 = true ∧
       s.permitted 3 = true ∧ s.present (s.phys 3) = true ∧ s.floor.mode ≠ .queue ∧ (s.micOf 3).state ≠ .opened) ∧
    (let i : Instr := .classOverrideWrite (BitVec.ofNat 16 3) [2]; let s := asked i (speaking .openFloor 4)
     s.reaches i = true ∧ s.cal.session = .inSession ∧ s.holds 3 = true ∧ s.permitted 3 = true ∧ s.present (s.phys 3) = true ∧
       s.floor.mode ≠ .queue ∧ (s.micOf 3).state = .opened) ∧
    (let i : Instr := .classOverrideWrite (BitVec.ofNat 16 3) [0xFF]
     (asked i ready).reaches i = true ∧ ready.cal.session.isActive = false ∧ ready.holds 3 = false ∧ ready.queued 3 = false) ∧
    (let i : Instr := .limitOverrideWrite (BitVec.ofNat 16 3) (be16 3601)
     (asked i (meeting .openFloor)).reaches i = true ∧ ((meeting .openFloor).micOf 3).state ≠ .opened ∧
       (meeting .openFloor).cal.session.isActive = true) ∧
    (let s := speaking .openFloor 4
     (asked (.limitOverrideWrite (BitVec.ofNat 16 3) (be16 1)) s).reaches (.limitOverrideWrite (BitVec.ofNat 16 3) (be16 1)) = true ∧
       (asked (.limitOverrideWrite (BitVec.ofNat 16 3) (be16 0)) s).reaches (.limitOverrideWrite (BitVec.ofNat 16 3) (be16 0)) = true ∧
       s.cal.session.isActive = true ∧ (s.micOf 3).state = .opened ∧ s.mic.limitAction = .warn ∧ s.classOf 3 ≠ .chair) := by
  decide +kernel

theorem witness_SettingsAreStoredAndTheLeadArms :
    (let i : Instr := .leadWrite 0 (be16 16); (asked i ready).reaches i = true ∧ ready.clock.sync = .unsynced ∧ ready.cal.session = .vacant) ∧
    (let s := { booked 1 15 with clock := { ready.clock with sync := .synced } }
     let i : Instr := .leadWrite 0 (be16 15)
     (asked i s).reaches i = true ∧ (∀ x ∈ s.cal.bookings, s.clock.now.minute < x.start + x.duration) ∧
       s.nextBooking = some (waitingRecord 1 15) ∧ s.clock.now.minute < (waitingRecord 1 15).start) ∧
    (let i : Instr := .switchWrite 0 [31]; (asked i ready).reaches i = true) ∧
    (let i : Instr := .switchWrite 0 [32]; (asked i ready).reaches i = true) ∧
    (let i : Instr := .gapWarnWrite 0 4 (be16 301)
     (asked i ready).reaches i = true ∧ ∀ seat, (ready.micOf seat).state ≠ .opened) ∧
    (let i : Instr := .detectorSettingsWrite 0 5 [0]; (asked i ready).reaches i = true) ∧
    (let i : Instr := .detectorSettingsWrite 0 8 (be16 32768); (asked i ready).reaches i = true) ∧
    (let i : Instr := .pageSelectionWrite 0 15 [15]; (asked i ready).reaches i = true) ∧
    (let i : Instr := .pageSelectionWrite 0 10 [16]; (asked i ready).reaches i = true) := by decide +kernel

/-- A lead write in each state that an evaluation can meet. -/
theorem witness_SettingsAreStoredAndTheLeadArms_evaluation :
    (timed (booked 1 15) 5).TableOk ∧ (timed (meeting .openFloor) 69).TableOk ∧
    (inState (timed (speaking .openFloor 2) 69) .grace).TableOk ∧
    (let i : Instr := .leadWrite 0 (be16 15)
     (asked i (timed (booked 1 15) 5)).reaches i = true ∧ (timed (booked 1 15) 5).clock.sync ≠ .unsynced ∧
       (asked i (timed (meeting .openFloor) 69)).reaches i = true ∧
       (asked i (inState (timed (speaking .openFloor 2) 69) .grace)).reaches i = true) ∧
    (inState (timed (speaking .openFloor 2) 69) .grace).noAdvance := by
  refine ⟨?_, ?_, ?_, ?_, ?_⟩ <;>
    first
    | (unfold State.noAdvance; decide +kernel)
    | (simp only [State.TableOk, bookingsOk, Booking.ok]; decide +kernel)

/-- A warn_time write with seat 3 OPEN at `timer`, under a limit of one second. -/
def warned (timer : Nat) (action : LimitAction) (s : State) : State :=
  let u := asked (.gapWarnWrite 0 4 (be16 300)) (s.setMic 3 fun m => { m with timer := timer })
  { u with mic := { u.mic with speakLimit := 1, limitAction := action } }

/-- Under WARN, under AUTO before the limit point and at it: in a session without a check and with one, and in GRACE with other
holders and without. -/
theorem witness_SettingsAreStoredAndTheLeadArms_warnTime :
    (let s := warned 10 .warn (speaking .openFloor 4)
     s.reaches (.gapWarnWrite 0 4 (be16 (300 : BitVec 16).toNat)) = true ∧ (s.micOf 3).state = .opened ∧ s.limitOf 3 = some 1 ∧
       s.limitOf 0 = none ∧ (s.micOf 9).state ≠ .opened ∧ s.mic.limitAction = .warn) ∧
    (let s := (warned 0 .warn (speaking .openFloor 4)); (s.micOf 1).warning = false ∧ s.limitOf 1 = some 1 ∧
       (1 - min 300 300) * 10 ≤ (s.micOf 1).timer ∧ ∀ j : Seat, j < 1 → s.limitOf j = none) ∧
    (let s := warned 9 .auto (speaking .openFloor 4)
     ∀ i, ¬ ((s.micOf i).state = .opened ∧ (s.limitOf i).any (fun l => decide (l * 10 ≤ (s.micOf i).timer)) = true)) ∧
    (let s := warned 10 .auto (speaking .openFloor 4)
     s.reaches (.gapWarnWrite 0 4 (be16 (300 : BitVec 16).toNat)) = true ∧ s.FloorOk ∧ s.MicOk ∧ s.cal.session = .inSession ∧
       s.floor.mode ≠ .queue ∧ s.limitOf 3 = some 1 ∧ 1 * 10 ≤ (s.micOf 3).timer ∧ s.mic.limitAction = .auto) ∧
    ((warned 10 .auto advancing).Advancing ∧ (warned 10 .auto advancing).MicOk ∧ (warned 10 .auto advancing).limitOf 3 = some 1) ∧
    (let s := warned 10 .auto (inState (speaking .openFloor 4) .grace)
     s.FloorOk ∧ s.MicOk ∧ s.cal.session = .grace ∧ s.floor.openList.filter (fun e => e.seat ≠ 3) ≠ []) ∧
    (let s := warned 10 .auto (sole .grace)
     s.FloorOk ∧ s.MicOk ∧ s.cal.session = .grace ∧ s.floor.openList.filter (fun e => e.seat ≠ 3) = [] ∧
       s.floor.openList ≠ []) := by
  refine ⟨by decide +kernel, by decide +kernel, by decide +kernel, ?_, ⟨advancing_of ?_, ?_⟩, ?_, ?_⟩ <;>
    first | (unfold State.FloorOk State.MicOk; decide +kernel) | (unfold State.MicOk; decide +kernel) | decide +kernel

theorem witness_inRange : (waitingRecord 65535 4294967295).inRange := by unfold Booking.inRange; decide +kernel

theorem witness_BookingsAreInsertedChangedAndDeleted_inserts :
    (let b := waitingRecord 2 70; let i : Instr := .bookingInsert (be16 b.number ++ b.written)
     (asked i (booked 1 10)).reaches i = true ∧ (booked 1 10).clock.sync = .unsynced ∧ (booked 1 10).cal.session = .vacant ∧
       (asked i (timed (booked 1 10) 5)).reaches i = true ∧
       (∀ r ∈ (booked 1 10).cal.bookings, r.number ≠ b.number ∧ ¬ (b.start < r.start + r.duration)) ∧
       (booked 1 10).clock.now.minute < b.start + b.duration) ∧
    (∃ r ∈ (booked 2 10).cal.bookings, r.number = 2) ∧
    (let m := 69; 69 ≤ m ∧ m < 69 + 60 ∧ 10 ≤ m ∧ m < 10 + 60) ∧
    32 ≤ ((List.range 32).map fun n => waitingRecord (n + 10) (5000 + 60 * n)).length ∧
    (timed (booked 1 10) 5).TableOk ∧ step (timed (booked 1 10) 5) = .next (timed (booked 1 10) 5) := by
  refine ⟨?_, ?_, ?_, ?_, ?_, rfl⟩ <;>
    first | (simp only [State.TableOk, bookingsOk, Booking.ok]; decide +kernel) | decide +kernel

/-- A session of the booking 5, which is ACTIVE. -/
def session5 : State := { meeting .openFloor with
  cal := { (meeting .openFloor).cal with bookings := [{ meetingRecord with number := 5 }] } }

theorem witness_BookingsAreInsertedChangedAndDeleted_changes :
    (let b := waitingRecord 1 30; let i : Instr := .bookingChange (BitVec.ofNat 16 1) 0xFF b.written
     (asked i (booked 1 10)).reaches i = true ∧ (booked 1 10).cal.bookings = [] ++ waitingRecord 1 10 :: [] ∧
       (waitingRecord 1 10).active = false ∧ (booked 1 10).clock.now.minute < b.start + b.duration) ∧
    (let i : Instr := .bookingDelete (BitVec.ofNat 16 1) [0]; (asked i (booked 1 10)).reaches i = true) ∧
    (let b := waitingRecord 5 80; let r := { meetingRecord with number := 5 }
     let i : Instr := .bookingChange (BitVec.ofNat 16 5) 0xFF b.written; let j : Instr := .bookingDelete (BitVec.ofNat 16 5) [1]
     (asked i session5).reaches i = true ∧ (asked j session5).reaches j = true ∧ session5.cal.session = .inSession ∧
       session5.cal.bookings = [] ++ r :: [] ∧ r.number = b.number ∧ r.active = true) ∧
    (let b := waitingRecord 1 90
     let s := { ready with cal := { ready.cal with bookings := [waitingRecord 1 10, waitingRecord 2 100] } }
     let i : Instr := .bookingChange (BitVec.ofNat 16 1) 0xFF b.written
     (asked i s).reaches i = true ∧ s.cal.bookings = [] ++ waitingRecord 1 10 :: [waitingRecord 2 100] ∧
       (∃ x ∈ [waitingRecord 2 100], x.start < b.start + b.duration ∧ b.start < x.start + x.duration) ∧
       ∀ x ∈ [waitingRecord 2 100], 0 < x.duration) ∧
    (let i : Instr := .bookingDelete 2 [0]; let j : Instr := .bookingChange 2 0xFF (waitingRecord 1 30).written
     (asked i (booked 1 10)).reaches i = true ∧ (asked j (booked 1 10)).reaches j = true ∧
       ∀ r ∈ (booked 1 10).cal.bookings, r.number ≠ (2 : BitVec 16).toNat) := by
  decide +kernel

/-! ## Witnesses: actions -/

theorem witness_FloorActionsAndGrant :
    (let i : Instr := .grant 3 0
     (asked i (haltedAt (meeting .openFloor))).reaches i = true ∧ (asked i ready).reaches i = true ∧
       ready.store.halted = false ∧ ready.cal.session ≠ .inSession ∧ ready.cal.session ≠ .grace) ∧
    (speaking .openFloor 5).mayAsk 5 ∧
    (let i : Instr := .grant 5 1; let s := asked i (speaking .openFloor 5)
     s.reaches i = true ∧ s.floor.mode ≠ .queue ∧ s.holds 5 = false ∧ s.room 5 = false ∧ s.oldestNonChair = some 1 ∧
       s.holds 3 = true) ∧
    (speaking .openFloor 4).room 5 = true ∧
    (let s := inState (speaking .queue 2) .grace
     (asked .next s).reaches .next = true ∧ (asked (.grant 5 0) s).reaches (.grant 5 0) = true ∧
       (asked (.queuePlace 5 16) s).reaches (.queuePlace 5 16) = true ∧ s.store.halted = false ∧ s.cal.session = .grace ∧
       s.holds 5 = false ∧ s.floor.mode = .queue) := by
  refine ⟨by decide +kernel, ?_, ?_⟩
  · unfold State.mayAsk; decide +kernel
  · decide +kernel

/-- A seat of 64 and of 255, a force byte of 2, positions 0 and 17, a mode other than QUEUE, a holder placed, and each of the
three refusals. -/
theorem witness_FloorActionsAndGrant_refusals :
    (let s := meeting .queue
     (asked (.grant 64 0) s).reaches (.grant 64 0) = true ∧ (asked (.revoke 255) s).reaches (.revoke 255) = true ∧
       (asked (.queuePlace 64 1) s).reaches (.queuePlace 64 1) = true ∧ s.store.halted = false ∧ s.cal.session.runs = true ∧
       64 ≤ (64 : Byte).toNat ∧ 64 ≤ (255 : Byte).toNat) ∧
    (let s := meeting .queue
     (asked (.grant 3 2) s).reaches (.grant 3 2) = true ∧ (asked (.queuePlace 3 0) s).reaches (.queuePlace 3 0) = true ∧
       (asked (.queuePlace 3 17) s).reaches (.queuePlace 3 17) = true ∧
       (asked (.queuePlace 3 1) (meeting .openFloor)).reaches (.queuePlace 3 1) = true ∧ (meeting .openFloor).floor.mode ≠ .queue ∧
       (asked (.queuePlace 3 16) (speaking .queue 4)).reaches (.queuePlace 3 16) = true ∧ (speaking .queue 4).holds 3 = true) ∧
    (let s := meeting .queue
     s.pos[s.phys 63].presence = .absent ∧ (classOf1 s 3 .observer).classOf 3 = .observer ∧
       (classOf1 s 3 .observer).pos[(3 : Pos)].statusValid = true ∧
       (let u := (keyed s).setPos 3 fun r => { r with card := some 4 }
        u.permitted 3 = false ∧ u.classOf 3 ≠ .observer ∧ u.pos[u.phys 3].statusValid = true ∧
          u.pos[u.phys 3].presence = .present) ∧
       (asked (.grant 63 1) s).reaches (.grant 63 1) = true ∧ (asked (.queuePlace 63 16) s).reaches (.queuePlace 63 16) = true ∧
       s.holds 63 = false ∧ (inState (sole .grace) .grace).holds 3 = true) := by decide +kernel

theorem witness_RevokeAndCloseAllTakeTheFloor :
    (let i : Instr := .revoke 3; let s := asked i (waiting (speaking .openFloor 4) 2)
     s.reaches i = true ∧ s.store.halted = false ∧ s.cal.session = .inSession ∧ s.floor.mode ≠ .queue ∧ s.holds 3 = true ∧
       (s.micOf 3).state = .opened ∧ s.holds 12 = false ∧ s.queued 12 = true ∧ s.holds 30 = false ∧ s.queued 30 = false) ∧
    (asked .closeAll (speaking .openFloor 4)).reaches .closeAll = true ∧
    ((asked .closeAll (meeting .queue)).reaches .closeAll = true ∧ (meeting .queue).floor.openList = []) ∧
    (let i : Instr := .revoke 3; let s := asked i (waiting (sole .grace) 2)
     s.reaches i = true ∧ s.store.halted = false ∧ s.cal.session = .grace ∧ s.holds 3 = true ∧
       s.floor.openList.filter (fun x => x.seat ≠ 3) = [] ∧ s.MicOk ∧ (s.micOf 3).state = .opened ∧ s.holds 12 = false ∧
       s.queued 12 = true ∧ s.holds 30 = false ∧ s.queued 30 = false) ∧
    ((asked .closeAll (sole .grace)).reaches .closeAll = true ∧
      (sole .grace).floor.openList = ⟨3, ⟨20, 0, 0⟩, .button⟩ :: [] ∧ (inState (meeting .openFloor) .grace).floor.openList = []) := by
  simp only [State.MicOk]; decide +kernel

/-- Seat 3 has been idle long enough, seat 5 has begun to speak. -/
def voices (s : State) : State := { s with
  level := (modify (modify s.level 3 fun l => { l with voiceIdle := true, fresh := true }) 5
    fun l => { l with voiceStart := true, envelope := 9000, fresh := true }) }

/-- A cycle's end in VOICE mode in a session, in GRACE with a list that voice-idle empties and with one it does not, at a
halted table, and in another mode; a press in VOICE mode. -/
theorem witness_VoiceConditionsMoveTheFloor :
    (let s := voices (sole .inSession)
     let v := { s with floor := { s.floor with mode := .voice } }
     (v.powered = true ∧ v.mgmt.restart = .none ∧ (∀ p : Pos, v.pos[p].answer = none ∧ v.pos[p].event = none) ∧
       v.wingA.passEnds = false ∧ v.wingB.passEnds = false ∧ v.clock.cycles < 199 ∧ v.mic.limitAction = .warn) ∧
     s.floor.mode ≠ .voice ∧ v.floor.mode = .voice ∧ v.store.halted = false ∧ v.cal.session = .inSession ∧
       (haltedAt v).store.halted = true ∧ v.voiceIdle 3 = true ∧ v.voiceStart 5 = true ∧ v.floor.blocked[(5 : Seat)] = false ∧
       v.floor.seen[(5 : Seat)] = false ∧ (inState v .grace).cal.session = .grace ∧
       v.floor.openList.filter (fun e => !v.voiceIdle e.seat) = [] ∧ v.floor.openList ≠ [] ∧
       (inState v .grace).MicOk ∧ 2 ≤ v.cfg.closeGap ∧
       (voices (speaking .voice 2)).floor.openList.filter (fun e => !(voices (speaking .voice 2)).voiceIdle e.seat) ≠ []) ∧
    ((pressed (meeting .voice) 3).heard 3 .button ∧ (pressed (meeting .voice) 3).mayAsk 3 ∧
      (meeting .voice).floor.mode = .voice ∧ (meeting .voice).holds 3 = false ∧ (meeting .voice).queued 3 = false) := by
  refine ⟨by simp only [State.MicOk]; decide +kernel, heard_of ?_, ?_⟩ <;>
    first | (unfold State.mayAsk; decide +kernel) | decide +kernel

/-- NEXT with a head that finds room, one that finds none and none at all; QUEUE_PLACE of a new seat, at a full queue, and of
a seat that waits; CLEAR_QUEUE in both states. -/
theorem witness_FloorActionsAndGrant_queue :
    (let s := asked .next (noAuto (waiting (speaking .queue 4) 2))
     s.reaches .next = true ∧ s.store.halted = false ∧ s.cal.session = .inSession ∧ s.cfg.autoAdvance = false ∧
       s.floor.queue = [⟨12, 20, 0, .button⟩, ⟨13, 20, 0, .button⟩] ∧ s.room 12 = true) ∧
    (waiting (speaking .queue 5) 2).room 12 = false ∧ (meeting .queue).floor.queue = [] ∧ (meeting .queue).mayAsk 5 ∧
    (let s := noAuto (waiting (meeting .queue) 15); let i : Instr := .queuePlace 5 16
     (asked i s).reaches i = true ∧ s.floor.mode = .queue ∧ s.holds 5 = false ∧ s.queued 5 = false ∧
       s.floor.queue.length < 16 ∧ 1 ≤ (16 : Byte).toNat ∧ (16 : Byte).toNat ≤ 16 ∧
       16 ≤ (waiting (meeting .queue) 16).floor.queue.length) ∧
    (let s := noAuto (queued1 (meeting .queue) 5); let i : Instr := .queuePlace 5 1
     (asked i s).reaches i = true ∧ s.queued 5 = true ∧
       s.floor.queue.find? (fun x => x.seat = 5) = some ⟨5, 20, 0, .button⟩) ∧
    (asked .clearQueue (waiting (meeting .queue) 16)).reaches .clearQueue = true ∧
    (asked .clearQueue (inState (waiting (meeting .queue) 16) .grace)).reaches .clearQueue = true := by
  refine ⟨by decide +kernel, by decide +kernel, by decide +kernel, ?_, ?_⟩
  · unfold State.mayAsk; decide +kernel
  · decide +kernel

theorem witness_OpenAdhocStartsASession :
    (let i : Instr := .openAdhoc (BitVec.ofNat 16 4) (BitVec.ofNat 8 15) (BitVec.ofNat 8 63) (BitVec.ofNat 8 2) 7
     let s := asked i (booked 1 5)
     s.reaches i = true ∧ s.cal.session = .vacant ∧ s.cal.bookings.length < 32 ∧
       (∀ b ∈ s.cal.bookings, b.active = false ∧ b.number ≠ 0) ∧ s.nextBooking = some (waitingRecord 1 5) ∧
       s.clock.now.minute + 5 ≤ (waitingRecord 1 5).start) ∧
    (let i : Instr := .openAdhoc (BitVec.ofNat 16 6) (BitVec.ofNat 8 0) (BitVec.ofNat 8 0) (BitVec.ofNat 8 0) 1
     (asked i (booked 1 5)).reaches i = true ∧ (waitingRecord 1 5).start < ready.clock.now.minute + 6 ∧
       (booked 1 5).nextBooking = some (waitingRecord 1 5)) ∧
    ((asked (.openAdhoc 5 16 0 0 1) ready).reaches (.openAdhoc 5 16 0 0 1) = true ∧
      (asked (.openAdhoc 5 0 64 0 1) ready).reaches (.openAdhoc 5 0 64 0 1) = true ∧
      (asked (.openAdhoc 5 0 0 3 1) ready).reaches (.openAdhoc 5 0 0 3 1) = true ∧
      (asked (.openAdhoc 5 0 0 3 1) (inState ready .armed)).reaches (.openAdhoc 5 0 0 3 1) = true) ∧
    (inState ready .armed).cal.session = .armed ∧ (meeting .openFloor).cal.session.isActive = true := by decide +kernel

theorem witness_ExtendAndEndSession :
    (let s := asked (.extend 120) (noAuto (meeting .queue))
     s.reaches (.extend 120) = true ∧ s.clock.sync = .unsynced ∧ meetingRecord.number = 0 ∧
       s.cal.bookings = [] ++ meetingRecord :: [] ∧ meetingRecord.active = true ∧ meetingRecord.duration + 120 ≤ 1440 ∧
       s.clock.now.minute < meetingRecord.start + meetingRecord.duration + 120 ∧ s.nextBooking = none ∧
       s.cfg.autoAdvance = false ∧ s.cal.session = .inSession) ∧
    ((asked (.extend 0) ready).reaches (.extend 0) = true ∧ ready.cal.session = .vacant ∧
      (asked (.extend 1) (inState (speaking .openFloor 1) .closing)).reaches (.extend 1) = true) ∧
    (let r : Booking := { meetingRecord with number := 5, grace := 30 }
     let s := asked (.extend 5) { inState (timed (speaking .openFloor 2) 72) .grace with
       cal := { (speaking .openFloor 2).cal with session := .grace, bookings := [r], graceEnd := some 100 } }
     s.reaches (.extend 5) = true ∧ s.TableOk ∧ s.cal.session = .grace ∧ s.cal.bookings = [] ++ r :: [] ∧
       s.clock.sync ≠ .unsynced ∧ s.clock.now.minute < r.start + r.duration + 5 ∧ s.noAdvance) ∧
    (let r : Booking := { meetingRecord with duration := 1440 }
     let s := asked (.extend 5) { meeting .openFloor with cal := { (meeting .openFloor).cal with bookings := [r] } }
     s.reaches (.extend 5) = true ∧ min 5 (1440 - r.duration) = 0) ∧
    (let s := asked (.extend 5) { meeting .openFloor with cal := { (meeting .openFloor).cal with
        bookings := [meetingRecord, waitingRecord 1 72] } }
     s.reaches (.extend 5) = true ∧ s.nextBooking = some (waitingRecord 1 72) ∧ (72 : Nat) < 10 + 60 + 5) ∧
    (let s := asked .endSession (speaking .openFloor 4)
     s.TableOk ∧ s.reaches .endSession = true ∧ s.cal.session = .inSession ∧ s.store.halted = false ∧
       (⟨3, ⟨20, 0, 0⟩, .button⟩ : OpenEntry) ∈ s.floor.openList ∧ (s.micOf 3).state = .opened) ∧
    ((asked .endSession (inState (meeting .openFloor) .grace)).reaches .endSession = true ∧
      (asked .endSession (inState (meeting .openFloor) .grace)).TableOk ∧
      ∀ i : Seat, ((inState (meeting .openFloor) .grace).micOf i).state = .closed) ∧
    (asked .endSession ready).reaches .endSession = true := by
  refine ⟨by decide +kernel, by decide +kernel, ⟨?_, ?_, ?_, ?_, ?_, ?_, ?_⟩, by decide +kernel, by decide +kernel, ?_, ?_,
    by decide +kernel⟩ <;>
    first
    | (unfold State.noAdvance; decide +kernel)
    | (simp only [State.TableOk, bookingsOk, Booking.ok]; decide +kernel)

theorem witness_AMessageBeginsAtItsFirstStep :
    (let i : Instr := .sendMessage (BitVec.ofNat 8 3) (spaces 97); (asked i ready).reaches i = true) ∧
    (let i : Instr := .sendMessage 0xFF (spaces 96); (asked i ready).reaches i = true) ∧ (spaces 250).length ≤ 250 ∧
    ready.pos[ready.phys 3].presence = .present ∧ ready.pos[ready.phys 20].presence = .absent := by decide +kernel

theorem witness_HaltSilencesAndResumeEnumerates :
    ((asked .halt (speaking .openFloor 4)).reaches .halt = true ∧ (speaking .openFloor 4).store.halted = false ∧
      (speaking .openFloor 4).cal.session = .inSession) ∧
    ((asked .halt (haltedAt ready)).reaches .halt = true ∧ (haltedAt ready).store.halted = true) ∧
    ((asked .halt (waiting (sole .grace) 2)).reaches .halt = true ∧ (sole .grace).cal.session = .grace ∧
      (sole .grace).floor.openList ≠ [] ∧ (asked .halt (waiting (sole .grace) 2)).TableOk ∧ (asked .halt ready).reaches .halt = true ∧ ready.cal.session = .vacant) ∧
    (asked .resume (haltedAt ready)).reaches .resume = true ∧ (asked .resume ready).reaches .resume = true := by
  simp only [State.TableOk, bookingsOk, Booking.ok]; decide +kernel

/-! ## Cases that the statements reach only in part -/

/-- 10 R181: an ACTION whose code names no action fails BAD_VALUE and stops its request (log 36). -/
theorem test_unknown_action :
    ((asked .halt ready).setMgmt fun m => { m with hand := m.hand.map fun h =>
      { h with ops := .action 0xEE [] :: h.ops.tail } }).takeRequest.link.queue.map (·.payload) =
      [replyPayload 1 .badValue 1 1 [.badValue] []] := by decide +kernel

/-- 03 R43, R64: the roll of the minute in CLOSING is held pending (log 34). -/
theorem test_roll_in_closing : (inState lastCycle .closing).advanceClock.cal.stepPending = true ∧
    (inState { lastCycle with clock.now.minute := 5 } .closing).advanceClock.cal.stepPending = false := by decide +kernel

/-- 12 R198: MIX_STAGED holds no field 9, at any index; its fields 2 to 5 are held at index 0 alone. -/
theorem test_mix_staged_field_not_held :
    let replies := fun field : Byte => match exec (.write 0x0B 1 field [0, 0]) (asked (.write 0x0B 1 field [0, 0]) ready 0 []) with
      | .next t => t.link.queue.map (·.payload)
      | _ => []
    replies 9 = [replyPayload 1 .badValue 1 1 [.badValue] []] ∧ replies 2 = [replyPayload 1 .badIndex 1 1 [.badIndex] []] := by
  decide +kernel

/-- 09 R171: the reply to RESTART is sent after the restart has taken effect (log 5). -/
theorem test_frame_sent_while_a_restart_is_due :
    (restartDue false (queueOf ready 1)).startSending.link.begun = false ∧
    (restartDue false (queueOf ready 1)).frameSent.wingA.state = .enumerating ∧
    (restartDue false (queueOf ready 1)).frameSent.link.line = [⟨0, 0, .notice, []⟩] := by decide +kernel

end Sys2Proof.Tests
end

namespace Sys2Proof.Machine

/-! ## Power-on values, table by table -/

section Reset

theorem State.reset_pos (p : Pos) : State.reset.pos[p] = PosRec.powerOn := by
  simp [State.reset, State.fromImage]

theorem State.reset_level (p : Pos) : State.reset.level[p] = LevelRec.powerOn := by
  simp [State.reset, State.fromImage]

theorem State.reset_recs (p : Pos) : State.reset.seats.recs[p] = SeatRec.powerOn := by
  simp [State.reset, State.fromImage, SeatTable.powerOn]

theorem State.reset_micOf (seat : Seat) : State.reset.micOf seat = MicRec.powerOn := by
  simp [State.reset, State.fromImage, State.micOf, MicBlock.powerOn]

/-- Every gain of the default tables is 4096, and no sample has clipped yet. -/
theorem State.reset_gains (seat : Seat) : State.reset.mix.live.gin[seat] = 4096 ∧
    State.reset.mix.live.gout[seat] = 4096 ∧ State.reset.mix.outClips[seat] = 0 := by
  simp [State.reset, State.fromImage, MixBlock.powerOn, MixTables.default, Image.factory]

/-- Every room screen entry is off. -/
theorem State.reset_screens (e : Fin 4) : State.reset.disp.screens[e] = Screen.fresh none 0 := by
  simp [State.reset, State.fromImage, Display.powerOn, mapAll, Image.factory, defaultScreens]

end Reset

/-- Settles O3: the tables entry by entry, every other value as the reset state writes it out. -/
theorem resetLeavesThePowerOnValues : Obligations.ResetLeavesThePowerOnValues := by
  unfold Obligations.ResetLeavesThePowerOnValues
  intro r
  refine ⟨⟨rfl, rfl, rfl, rfl, rfl⟩, fun p => ?_, fun p => ?_, fun p => ?_, ⟨rfl, rfl, rfl, rfl⟩, ⟨rfl, rfl, rfl, rfl⟩,
    ⟨rfl, rfl, rfl, rfl⟩, ⟨rfl, rfl, rfl, rfl⟩, fun seat => ?_, State.reset_gains, ⟨rfl, rfl, rfl, rfl⟩, fun e => ?_,
    ⟨rfl, rfl, rfl, rfl, rfl⟩, ⟨rfl, rfl, rfl, rfl⟩, ⟨rfl, rfl, rfl, rfl, rfl⟩, rfl, rfl, rfl, rfl, rfl⟩
  · rw [State.reset_pos]; exact ⟨rfl, rfl, rfl, rfl, rfl⟩
  · rw [State.reset_level]; exact ⟨rfl, rfl, rfl⟩
  · rw [State.reset_recs]; exact ⟨rfl, rfl, rfl, rfl, rfl⟩
  · rw [State.reset_micOf]; exact ⟨rfl, rfl, rfl⟩
  · rw [State.reset_screens]; exact ⟨rfl, rfl⟩

/-! ## Twelve chunks -/

/-- A chunk whose number is the expected one joins the text received so far. -/
theorem UnitDisplay.receive_next (u : UnitDisplay) (t chars : Text) (n : Nat) (h : 0 < n) (hn : n < 11) :
    ({ u with partialText := some (t, n) }).receive n chars = { u with partialText := some (t ++ chars, n + 1) } := by
  simp [UnitDisplay.receive, show n ≠ 0 by omega, show n ≠ 11 by omega]

/-- What a text's first characters and its next chunk make together. -/
theorem take_append_chunkOf (t : Text) (i : Nat) : t.take (4 * i) ++ chunkOf t i = t.take (4 * (i + 1)) := by
  rw [chunkOf, show 4 * (i + 1) = 4 * i + 4 by omega, List.take_add]

/-- The first `n` chunks leave a unit with the first `4 * n` characters, whatever it held before. -/
theorem UnitDisplay.receiveAll_first (u : UnitDisplay) (t : Text) (n : Nat) (hn : n < 11) :
    u.receiveAll ((List.range (n + 1)).map fun i => (i, chunkOf t i)) =
      { u with partialText := some (t.take (4 * (n + 1)), n + 1) } := by
  induction n with
  | zero => simp [UnitDisplay.receiveAll, UnitDisplay.receive, chunkOf]
  | succ n ih =>
    rw [List.range_succ, List.map_append, UnitDisplay.receiveAll, List.foldl_append]
    have ih := ih (by omega)
    rw [UnitDisplay.receiveAll] at ih
    rw [ih]
    simpa [take_append_chunkOf] using u.receive_next (t.take (4 * (n + 1))) (chunkOf t (n + 1)) (n + 1) (by omega) hn

/-- The twelfth chunk latches the text. -/
theorem UnitDisplay.receiveAll_chunksOf (u : UnitDisplay) (t : Text) (h : t.length = 48) :
    u.receiveAll (chunksOf t) = { partialText := none, shown := some t } := by
  have first := u.receiveAll_first t 10 (by omega)
  rw [UnitDisplay.receiveAll] at first
  rw [chunksOf, List.range_succ, List.map_append, UnitDisplay.receiveAll, List.foldl_append, first]
  simp only [List.map_cons, List.map_nil, List.foldl_cons, List.foldl_nil, UnitDisplay.receive]
  rw [take_append_chunkOf]
  simp [List.take_of_length_le, h]

/-- One cycle of a transfer that goes well: it is settled against the text, a chunk goes, and its report comes. -/
def Delivery.round (t : Text) (d : Delivery) : Delivery := ({ d.settle t with carried := true }).report true

/-- The first round starts the transfer and brings chunk 0. -/
theorem Delivery.round_start {d : Delivery} {t : Text} (ht : d.transfer = none) (hk : d.known ≠ some t) :
    d.round t = { known := d.known, transfer := some ⟨t, 1⟩, carried := false } := by
  simp [Delivery.round, Delivery.settle, Delivery.report, ht, hk]

/-- A round in between brings the next chunk. -/
theorem Delivery.round_next (known : Option Text) (t : Text) (n : Nat) (hn : n < 11) :
    Delivery.round t { known := known, transfer := some ⟨t, n⟩, carried := false } =
      { known := known, transfer := some ⟨t, n + 1⟩, carried := false } := by
  simp [Delivery.round, Delivery.settle, Delivery.report, hn]

/-- The round of chunk 11 makes the text known. -/
theorem Delivery.round_last (known : Option Text) (t : Text) :
    Delivery.round t { known := known, transfer := some ⟨t, 11⟩, carried := false } =
      { known := some t, transfer := none, carried := false } := by
  simp [Delivery.round, Delivery.settle, Delivery.report]

/-- After `n` rounds, of at most eleven, chunk `n` is the next. -/
theorem Delivery.rounds_first {d : Delivery} {t : Text} (ht : d.transfer = none) (hk : d.known ≠ some t) (n : Nat)
    (hn : n < 11) : Nat.repeat (Delivery.round t) (n + 1) d =
      { known := d.known, transfer := some ⟨t, n + 1⟩, carried := false } := by
  induction n with
  | zero => exact Delivery.round_start ht hk
  | succ n ih => rw [Nat.repeat, ih (by omega), Delivery.round_next _ _ _ hn]

/-- Settles O30: by induction on the chunks received, and on the rounds. -/
theorem aTextReachesItsDisplayInTwelveChunks : Obligations.ATextReachesItsDisplayInTwelveChunks := by
  unfold Obligations.ATextReachesItsDisplayInTwelveChunks
  refine ⟨fun u t h => u.receiveAll_chunksOf t h, fun d t ht hk => ?_, fun d t n ht hc hn => ?_⟩
  · show Nat.repeat (Delivery.round t) 12 d = _
    rw [Nat.repeat, Delivery.rounds_first ht hk 10 (by omega), Delivery.round_last]
  · by_cases h : n = 11
    · simp [Delivery.report, ht, hc, h]
    · simp [Delivery.report, ht, hc, h, show n < 11 by omega]

end Sys2Proof.Machine

namespace Sys2Proof.Machine

/-! ## The end of a command -/

/-- A command's effect with what ends every command: the screens render again and the head of the queue begins. -/
def State.ended (s : State) : State := s.refreshScreens.startSending

/-- A command at a part with power has its own effect, and the end of every command. -/
theorem whenPowered_next {s : State} (f : State → State) (h : s.powered = true) :
    whenPowered s f = .next (f s).ended := by
  simp [whenPowered, h, ok, State.ended]

/-- A command that changes nothing of its own, with power or without, ends as every command or does nothing at all. -/
theorem whenPowered_idle {s : State} (f : State → State) (h : f s = s) :
    ∃ t, whenPowered s f = .next t ∧ s.keeps t screenPieces := by
  unfold whenPowered
  split
  · rw [h]
    exact ⟨_, rfl, State.keeps_trans s.refreshScreens_keeps (State.keeps_mono (State.startSending_keeps _) (by decide))⟩
  · exact ⟨s, rfl, s.keeps_refl _⟩

section Ended
variable (s : State)

theorem State.ended_keeps : s.keeps s.ended screenPieces :=
  State.keeps_trans s.refreshScreens_keeps (State.keeps_mono (State.startSending_keeps _) (by decide))

@[simp] theorem State.ended_frame :
    s.ended.powered = s.powered ∧ s.ended.wingA = s.wingA ∧ s.ended.wingB = s.wingB ∧ s.ended.pos = s.pos ∧
    s.ended.level = s.level ∧ s.ended.seats = s.seats ∧ s.ended.clock = s.clock ∧ s.ended.cal = s.cal ∧
    s.ended.floor = s.floor ∧ s.ended.mic = s.mic ∧ s.ended.mix = s.mix ∧ s.ended.mgmt = s.mgmt ∧
    s.ended.cfg = s.cfg ∧ s.ended.store = s.store ∧ s.ended.out = s.out ∧ s.ended.early = s.early ∧
    s.ended.pending = s.pending := by
  simp [State.ended]

@[simp] theorem State.ended_disp : s.ended.disp.templates = s.disp.templates ∧ s.ended.disp.messages = s.disp.messages ∧
    s.ended.disp.delivery = s.disp.delivery :=
  ⟨s.ended_keeps .templates (by decide), s.ended_keeps .messages (by decide), s.ended_keeps .delivery (by decide)⟩

@[simp] theorem State.ended_wing (w : Wing) : s.ended.wing w = s.wing w := by cases w <;> simp [State.wing]

@[simp] theorem State.ended_micOf (i : Seat) : s.ended.micOf i = s.micOf i := State.micOf_congr (by simp) i

/-- The end of a command sends room screens behind what stands in the queue. -/
theorem State.ended_queue : s.link.queue <+: s.ended.link.queue := by
  have h : s.ended.link.queue = s.refreshScreens.link.queue := by
    rcases s.refreshScreens.startSending_cases with ⟨_, e⟩ | ⟨_, e⟩ <;> simp [State.ended, e]
  exact h ▸ s.refreshScreens_queue

/-- What a command touches is what its effect touches, with what the end of a command does. -/
theorem State.keeps_ended {s u : State} {l : List Piece} (h : s.keeps u l) (hl : ∀ p ∈ screenPieces, p ∈ l) :
    s.keeps u.ended l := State.keeps_trans h (State.keeps_mono u.ended_keeps hl)

end Ended

/-! ## Wings -/

section Wings
variable (s : State)

theorem State.setWing_wing_ne {v w : Wing} (h : v ≠ w) (f : WingPort → WingPort) : (s.setWing w f).wing v = s.wing v := by
  cases v <;> cases w <;> first | exact absurd rfl h | rfl

theorem State.startPass_wing (w : Wing) : (s.startPass w).wing w =
    { s.wing w with state := .enumerating, passCycle := 0, passCount := none, reports := Vector.replicate 32 none } :=
  State.setWing_wing _ _ _

theorem State.startPass_wing_ne {v w : Wing} (h : v ≠ w) : (s.startPass w).wing v = s.wing v := s.setWing_wing_ne h _

theorem State.passStarts_of_wing {t : State} {w : Wing} (h : t.wing w = (s.startPass w).wing w) : t.passStarts w := by
  rw [State.passStarts, h, State.startPass_wing]
  exact ⟨rfl, rfl, rfl⟩

end Wings

/-! ## Wing-end markers -/

theorem number_singleton (b : Byte) : number [b] = b.toNat := by simp [number]

/-- The byte of a number is read back as the number, where it is one byte wide. -/
theorem number_be8 {n : Nat} (h : n < 256) : number (be8 n) = n := by
  rw [be8, number_singleton, BitVec.toNat_ofNat]
  omega

@[simp] theorem be8_toNat (b : Byte) : be8 b.toNat = [b] := by simp [be8]

theorem crc16Bytes_length (bs : List Byte) : (crc16Bytes bs).length = 2 := rfl

/-- A marker of a count below 256 has its length and its check; it is good where the count is at most 63. -/
theorem readMarker_markerBytes {n : Nat} (h : n < 256) :
    readMarker (markerBytes n) = if n ≤ 63 then some n else none := by
  have hf : field (markerBytes n) 0 1 = n := number_be8 h
  simp only [readMarker, hf]
  simp [markerBytes, be8, crc16Bytes, be16]

/-- The bytes of a good marker are those of its count. -/
theorem readMarker_some {raw : List Byte} {n : Nat} (h : readMarker raw = some n) : raw = markerBytes n ∧ n ≤ 63 := by
  simp only [readMarker, Option.ite_none_right_eq_some, Option.some.injEq] at h
  obtain ⟨⟨hl, hc, hn⟩, rfl⟩ := h
  match raw, hl with
  | [a, b, c], _ =>
    have hf : field [a, b, c] 0 1 = a.toNat := number_singleton a
    refine ⟨?_, hn⟩
    rw [hf, markerBytes, be8_toNat]
    exact congrArg (a :: ·) hc

/-- A good marker does something to its own port, or nothing. -/
theorem State.marker_setWing (s : State) (w : Wing) (count : Nat) : ∃ f, s.marker w count = s.setWing w f := by
  have same : ∃ f, s = s.setWing w f := ⟨id, by cases w <;> rfl⟩
  unfold State.marker
  simp only
  repeat' split
  all_goals first | exact same | exact ⟨_, rfl⟩

/-- What a good marker does to its port (01 R3, R7, R8). -/
theorem State.marker_wing (s : State) (w : Wing) (count : Nat) :
    ((s.wing w).inUse = true → count ≠ (s.wing w).recorded → s.marker w count = s.startPass w) ∧
    ((s.wing w).inUse = true → count = (s.wing w).recorded → s.marker w count = s) ∧
    ((s.wing w).state = .down → (s.wing w).carrier = true → count ≠ 0 → s.marker w count = s.startPass w) ∧
    ((s.wing w).state = .down → (s.wing w).carrier = false ∨ count = 0 → s.marker w count = s) ∧
    ((s.wing w).state = .enumerating → (s.wing w).passCycle = 1 →
      s.marker w count = s.setWing w fun q => { q with passCount := some count }) ∧
    ((s.wing w).state = .enumerating → 2 ≤ (s.wing w).passCycle →
      s.marker w count = if (s.wing w).passCount = some count then s else s.startPass w) := by
  unfold State.marker
  refine ⟨fun hu hc => ?_, fun hu hc => ?_, fun hd hc hn => ?_, fun hd hc => ?_, fun he h1 => ?_, fun he h2 => ?_⟩
  · rcases (by simpa [WingPort.inUse] using hu : _ ∨ _) with h | h <;> simp [h, hc]
  · rcases (by simpa [WingPort.inUse] using hu : _ ∨ _) with h | h <;> simp [h, hc]
  · simp [hd, hc, hn]
  · rcases hc with hc | hc <;> simp [hd, hc]
  · simp [he, h1]
  · simp [he, show (s.wing w).passCycle ≠ 0 by omega, show (s.wing w).passCycle ≠ 1 by omega]

theorem exec_wingEndMarker (w : Wing) (raw : List Byte) (s : State) :
    exec (.wingEndMarker w raw) s = whenPowered s fun s' => s'.wingEndMarker w raw := rfl

/-- Settles O14: a marker is read back from its bytes, and a good one does to its port what its state and cycle say. -/
theorem wingEndMarkersWatchTheChain : Obligations.WingEndMarkersWatchTheChain := by
  unfold Obligations.WingEndMarkersWatchTheChain
  refine ⟨fun n => ⟨fun h => ?_, fun h h' => ?_⟩, fun raw h => ?_, fun raw n h => readMarker_some h, fun s w raw hp => ?_⟩
  · rw [readMarker_markerBytes (by omega), if_pos h]
  · rw [readMarker_markerBytes (by omega), if_neg (by omega)]
  · rw [readMarker, if_neg]
    rintro ⟨hl, hc, -⟩
    exact h.elim (· hl) (· hc)
  · refine ⟨(s.wingEndMarker w raw).ended, by rw [exec_wingEndMarker, whenPowered_next _ hp], ?_⟩
    simp only [State.ended_wing]
    cases hm : readMarker raw with
    | none =>
      have same : s.wingEndMarker w raw = s := by simp [State.wingEndMarker, hm]
      rw [same]
      exact ⟨fun _ _ => rfl, State.keeps_ended (s.keeps_refl _) (by decide), fun _ => rfl, by simp⟩
    | some count =>
      have eq : s.wingEndMarker w raw = s.marker w count := by simp [State.wingEndMarker, hm]
      obtain ⟨f, hf⟩ := s.marker_setWing w count
      obtain ⟨m1, m2, m3, m4, m5, m6⟩ := s.marker_wing w count
      have starts : s.marker w count = s.startPass w → (s.marker w count).ended.passStarts w :=
        fun h => s.passStarts_of_wing (by rw [State.ended_wing, h])
      rw [eq]
      refine ⟨fun v hv => ?_, ?_, by simp, ?_⟩
      · rw [hf, State.setWing_wing_ne _ hv]
      · rw [hf]
        exact State.keeps_ended (State.keeps_mono (s.setWing_keeps w f) (by decide)) (by decide)
      · rintro c hc
        obtain rfl : count = c := by simpa using hc
        refine ⟨fun a b => starts (m1 a b), fun a b => by rw [m2 a b], fun a b c => starts (m3 a b c),
          fun a b => by rw [m4 a b], fun a b => by rw [m5 a b, State.setWing_wing], fun a b c => ?_, fun a b c => ?_⟩
        · rw [m6 a b, if_pos c]
        · exact starts (by rw [m6 a b, if_neg c])

/-! ## Presses -/

section Press
variable (s : State)

/-- Two states in which a position's records, the seat table and the calendar agree in what class, key and permission are
made of. -/
theorem State.permitted_congr {s t : State} (hs : t.seats = s.seats) (hc : t.cal = s.cal)
    (hp : ∀ p : Pos, t.pos[p].statusValid = s.pos[p].statusValid ∧ t.pos[p].card = s.pos[p].card) (i : Seat) :
    t.permitted i = s.permitted i := by
  have hclass := State.classAt_same (State.sameClasses_of hs (by rw [hc]))
  have hphys : t.phys i = s.phys i := State.phys_congr (by rw [hs]) i
  simp only [State.permitted, State.permittedAt, State.keyAt, State.activeBooking, hclass, hphys, hs, hc,
    (hp _).1, (hp _).2]

/-- The press of a position's slot goes, and no check of a press sees the difference. -/
theorem State.pressRefusal_congr {s t : State} (hs : t.seats = s.seats) (hc : t.cal = s.cal) (hf : t.floor = s.floor)
    (hst : t.store = s.store) (hp : ∀ p : Pos, t.pos[p].presence = s.pos[p].presence ∧
      t.pos[p].statusValid = s.pos[p].statusValid ∧ t.pos[p].card = s.pos[p].card) (i : Seat) :
    t.pressRefusal i = s.pressRefusal i := by
  have hperm := State.permitted_congr hs hc (fun p => (hp p).2) i
  have hclass := State.classOf_same (State.sameClasses_of hs (by rw [hc])) i
  have hphys : t.phys i = s.phys i := State.phys_congr (by rw [hs]) i
  have hpres : t.pos[t.phys i].presence = s.pos[s.phys i].presence := by rw [(hp _).1]; simp only [hphys]
  have hvalid : t.pos[t.phys i].statusValid = s.pos[s.phys i].statusValid := by rw [(hp _).2.1]; simp only [hphys]
  have hans : t.answer i = s.answer i := by rw [State.answer, State.answer, hclass, hperm, hpres, hvalid]
  have hholds : t.holds i = s.holds i := by rw [State.holds, State.holds, hf]
  rw [State.pressRefusal, State.pressRefusal, hst, hc, hholds, hans]

/-- A press that the slot carries, with no status word left to take, is taken from the slot and made. -/
theorem State.slotEvent_heard {seat : Seat} {k : Press} (h : s.heard seat k) :
    s.slotEvent (s.phys seat) =
      let u := s.setPos (s.phys seat) fun r => { r with event := none }
      if k = .button then u.press seat else u.priorityPress seat := by
  obtain ⟨-, hlive, -, hevent, hanswer⟩ := h
  have hl : (s.setPos (s.phys seat) fun r => { r with event := none }).logical (s.phys seat) = seat := s.logical_phys seat
  have ha : s.slotAnswer (s.phys seat) = s := by simp only [State.slotAnswer, hanswer]
  cases k <;> simp only [State.slotEvent, ha, hevent, hlive, hl, if_true, reduceCtorEq, if_false]

/-- What the order of 04 R74 says of a press at a PRESENT position is what the checks find. -/
theorem State.pressRefusal_eq (seat : Seat) (hpres : s.pos[s.phys seat].presence = .present) : s.pressRefusal seat =
    if s.store.halted = true then some .halted
    else if s.cal.session ≠ .inSession ∧ s.cal.session ≠ .grace then some .noSession
    else if s.cal.session = .grace ∧ s.holds seat = false then some .sessionEnding
    else if s.pos[s.phys seat].statusValid = false then some .notReady
    else if s.classOf seat = .observer then some .listenOnly
    else if s.permitted seat = false then some .notPermitted
    else none := by
  have hruns : (!s.cal.session.runs) = true ↔ s.cal.session ≠ .inSession ∧ s.cal.session ≠ .grace := by
    cases s.cal.session <;> simp [Session.runs]
  have hans : (s.answer seat).refusal = if s.pos[s.phys seat].statusValid = false then some .notReady
      else if s.classOf seat = .observer then some .listenOnly
      else if s.permitted seat = false then some .notPermitted else none := by
    unfold State.answer
    simp only [hpres, reduceCtorEq, false_or]
    split
    · rfl
    · split
      · rfl
      · split <;> rfl
  unfold State.pressRefusal
  simp only [hruns, hans, Bool.not_eq_true']

theorem State.refuse_notified (seat : Seat) (r : Refuse) (k : PressKind) :
    s.notified (s.refuse seat r k) 0x02 (be8 seat.val ++ be8 r.status.code ++ be8 k.code) :=
  (s.setMic seat fun m => { m with flash := 2000 }).notice_notified _ _

theorem State.refuse_cal (seat : Seat) (r : Refuse) (k : PressKind) : (s.refuse seat r k).cal =
    { s.cal with tally := s.cal.tally.set r.index (min 65535 (s.cal.tally[r.index] + 1)) } := rfl

end Press

/-- A press of the request button that is heard at a part with power. -/
theorem exec_button_heard {s : State} {seat : Seat} (h : s.heard seat .button) : exec (.button (s.phys seat)) s =
    .next ((s.setPos (s.phys seat) fun r => { r with event := none }).press seat).ended := by
  have hx : exec (.button (s.phys seat)) s = whenPowered s fun s' =>
    if s'.pos[s.phys seat].event = some .button then s'.slotEvent (s.phys seat) else s' := rfl
  rw [hx, whenPowered_next _ h.1, if_pos h.2.2.2.1, s.slotEvent_heard h]
  rfl

theorem State.live_present {s : State} {p : Pos} (h : s.live p = true) : s.pos[p].presence = .present := by
  simp only [State.live, State.present, Bool.and_eq_true, decide_eq_true_eq] at h
  exact h.1

/-- Settles O17: the checks of 04 R74 are what a press is refused by, and the refusal is all that a refused press does. -/
theorem aPressIsRefusedByTheFirstFailingCheck : Obligations.APressIsRefusedByTheFirstFailingCheck := by
  unfold Obligations.APressIsRefusedByTheFirstFailingCheck
  intro s seat r hh hr
  set u := s.setPos (s.phys seat) fun x => { x with event := none } with hu
  have hcheck : u.pressRefusal seat = some r := by
    have same : ∀ p : Pos, u.pos[p].presence = s.pos[p].presence ∧ u.pos[p].statusValid = s.pos[p].statusValid ∧
        u.pos[p].card = s.pos[p].card := by
      intro p
      rw [hu, State.setPos_pos, modify_get]
      split <;> exact ⟨rfl, rfl, rfl⟩
    rw [State.pressRefusal_congr (s := s) (by simp [u]) (by simp [u]) (by simp [u]) (by simp [u]) same,
      s.pressRefusal_eq seat (State.live_present hh.2.1), hr]
  have hpress : u.press seat = u.refuse seat r .button := by simp only [State.press, hcheck]
  have hkeeps : s.keeps (u.refuse seat r .button) ([.pos, .mic, .cal, .linkCounters] ++ screenPieces) :=
    State.keeps_trans (State.keeps_mono (s.setPos_keeps _ _) (by decide))
      (State.keeps_mono (u.refuse_keeps _ _ _) (by decide))
  refine ⟨_, exec_button_heard hh, ?_⟩
  rw [← hu, hpress]
  refine ⟨State.keeps_ended hkeeps (by decide), ?_, ?_, fun i hi => ?_, ?_, ?_⟩
  · simp only [State.pressTaken, State.ended_frame, State.refuse_frame]
    rfl
  · rw [State.ended_micOf, State.refuse_micOf, if_pos rfl]
    rfl
  · rw [State.ended_micOf, State.refuse_micOf, if_neg hi]
    rfl
  · rw [(State.ended_frame _).2.2.2.2.2.2.2.1, State.refuse_cal]
    rfl
  · exact State.notified_mono (u.refuse_notified seat r .button) (State.ended_queue _)

end Sys2Proof.Machine

namespace Sys2Proof.Machine

/-! ## Numbers and their bytes -/

theorem number_pair (a b : Byte) : number [a, b] = a.toNat * 256 + b.toNat := by simp [number]

/-- A number of two bytes is read back. -/
theorem number_be16 {n : Nat} (h : n < 65536) : number (be16 n) = n := by
  rw [be16, number_pair, BitVec.toNat_ofNat, BitVec.toNat_ofNat]
  omega

/-- A number of four bytes is read back. -/
theorem number_be32 {n : Nat} (h : n < 4294967296) : number (be32 n) = n := by
  have hb : be32 n = [BitVec.ofNat 8 (n / 65536 / 256), BitVec.ofNat 8 (n / 65536), BitVec.ofNat 8 (n / 256),
      BitVec.ofNat 8 n] := rfl
  rw [hb]
  simp only [number, List.foldl_cons, List.foldl_nil, BitVec.toNat_ofNat]
  omega

theorem ofNat_number_be16 (x : BitVec 16) : BitVec.ofNat 16 (number (be16 x.toNat)) = x := by
  rw [number_be16 x.isLt, BitVec.ofNat_toNat, BitVec.setWidth_eq]

/-- A field behind `a` is a field of what follows `a`. -/
theorem field_append (a b : List Byte) (k n : Nat) : field (a ++ b) (a.length + k) n = field b k n := by
  rw [field, field, List.drop_length_add_append]

/-! ## Operations -/

/-- The arguments of an operation that a request can carry fit its length byte. -/
theorem Op.args_length {o : Op} (h : o.wellFormed = true) : o.args.length < 256 := by
  cases o with
  | write obj index fld vals =>
    simp only [Op.wellFormed, Bool.and_eq_true, decide_eq_true_eq] at h
    simp [Op.args, be16]
    omega
  | action code args =>
    simp only [Op.wellFormed, Bool.and_eq_true, decide_eq_true_eq] at h
    simp [Op.args]
    omega
  | read | flags | readClear | unlock => simp [Op.args, be16]

/-- The code and the arguments of an operation that a request can carry are read back as that operation. -/
theorem opOfArgs_args {o : Op} (h : o.wellFormed = true) : opOfArgs o.opCode o.args = some o := by
  cases o with
  | read obj first count =>
    have e1 : field (Op.read obj first count).args 1 2 = number (be16 first.toNat) := rfl
    have e2 : field (Op.read obj first count).args 3 2 = number (be16 count.toNat) := rfl
    have e0 : byteAt (Op.read obj first count).args 0 = obj := rfl
    have hlen : (Op.read obj first count).args.length = 5 := rfl
    rw [Op.opCode, opOfArgs, if_pos hlen, e0, e1, e2, ofNat_number_be16, ofNat_number_be16]
  | write obj index fld vals =>
    simp only [Op.wellFormed, Bool.and_eq_true, decide_eq_true_eq, Bool.not_eq_true'] at h
    obtain ⟨⟨hlo, -⟩, htext⟩ := h
    have e0 : byteAt (Op.write obj index fld vals).args 0 = obj := rfl
    have e1 : field (Op.write obj index fld vals).args 1 2 = number (be16 index.toNat) := rfl
    have e3 : byteAt (Op.write obj index fld vals).args 3 = fld := rfl
    have e4 : (Op.write obj index fld vals).args.drop 4 = vals := rfl
    have hlen : 5 ≤ (Op.write obj index fld vals).args.length := by simp [Op.args, be16]; omega
    simp [Op.opCode, opOfArgs, hlen, e0, e1, e3, e4, ofNat_number_be16, htext]
  | flags kind obj index fld mask =>
    have e1 : field (Op.flags kind obj index fld mask).args 1 2 = number (be16 index.toNat) := rfl
    have e4 : field (Op.flags kind obj index fld mask).args 4 2 = number (be16 mask.toNat) := rfl
    have hflag : opOfArgs.flagOp (Op.flags kind obj index fld mask).args kind = some (.flags kind obj index fld mask) := by
      have hlen : (Op.flags kind obj index fld mask).args.length = 6 := rfl
      rw [opOfArgs.flagOp, if_pos hlen, e1, e4, ofNat_number_be16, ofNat_number_be16]
      rfl
    cases kind <;> exact hflag
  | readClear obj part => rfl
  | action code args =>
    simp only [Op.wellFormed, Bool.and_eq_true] at h
    simp [Op.opCode, Op.args, opOfArgs, h.2]
  | unlock v => rfl

theorem Op.opCode_toNat (o : Op) : (BitVec.ofNat 8 o.opCode).toNat = o.opCode := by
  cases o with
  | flags kind => cases kind <;> rfl
  | _ => rfl

/-- Operations that a request can carry are read back from their bytes. -/
theorem parseOps_bytes (ops : List Op) (h : ∀ o ∈ ops, o.wellFormed = true) :
    parseOps ops.length (ops.flatMap Op.bytes) = some ops := by
  induction ops with
  | nil => rfl
  | cons o ops ih =>
    have ho := h o (by simp)
    have hlen : (BitVec.ofNat 8 o.args.length).toNat = o.args.length := by
      rw [BitVec.toNat_ofNat]; exact Nat.mod_eq_of_lt (Op.args_length ho)
    have hb : (o :: ops).flatMap Op.bytes =
        BitVec.ofNat 8 o.opCode :: BitVec.ofNat 8 o.args.length :: (o.args ++ ops.flatMap Op.bytes) := rfl
    rw [List.length_cons, hb, parseOps, hlen, if_neg (by simp), List.take_left, List.drop_left, o.opCode_toNat,
      opOfArgs_args ho, ih fun x hx => h x (by simp [hx])]

/-- A payload of 1 to 16 operations that a request can carry is read back. -/
theorem parseRequest_requestPayload (tag : BitVec 16) (key : Key) (silent : Bool) (ops : List Op) (hne : ops ≠ [])
    (hlen : ops.length ≤ 16) (h : ∀ o ∈ ops, o.wellFormed = true) :
    parseRequest (requestPayload tag key silent ops) =
      some { tag := tag, key := key, silent := silent, total := ops.length, reads := (ops.filter Op.isRead).length,
             ops := ops, statuses := [], returned := [], staged := false } := by
  have hpos : 0 < ops.length := List.length_pos_iff.2 hne
  have htag : field (requestPayload tag key silent ops) 0 2 = number (be16 tag.toNat) := rfl
  have hkey : field (requestPayload tag key silent ops) 2 1 = key.val := number_be8 (show key.val < 256 by omega)
  have hmode : field (requestPayload tag key silent ops) 3 1 = if silent then 1 else 0 := by cases silent <;> rfl
  have hcount : field (requestPayload tag key silent ops) 4 1 = ops.length := number_be8 (by omega)
  have hops : (requestPayload tag key silent ops).drop 5 = ops.flatMap Op.bytes := rfl
  have hfit : ¬ (requestPayload tag key silent ops).length < 5 := by
    simp [requestPayload, be16, be8, boolByte]
  have hkeyOf : keyOf key.val = some key := by simp [keyOf]
  have hrange : ¬ (1 < (if silent then 1 else 0) ∨ ops.length = 0 ∨ 16 < ops.length) := by
    rintro (hm | h0 | h16)
    · cases silent <;> simp at hm
    · omega
    · omega
  rw [parseRequest, if_neg hfit, hkey, hkeyOf]
  simp only [hmode, hcount, hops, htag, ofNat_number_be16, parseOps_bytes ops h, if_neg hrange]
  cases silent <;> rfl

/-! ## Upstream slots -/

/-- Sample `i` of a run of samples stands in its two bytes. -/
theorem samples_at (l : List Sample) (rest : List Byte) (i : Nat) (hi : i < l.length) :
    ((l.flatMap sampleBytes ++ rest).drop (2 * i)).take 2 = sampleBytes l[i] := by
  induction l generalizing i with
  | nil => simp at hi
  | cons x l ih =>
    cases i with
    | zero => rfl
    | succ i =>
      have hb : (x :: l).flatMap sampleBytes ++ rest = sampleBytes x ++ (l.flatMap sampleBytes ++ rest) := by simp
      have h2 : 2 * (i + 1) = (sampleBytes x).length + 2 * i := by simp [sampleBytes, be16]; omega
      rw [hb, h2, List.drop_length_add_append, ih i (by simpa using hi)]
      rfl

theorem blockBytes_length (b : Block) : (blockBytes b).length = 32 := by
  have h : ∀ l : List Sample, (l.flatMap sampleBytes).length = 2 * l.length := by
    intro l
    induction l with
    | nil => rfl
    | cons x l ih => simp [sampleBytes, be16, ih] at *; omega
  rw [blockBytes, h, Vector.length_toList]

/-- A block is read back from its bytes. -/
theorem blockAt_blockBytes (b : Block) (rest : List Byte) : blockAt (blockBytes b ++ rest) 0 = b := by
  ext i hi
  have hs := samples_at b.toList rest i (by simpa using hi)
  rw [blockAt, Vector.getElem_ofFn, Nat.zero_add, field, blockBytes, hs, sampleBytes, ofNat_number_be16]
  simp

/-- A slot as its unit sends it is good, and is read back with every field. -/
theorem readUpSlot_bytes (u : UpSlot) (he : u.event < 256) (hs : u.status < 256) (hk : u.key < 256) :
    readUpSlot u.bytes = some u := by
  set crc := crc16Bytes u.body with hcrc
  set tail := be8 u.event ++ be8 u.status ++ boolByte u.present ++ be8 u.key ++ be32 u.serial.toNat ++ crc with htail
  have hbytes : u.bytes = blockBytes u.block ++ tail := by simp [UpSlot.bytes, UpSlot.body, htail, hcrc]
  have hbody : u.body.length = 40 := by
    simp [UpSlot.body, blockBytes_length, be8, boolByte, be32, be16]
  have at_ : ∀ k n, field u.bytes (32 + k) n = field tail k n := by
    intro k n
    rw [hbytes, ← blockBytes_length u.block, field_append]
  have hevent : field u.bytes 32 1 = u.event := (at_ 0 1).trans (number_be8 he)
  have hstatus : field u.bytes 33 1 = u.status := (at_ 1 1).trans (number_be8 hs)
  have hpresent : (field u.bytes 34 1 != 0) = u.present := by
    rw [at_ 2 1]
    cases hp : u.present <;> simp [htail, hp, field, boolByte, number, be8]
  have hkey : field u.bytes 35 1 = u.key := (at_ 3 1).trans (number_be8 hk)
  have hserial : field u.bytes 36 4 = u.serial.toNat := (at_ 4 4).trans (number_be32 u.serial.isLt)
  have htake : u.bytes.take 40 = u.body := List.take_left' hbody
  have hdrop : u.bytes.drop 40 = crc := List.drop_left' hbody
  have hlen : u.bytes.length = 42 := by simp [UpSlot.bytes, hbody, crc16Bytes_length]
  rw [readUpSlot, if_pos ⟨hlen, by rw [htake, hdrop]⟩, hevent, hstatus, hpresent, hkey, hserial, hbytes,
    blockAt_blockBytes, BitVec.ofNat_toNat, BitVec.setWidth_eq]

/-- Settles O8: by induction on the operations of the payload, and on the samples of the slot. -/
theorem payloadsAndSlotsAreReadBack : Obligations.PayloadsAndSlotsAreReadBack := by
  unfold Obligations.PayloadsAndSlotsAreReadBack
  exact ⟨parseRequest_requestPayload, readUpSlot_bytes⟩

end Sys2Proof.Machine

namespace Sys2Proof.Machine

/-! ## What the calendar leaves of the floor -/

/-- The calendar may have moved on between the two states: the floor's two collections, the microphones and the last report
are as they were; marks of a seat and messages are cleared at most. -/
structure State.Rests (s t : State) : Prop where
  openList : t.floor.openList = s.floor.openList
  queue : t.floor.queue = s.floor.queue
  seen : t.floor.seen = s.floor.seen
  recs : t.mic.recs = s.mic.recs
  report : t.cal.lastReport = s.cal.lastReport
  blocked : ∀ i : Seat, s.floor.blocked[i] = false → t.floor.blocked[i] = false
  messages : ∀ i : Seat, s.disp.messages[i] = none → t.disp.messages[i] = none

theorem State.Rests.refl (s : State) : s.Rests s := ⟨rfl, rfl, rfl, rfl, rfl, fun _ h => h, fun _ h => h⟩

theorem State.Rests.trans {s t u : State} (h : s.Rests t) (k : t.Rests u) : s.Rests u :=
  ⟨k.openList.trans h.openList, k.queue.trans h.queue, k.seen.trans h.seen, k.recs.trans h.recs, k.report.trans h.report,
    fun i x => k.blocked i (h.blocked i x), fun i x => k.messages i (h.messages i x)⟩

/-- What touches neither the floor, nor the microphones, nor the calendar, nor the messages leaves all of them. -/
theorem State.Rests.of_keeps {s t : State} {l : List Piece} (h : s.keeps t l) (hf : .floor ∉ l) (hm : .mic ∉ l)
    (hc : .cal ∉ l) (hd : .messages ∉ l) : s.Rests t := by
  have floor : t.floor = s.floor := h .floor hf
  have mic : t.mic = s.mic := h .mic hm
  have cal : t.cal = s.cal := h .cal hc
  have messages : t.disp.messages = s.disp.messages := h .messages hd
  exact ⟨by rw [floor], by rw [floor], by rw [floor], by rw [mic], by rw [cal], fun i x => by rw [floor]; exact x,
    fun i x => by rw [messages]; exact x⟩

section Calendar
variable (s : State)

theorem State.clearMessages_messages (i : Seat) : s.clearMessages.disp.messages[i] = none := by
  simp [State.clearMessages]

theorem State.notice_rests (k : Nat) (b : List Byte) : s.Rests (s.notice k b) :=
  .of_keeps (s.notice_keeps k b) (by decide) (by decide) (by decide) (by decide)

theorem State.refreshScreens_rests : s.Rests s.refreshScreens :=
  .of_keeps s.refreshScreens_keeps (by decide) (by decide) (by decide) (by decide)

theorem State.startSession_rests (b : Booking) : s.Rests (s.startSession b) := by
  unfold State.startSession
  refine State.Rests.trans ?_ (State.notice_rests _ _ _)
  refine ⟨rfl, rfl, rfl, rfl, rfl, fun i _ => ?_, fun i _ => State.clearMessages_messages _ i⟩
  simp [State.clearMessages]

theorem State.startSession_session (b : Booking) : (s.startSession b).cal.session = .inSession := rfl

theorem State.removeMissed_rests : s.Rests s.removeMissed := by
  unfold State.removeMissed
  simp only
  split
  · exact .refl s
  · refine State.Rests.trans ?_ (State.notice_rests _ _ _)
    exact ⟨rfl, rfl, rfl, rfl, rfl, fun _ h => h, fun _ h => h⟩

theorem State.removeMissed_session : s.removeMissed.cal.session = s.cal.session := by
  unfold State.removeMissed
  simp only
  split <;> rfl

theorem State.testNext_rests : s.Rests s.testNext := by
  have same : ∀ c : Session, s.Rests { s with cal := { s.cal with session := c } } :=
    fun c => ⟨rfl, rfl, rfl, rfl, rfl, fun _ h => h, fun _ h => h⟩
  unfold State.testNext
  split
  · exact same .vacant
  · split
    · exact s.startSession_rests _
    · split
      · exact same .armed
      · exact same .vacant

/-- Outside GRACE and CLOSING. -/
def Session.settled (x : Session) : Prop := x ≠ .grace ∧ x ≠ .closing

theorem State.testNext_settled : s.testNext.cal.session.settled := by
  unfold State.testNext Session.settled
  split
  · simp
  · split
    · simp [State.startSession_session]
    · split <;> simp

theorem State.evaluateIdle_rests : s.Rests s.evaluateIdle := by
  unfold State.evaluateIdle
  split
  · exact .refl s
  · exact s.removeMissed_rests.trans (State.testNext_rests _)

theorem State.evaluateIdle_settled (h : s.cal.session.settled) : s.evaluateIdle.cal.session.settled := by
  unfold State.evaluateIdle
  split
  · exact h
  · exact State.testNext_settled _

/-! ## CLOSING begins and completes -/

theorem State.completeClosing_rests : s.Rests s.completeClosing := by
  unfold State.completeClosing
  refine State.Rests.trans ?_ (State.evaluateIdle_rests _)
  refine State.Rests.trans ?_ (State.refreshScreens_rests _)
  exact ⟨rfl, rfl, rfl, rfl, rfl, fun _ h => h, fun i _ => State.clearMessages_messages _ i⟩

theorem State.completeClosing_settled : s.completeClosing.cal.session.settled := by
  refine State.evaluateIdle_settled _ ?_
  rw [(State.refreshScreens_frame _).2.2.2.2.2.2.2.1]
  exact ⟨by simp, by simp⟩

/-- No message is left when CLOSING completes. -/
theorem State.completeClosing_messages (i : Seat) : s.completeClosing.disp.messages[i] = none := by
  refine (State.evaluateIdle_rests _).messages i ((State.refreshScreens_rests _).messages i ?_)
  exact State.clearMessages_messages _ i

theorem State.allClosed_iff : s.allClosed = true ↔ ∀ i, (s.micOf i).state = .closed := by
  simp [State.allClosed, State.micOf]

theorem State.reportClosed_rests : s.Rests s.reportClosed := by
  unfold State.reportClosed
  split
  · exact s.completeClosing_rests
  · exact .refl s

/-- The report that every microphone is CLOSED changes nothing, or completes CLOSING. -/
theorem State.reportClosed_cases : s.reportClosed = s ∨
    (s.cal.session = .closing ∧ (∀ i, (s.micOf i).state = .closed) ∧ s.reportClosed = s.completeClosing) := by
  unfold State.reportClosed
  split
  · next h => exact .inr ⟨h.1, s.allClosed_iff.1 h.2, rfl⟩
  · exact .inl rfl

theorem State.reportClosed_of_open {i : Seat} (h : (s.micOf i).state ≠ .closed) : s.reportClosed = s := by
  rcases s.reportClosed_cases with e | ⟨-, hall, -⟩
  · exact e
  · exact absurd (hall i) h

/-- CLOSING has its cause, and no message is left. -/
def State.closingNamed (s : State) (cause : EndCause) : State :=
  ({ s with cal := { s.cal with
    session := .closing, endCause := some cause, actualEnd := s.clock.now, graceEnd := none } }).clearMessages

/-- The floor is emptied and the queue cleared. -/
def State.closingEmptied (s : State) (cause : EndCause) : State :=
  ((s.closingNamed cause).removeAll (s.closingNamed cause).floor.openList .sessionEnd).clearQueue .sessionEnd

/-- CLOSING has begun: the report is stored and sent, and the microphones have not reported. -/
def State.closingBegun (s : State) (cause : EndCause) : State :=
  let u := s.closingEmptied cause
  ({ u with cal := { u.cal with lastReport := some (u.buildReport cause) } }).notice 0x05 (u.buildReport cause).bytes

theorem State.startClosing_eq (cause : EndCause) : s.startClosing cause = (s.closingBegun cause).reportClosed := by
  unfold State.startClosing State.closingBegun State.closingEmptied State.closingNamed
  rfl

/-- The report and its notice touch neither the floor, nor the microphones, nor the seat table. -/
theorem State.closingBegun_frame (cause : EndCause) : (s.closingBegun cause).floor = (s.closingEmptied cause).floor ∧
    (s.closingBegun cause).mic = (s.closingEmptied cause).mic ∧
    (s.closingBegun cause).seats = (s.closingEmptied cause).seats := by
  unfold State.closingBegun
  generalize s.closingEmptied cause = u
  exact ⟨rfl, rfl, rfl⟩

/-- Removals from the open list, of whatever seats: those seats leave, in any order, and nothing else of the floor moves. -/
theorem State.removeAll_floor (l : List OpenEntry) (r : Reason) (s : State) :
    (s.removeAll l r).floor.openList = s.floor.openList.filter (fun e => e.seat ∉ l.map (·.seat)) ∧
    (s.removeAll l r).floor.queue = s.floor.queue ∧ (s.removeAll l r).floor.mode = s.floor.mode ∧
    (s.removeAll l r).floor.maxOpen = s.floor.maxOpen ∧ (s.removeAll l r).floor.seen = s.floor.seen ∧
    (s.removeAll l r).seats.chair = s.seats.chair := by
  unfold State.removeAll
  induction l generalizing s with
  | nil => exact ⟨(List.filter_eq_self.2 fun _ _ => by simp).symm, rfl, rfl, rfl, rfl, rfl⟩
  | cons x l ih =>
    obtain ⟨h1, h2, h3, h4, h5, h6⟩ := ih (s.removeCore x.seat r)
    obtain ⟨q1, q2, q3, q4⟩ := s.removeCore_queue x.seat r
    rw [List.foldl_cons]
    refine ⟨?_, h2.trans q1, h3.trans q2, h4.trans q3, h5.trans q4, h6.trans (s.removeCore_chair _ _).1⟩
    rw [h1, s.removeCore_openList, List.filter_filter]
    congr 1
    funext e
    simp [not_or, Bool.and_comm]

theorem State.clearQueue_seats (r : Reason) : (s.clearQueue r).seats = s.seats := by simp

/-- What CLOSING finds when it begins: an empty floor in the old mode, and the old chair. -/
theorem State.closingBegun_floor (cause : EndCause) : (s.closingBegun cause).floor.openList = [] ∧
    (s.closingBegun cause).floor.queue = [] ∧ (s.closingBegun cause).floor.mode = s.floor.mode ∧
    (s.closingBegun cause).floor.maxOpen = s.floor.maxOpen ∧ (s.closingBegun cause).floor.seen = s.floor.seen ∧
    (s.closingBegun cause).seats.chair = s.seats.chair := by
  obtain ⟨hf, -, hs⟩ := s.closingBegun_frame cause
  obtain ⟨h1, -, h3, h4, h5, h6⟩ := State.removeAll_floor s.floor.openList .sessionEnd (s.closingNamed cause)
  rw [hf, hs, State.closingEmptied, State.clearQueue_floor, State.clearQueue_seats]
  refine ⟨h1.trans (List.filter_eq_nil_iff.2 fun e he => ?_), rfl, h3, h4, h5, h6⟩
  simpa using ⟨e, he, rfl⟩

theorem State.closingEmptied_cal (cause : EndCause) : (s.closingEmptied cause).cal =
    { s.cal with session := .closing, endCause := some cause, actualEnd := s.clock.now, graceEnd := none } :=
  (State.keeps_trans (State.removeAll_keeps _ _ _) (State.clearQueue_keeps _ _)) .cal (by decide)

/-- The calendar when CLOSING begins: the cause, the end, and the report, which is about the session that ends. -/
theorem State.closingBegun_cal (cause : EndCause) : ∃ r : Report, (s.closingBegun cause).cal = { s.cal with
      session := .closing, endCause := some cause, actualEnd := s.clock.now, graceEnd := none, lastReport := some r } ∧
    r.cause = cause ∧ r.start = s.cal.actualStart ∧ r.finish = s.clock.now ∧ r.refusals = s.cal.tally ∧
    ∀ b, s.activeBooking = some b → r.number = b.number ∧ r.title = b.title := by
  have hc := s.closingEmptied_cal cause
  refine ⟨(s.closingEmptied cause).buildReport cause, ?_, rfl, ?_, ?_, ?_, fun b hb => ?_⟩
  · rw [State.closingBegun, (State.notice_frame _ _ _).2.2.2.2.2.2.2.1, hc]
  · rw [State.buildReport, hc]
  · rw [State.buildReport, hc]
  · rw [State.buildReport, hc]
  · have hb2 : (s.closingEmptied cause).activeBooking = some b := by rw [State.activeBooking, hc]; exact hb
    simp [State.buildReport, hb2]

theorem State.closingBegun_messages (cause : EndCause) (i : Seat) : (s.closingBegun cause).disp.messages[i] = none := by
  have h : (s.closingEmptied cause).disp.messages = (s.closingNamed cause).disp.messages :=
    (State.keeps_trans (State.removeAll_keeps _ _ _) (State.clearQueue_keeps _ _)) .messages (by decide)
  refine (State.notice_rests _ _ _).messages i ?_
  rw [h]
  exact State.clearMessages_messages _ i

/-- With no holder left, CLOSING begins without moving a microphone: queued marks go. -/
theorem State.closingBegun_micOf (cause : EndCause) (h : s.floor.openList = []) (i : Seat) :
    (s.closingBegun cause).micOf i = if s.queued i = true then { s.micOf i with queued := false } else s.micOf i := by
  have he : s.closingEmptied cause = (s.closingNamed cause).clearQueue .sessionEnd := by
    rw [State.closingEmptied, show (s.closingNamed cause).floor.openList = [] from h]
    rfl
  rw [State.micOf_congr (s.closingBegun_frame cause).2.1, he, State.clearQueue_micOf]
  rfl

/-- The blocked marks stay when CLOSING begins with no holder left. -/
theorem State.closingBegun_blocked (cause : EndCause) (h : s.floor.openList = []) :
    (s.closingBegun cause).floor.blocked = s.floor.blocked := by
  rw [(s.closingBegun_frame cause).1, State.closingEmptied, show (s.closingNamed cause).floor.openList = [] from h, State.clearQueue_floor]
  rfl

end Calendar

end Sys2Proof.Machine

namespace Sys2Proof.Machine

/-! ## The session and the chair under losses -/

/-- How losses and removals move the session: not at all, from GRACE to CLOSING, or out of the two by a completion. The chair
position changes by a completion alone. -/
def State.Moves (s t : State) : Prop :=
  (t.cal = s.cal ∧ t.seats.chair = s.seats.chair) ∨
  (s.cal.session = .grace ∧ t.cal.session = .closing ∧ t.seats.chair = s.seats.chair) ∨
  ((s.cal.session = .grace ∨ s.cal.session = .closing) ∧ t.cal.session.settled)

theorem State.Moves.refl (s : State) : s.Moves s := .inl ⟨rfl, rfl⟩

theorem State.Moves.trans {s t u : State} (h : s.Moves t) (k : t.Moves u) : s.Moves u := by
  rcases h with ⟨hc, hch⟩ | ⟨hg, hcl, hch⟩ | ⟨hs, hset⟩
  · rcases k with ⟨kc, kch⟩ | ⟨kg, kcl, kch⟩ | ⟨ks, kset⟩
    · exact .inl ⟨kc.trans hc, kch.trans hch⟩
    · exact .inr (.inl ⟨hc ▸ kg, kcl, kch.trans hch⟩)
    · exact .inr (.inr ⟨hc ▸ ks, kset⟩)
  · rcases k with ⟨kc, kch⟩ | ⟨kg, -, -⟩ | ⟨-, kset⟩
    · exact .inr (.inl ⟨hg, kc ▸ hcl, kch.trans hch⟩)
    · rw [hcl] at kg; cases kg
    · exact .inr (.inr ⟨.inl hg, kset⟩)
  · rcases k with ⟨kc, -⟩ | ⟨kg, -, -⟩ | ⟨ks, -⟩
    · exact .inr (.inr ⟨hs, kc ▸ hset⟩)
    · exact absurd kg hset.1
    · exact (ks.elim hset.1 hset.2).elim

/-- Outside GRACE and CLOSING no loss moves the session or the chair. -/
theorem State.Moves.of_settled {s t : State} (h : s.Moves t) (hs : s.cal.session.settled) :
    t.cal = s.cal ∧ t.seats.chair = s.seats.chair := by
  rcases h with h | ⟨hg, -⟩ | ⟨hc, -⟩
  · exact h
  · exact absurd hg hs.1
  · exact (hc.elim hs.1 hs.2).elim

/-- No loss leads back to GRACE. -/
theorem State.Moves.not_grace {s t : State} (h : s.Moves t) (hs : s.cal.session ≠ .grace) : t.cal.session ≠ .grace := by
  rcases h with ⟨hc, -⟩ | ⟨hg, -⟩ | ⟨-, hset⟩
  · rwa [hc]
  · exact absurd hg hs
  · exact hset.1

/-- Where the session ends as it was, the chair is as it was. -/
theorem State.Moves.chair_of_session {s t : State} (h : s.Moves t) (hs : t.cal.session = s.cal.session) :
    t.seats.chair = s.seats.chair := by
  rcases h with ⟨-, h⟩ | ⟨-, -, h⟩ | ⟨ho, hset⟩
  · exact h
  · exact h
  · exact (ho.elim (hs ▸ hset).1 (hs ▸ hset).2).elim

section Moves
variable (s : State)

theorem State.removeCore_moves (seat : Seat) (r : Reason) : s.Moves (s.removeCore seat r) :=
  .inl ⟨by simp, (s.removeCore_chair seat r).1⟩

theorem State.autoAdvance_moves : s.Moves s.autoAdvance := .inl ⟨by simp, by simp⟩

theorem State.withdraw_moves (seat : Seat) (r : Reason) : s.Moves (s.withdraw seat r) := .inl ⟨by simp, by simp⟩

theorem State.micClose_moves (seat : Seat) : s.Moves (s.micClose seat) := .inl ⟨by simp, (s.micClose_chair seat).1⟩

theorem State.reportClosed_moves : s.Moves s.reportClosed := by
  rcases s.reportClosed_cases with h | ⟨hc, -, h⟩
  · rw [h]; exact .refl s
  · rw [h]; exact .inr (.inr ⟨.inr hc, s.completeClosing_settled⟩)

theorem State.startClosing_moves (cause : EndCause) (h : s.cal.session = .grace) : s.Moves (s.startClosing cause) := by
  obtain ⟨r, hc, -⟩ := s.closingBegun_cal cause
  rw [State.startClosing_eq]
  exact State.Moves.trans (.inr (.inl ⟨h, by rw [hc], (s.closingBegun_floor cause).2.2.2.2.2⟩)) (State.reportClosed_moves _)

theorem State.removeEntry_moves (seat : Seat) (r : Reason) : s.Moves (s.removeEntry seat r) := by
  unfold State.removeEntry
  split
  · simp only
    split
    · next h => exact (s.removeCore_moves seat r).trans (State.startClosing_moves _ _ h.1)
    · exact s.removeCore_moves seat r
  · exact .refl s

theorem State.removeThenAdvance_moves (seat : Seat) (r : Reason) : s.Moves (s.removeThenAdvance seat r) := by
  unfold State.removeThenAdvance
  split
  · exact (s.removeEntry_moves seat r).trans (State.autoAdvance_moves _)
  · exact .refl s

theorem State.floorLost_moves (seat : Seat) : s.Moves (s.floorLost seat) := by
  unfold State.floorLost
  simp only
  refine State.Moves.trans ?_ (.inl ⟨rfl, rfl⟩)
  split
  · exact s.removeThenAdvance_moves seat .lost
  · exact s.withdraw_moves seat .lost

theorem State.micLost_moves (seat : Seat) : s.Moves (s.micLost seat) := by
  unfold State.micLost
  split
  · exact .refl s
  · exact (s.micClose_moves seat).trans (State.reportClosed_moves _)

theorem State.lossNotice_moves (p : Pos) : s.Moves (s.lossNotice p) :=
  ((s.floorLost_moves _).trans (State.micLost_moves _ _)).trans (.inl ⟨rfl, rfl⟩)

/-! ## A check that grants, and a removal with what follows -/

/-- A check changes nothing, or it stands in IN_SESSION in QUEUE mode with auto-advance at a table that runs. -/
theorem State.autoAdvance_cases : s.autoAdvance = s ∨
    (s.store.halted = false ∧ s.cal.session = .inSession ∧ s.floor.mode = .queue ∧ s.cfg.autoAdvance = true ∧
      s.floor.queue ≠ []) := by
  unfold State.autoAdvance
  split
  · next hm =>
    cases hq : s.floor.queue with
    | nil => exact .inl rfl
    | cons e rest =>
      simp only [List.length_cons, State.advanceLoop, hq]
      split
      · next hmay =>
        simp only [State.mayAdvance, Bool.and_eq_true, decide_eq_true_eq, Bool.not_eq_true'] at hmay
        obtain ⟨⟨⟨⟨ha, hs⟩, hh⟩, -⟩, -⟩ := hmay
        exact .inr ⟨hh, hs, hm, ha, by simp⟩
      · exact .inl rfl
  · exact .inl rfl

/-- A check that grants, grants heads of the queue. -/
theorem State.autoAdvance_grants (hd : (s.floor.queue.map (·.seat)).Nodup) (hh : s.store.halted = false)
    (hs : s.cal.session = .inSession) (hm : s.floor.mode = .queue) (ha : s.cfg.autoAdvance = true) :
    s.Advances s.autoAdvance s.floor.openList s.floor.queue [] := by
  unfold State.autoAdvance
  rw [if_pos hm]
  exact State.advanceLoop_advances _ s le_rfl hd hh hs ha

/-- Of the floor a check moves the two collections alone. -/
theorem State.advanceLoop_floor (n : Nat) (s : State) :
    ∃ o q, (State.advanceLoop n s).floor = { s.floor with openList := o, queue := q } := by
  induction n generalizing s with
  | zero => exact ⟨_, _, rfl⟩
  | succ n ih =>
    unfold State.advanceLoop
    split
    · exact ⟨_, _, rfl⟩
    · next e _ _ =>
      split
      · obtain ⟨o, q, h⟩ := ih (s.grantSeat e.seat .queue)
        exact ⟨o, q, by rw [h, State.grantSeat_floor]⟩
      · exact ⟨_, _, rfl⟩

theorem State.autoAdvance_floor : ∃ o q, s.autoAdvance.floor = { s.floor with openList := o, queue := q } := by
  unfold State.autoAdvance
  split
  · exact State.advanceLoop_floor _ s
  · exact ⟨_, _, rfl⟩

/-- A removal that leaves nobody in GRACE begins CLOSING, and no check follows that could grant; another removal is followed
by its check. -/
theorem State.removeThenAdvance_cases (seat : Seat) (r : Reason) (h : s.holds seat = true) :
    (s.cal.session = .grace ∧ (s.removeCore seat r).floor.openList = [] ∧
      s.removeThenAdvance seat r = (s.removeCore seat r).startClosing .floorEmpty) ∨
    (¬ (s.cal.session = .grace ∧ (s.removeCore seat r).floor.openList = []) ∧
      s.removeThenAdvance seat r = (s.removeCore seat r).autoAdvance) := by
  have hcal : (s.removeCore seat r).cal = s.cal := by simp
  have hentry : s.removeEntry seat r =
      if s.cal.session = .grace ∧ (s.removeCore seat r).floor.openList = [] then
        (s.removeCore seat r).startClosing .floorEmpty else s.removeCore seat r := by
    simp only [State.removeEntry, h, if_true, hcal]
  rw [State.removeThenAdvance, if_pos h, hentry]
  by_cases hg : s.cal.session = .grace ∧ (s.removeCore seat r).floor.openList = []
  · rw [if_pos hg]
    refine .inl ⟨hg.1, hg.2, ?_⟩
    have hq : ((s.removeCore seat r).startClosing .floorEmpty).floor.queue = [] := by
      rw [State.startClosing_eq, (State.reportClosed_rests _).queue]
      exact (State.closingBegun_floor _ _).2.1
    rcases State.autoAdvance_cases ((s.removeCore seat r).startClosing .floorEmpty) with e | ⟨-, -, -, -, hne⟩
    · exact e
    · exact absurd hq hne
  · rw [if_neg hg]
    exact .inr ⟨hg, rfl⟩

end Moves

end Sys2Proof.Machine

namespace Sys2Proof.Machine

/-! ## A seat that has left everything -/

/-- The seat's microphone is CLOSED, it has no message, and it neither holds nor waits for the floor. -/
structure State.Clean (s : State) (i : Seat) : Prop where
  closed : (s.micOf i).state = .closed
  message : s.disp.messages[i] = none
  holds : s.holds i = false
  queued : s.queued i = false

/-- No seat stands twice on the floor, and outside IN_SESSION and GRACE nobody does. -/
def State.FloorSane (s : State) : Prop :=
  s.floor.seats.Nodup ∧ (s.cal.session.runs = false → s.floor.openList = [] ∧ s.floor.queue = [])

theorem State.FloorOk.sane {s : State} (h : s.FloorOk) : s.FloorSane := by
  obtain ⟨-, -, hd, he⟩ := h
  exact ⟨hd, fun hr => he (by simp [State.floorRuns, hr])⟩

theorem State.FloorSane.queue_nodup {s : State} (h : s.FloorSane) : (s.floor.queue.map (·.seat)).Nodup :=
  (List.nodup_append.1 h.1).2.1

/-- A seat that holds the floor does not wait for it. -/
theorem State.FloorSane.not_queued {s : State} (h : s.FloorSane) {i : Seat} (hi : s.holds i = true) : s.queued i = false := by
  obtain ⟨e, he, hei⟩ := (s.holds_iff i).1 hi
  by_contra hq
  obtain ⟨f, hf, hfi⟩ := (s.queued_iff i).1 (by simpa using hq)
  exact (List.nodup_append.1 h.1).2.2 i (List.mem_map.2 ⟨e, he, hei⟩) i (List.mem_map.2 ⟨f, hf, hfi⟩) rfl

theorem State.holds_false_iff (s : State) (i : Seat) : s.holds i = false ↔ ∀ e ∈ s.floor.openList, e.seat ≠ i := by
  simp [State.holds]

theorem State.queued_false_iff (s : State) (i : Seat) : s.queued i = false ↔ ∀ e ∈ s.floor.queue, e.seat ≠ i := by
  simp [State.queued]

theorem State.holds_congr {s t : State} (h : t.floor.openList = s.floor.openList) (i : Seat) : t.holds i = s.holds i := by
  rw [State.holds, State.holds, h]

theorem State.queued_congr {s t : State} (h : t.floor.queue = s.floor.queue) (i : Seat) : t.queued i = s.queued i := by
  rw [State.queued, State.queued, h]

/-- What a step of a loss keeps: seats stand once on the floor, a seat that has left everything stays so, the chair position
changes only where every seat has, a seat that is not on the floor does not come to it, and marks are cleared at most. -/
structure State.Tidies (s t : State) : Prop where
  sane : s.FloorSane → t.FloorSane
  clean : s.FloorSane → ∀ i, s.Clean i → t.Clean i
  chair : s.FloorSane → t.seats.chair = s.seats.chair ∨ ∀ i, t.Clean i
  off : s.FloorSane → ∀ i, s.holds i = false → s.queued i = false → t.holds i = false ∧ t.queued i = false
  blocked : ∀ i : Seat, s.floor.blocked[i] = false → t.floor.blocked[i] = false
  seen : ∀ i : Seat, s.floor.seen[i] = false → t.floor.seen[i] = false

theorem State.Tidies.refl (s : State) : s.Tidies s :=
  ⟨fun h => h, fun _ _ h => h, fun _ => .inl rfl, fun _ _ h k => ⟨h, k⟩, fun _ h => h, fun _ h => h⟩

theorem State.Tidies.trans {s t u : State} (h : s.Tidies t) (k : t.Tidies u) : s.Tidies u where
  sane x := k.sane (h.sane x)
  clean x i c := k.clean (h.sane x) i (h.clean x i c)
  chair x := by
    rcases k.chair (h.sane x) with e | e
    · rcases h.chair x with d | d
      · exact .inl (e.trans d)
      · exact .inr fun i => k.clean (h.sane x) i (d i)
    · exact .inr e
  off x i a b := k.off (h.sane x) i (h.off x i a b).1 (h.off x i a b).2
  blocked i x := k.blocked i (h.blocked i x)
  seen i x := k.seen i (h.seen i x)

section Tidies
variable (s : State)

theorem State.reportClosed_tidies : s.Tidies s.reportClosed := by
  have rests := s.reportClosed_rests
  rcases s.reportClosed_cases with e | ⟨hc, hall, e⟩
  · rw [e]; exact .refl s
  · have mic : ∀ i, s.reportClosed.micOf i = s.micOf i := fun i => by simp only [State.micOf, rests.recs]
    have empty : s.FloorSane → s.reportClosed.floor.openList = [] ∧ s.reportClosed.floor.queue = [] := fun x => by
      rw [rests.openList, rests.queue]
      exact x.2 (by rw [hc]; rfl)
    have clean : s.FloorSane → ∀ i, s.reportClosed.Clean i := fun x i =>
      ⟨by rw [mic]; exact hall i, by rw [e]; exact s.completeClosing_messages i,
        by simp [State.holds, (empty x).1], by simp [State.queued, (empty x).2]⟩
    exact ⟨fun x => ⟨by simp [Floor.seats, (empty x).1, (empty x).2], fun _ => empty x⟩, fun x i _ => clean x i,
      fun x => .inr (clean x), fun x i _ _ => ⟨(clean x i).holds, (clean x i).queued⟩, rests.blocked,
      fun i x => by rw [rests.seen]; exact x⟩

/-- CLOSING that begins with no holder left tidies. -/
theorem State.startClosing_tidies (cause : EndCause) (h : s.floor.openList = []) : s.Tidies (s.startClosing cause) := by
  rw [State.startClosing_eq]
  refine State.Tidies.trans ?_ (State.reportClosed_tidies _)
  obtain ⟨ho, hq, -, -, hseen, hch⟩ := s.closingBegun_floor cause
  have off : ∀ i, (s.closingBegun cause).holds i = false ∧ (s.closingBegun cause).queued i = false := fun i => by
    simp [State.holds, State.queued, ho, hq]
  refine ⟨fun _ => ⟨by simp [Floor.seats, ho, hq], fun _ => ⟨ho, hq⟩⟩, fun _ i c => ?_, fun _ => .inl hch,
    fun _ i _ _ => off i, fun i x => by rw [s.closingBegun_blocked cause h]; exact x,
    fun i x => by rw [hseen]; exact x⟩
  refine ⟨?_, s.closingBegun_messages cause i, (off i).1, (off i).2⟩
  rw [s.closingBegun_micOf cause h i]
  split <;> exact c.closed

theorem State.removeCore_tidies (seat : Seat) (r : Reason) (hr : r.blocks = false) (ha : r.atOnce = true) :
    s.Tidies (s.removeCore seat r) := by
  have hopen := s.removeCore_openList seat r
  obtain ⟨hqueue, -, -, hseen⟩ := s.removeCore_queue seat r
  have hmsg : (s.removeCore seat r).disp.messages = s.disp.messages := s.removeCore_keeps seat r .messages (by decide)
  have off : ∀ i, s.holds i = false → s.queued i = false →
      (s.removeCore seat r).holds i = false ∧ (s.removeCore seat r).queued i = false := fun i h k => by
    refine ⟨?_, by rw [State.queued_congr hqueue]; exact k⟩
    rw [State.holds_false_iff] at h ⊢
    rw [hopen]
    exact fun e he => h e (List.mem_of_mem_filter he)
  refine ⟨fun x => ⟨?_, fun hs => ?_⟩, fun _ i c => ⟨?_, ?_, (off i c.holds c.queued).1, (off i c.holds c.queued).2⟩,
    fun _ => .inl (s.removeCore_chair seat r).1, fun _ => off, fun i x => ?_, fun i x => by rw [hseen]; exact x⟩
  · have hsub : List.Sublist (s.removeCore seat r).floor.seats s.floor.seats := by
      rw [Floor.seats, Floor.seats, hopen, hqueue]
      exact List.Sublist.append (List.Sublist.map _ List.filter_sublist) (List.Sublist.refl _)
    exact x.1.sublist hsub
  · rw [hopen, hqueue]
    obtain ⟨ho, hq⟩ := x.2 (by simpa using hs)
    simp [ho, hq]
  · have hi : s.holds i = false := c.holds
    cases h : s.holds seat with
    | false => rw [s.removeCore_of_not _ _ h]; exact c.closed
    | true =>
      rw [s.removeCore_micOf_atOnce _ _ _ ha h, State.micClose_micOf]
      split
      · rfl
      · exact c.closed
  · rw [hmsg]; exact c.message
  · cases h : s.holds seat with
    | false => rw [s.removeCore_of_not _ _ h]; exact x
    | true => rw [s.removeCore_floor _ _ h]; simpa [hr] using x

theorem State.withdraw_openList (seat : Seat) (r : Reason) : (s.withdraw seat r).floor.openList = s.floor.openList := by
  rw [State.withdraw_floor]

theorem State.withdraw_tidies (seat : Seat) (r : Reason) : s.Tidies (s.withdraw seat r) := by
  have hf := s.withdraw_floor seat r
  have hmsg : (s.withdraw seat r).disp.messages = s.disp.messages := s.withdraw_keeps seat r .messages (by decide)
  have off : ∀ i, s.holds i = false → s.queued i = false →
      (s.withdraw seat r).holds i = false ∧ (s.withdraw seat r).queued i = false := fun i h k => by
    refine ⟨(State.holds_congr (s.withdraw_openList seat r) i).trans h, ?_⟩
    rw [State.queued_false_iff] at k ⊢
    rw [hf]
    exact fun e he => k e (List.mem_of_mem_filter he)
  refine ⟨fun x => ⟨?_, fun hs => ?_⟩, fun _ i c => ⟨?_, ?_, (off i c.holds c.queued).1, (off i c.holds c.queued).2⟩,
    fun _ => .inl (by simp), fun _ => off, fun i x => by rw [hf]; exact x,
    fun i x => by rw [hf]; exact x⟩
  · have hsub : List.Sublist (s.withdraw seat r).floor.seats s.floor.seats := by
      rw [Floor.seats, Floor.seats, hf]
      exact List.Sublist.append (List.Sublist.refl _) (List.Sublist.map _ List.filter_sublist)
    exact x.1.sublist hsub
  · obtain ⟨ho, hq⟩ := x.2 (by simpa using hs)
    rw [hf]
    simp [ho, hq]
  · rw [State.withdraw_micOf]
    split <;> exact c.closed
  · rw [hmsg]; exact c.message

theorem State.autoAdvance_tidies : s.Tidies s.autoAdvance := by
  obtain ⟨o, q, hfloor⟩ := s.autoAdvance_floor
  have hmsg : s.autoAdvance.disp.messages = s.disp.messages := s.autoAdvance_keeps .messages (by decide)
  rcases s.autoAdvance_cases with e | ⟨hh, hs, hm, ha, -⟩
  · rw [e]; exact .refl s
  · have advances : s.FloorSane → s.Advances s.autoAdvance s.floor.openList s.floor.queue [] := fun x =>
      s.autoAdvance_grants x.queue_nodup hh hs hm ha
    have off : s.FloorSane → ∀ i, s.holds i = false → s.queued i = false → s.autoAdvance.holds i = false ∧
        s.autoAdvance.queued i = false ∧ s.autoAdvance.micOf i = s.micOf i := fun x i h k => by
      obtain ⟨n, -, hopen, hqueue, -, -, hmic⟩ := advances x
      rw [State.holds_false_iff] at h ⊢
      rw [State.queued_false_iff] at k ⊢
      rw [hopen, hqueue]
      refine ⟨fun e he => ?_, fun e he => k e (List.mem_of_mem_drop he),
        hmic i (by simp) fun e he => k e (List.mem_of_mem_take he)⟩
      rcases List.mem_append.1 he with he | he
      · exact h e he
      · obtain ⟨f, hf, rfl⟩ := List.mem_map.1 he
        exact k f (List.mem_of_mem_take hf)
    refine ⟨fun x => ⟨?_, fun hr => ?_⟩, fun x i c => ?_, fun _ => .inl (by simp), fun x i h k => ?_,
      fun i x => by rw [hfloor]; exact x, fun i x => by rw [hfloor]; exact x⟩
    · obtain ⟨n, -, hopen, hqueue, -⟩ := advances x
      have hseats : s.autoAdvance.floor.seats = s.floor.seats := by
        rw [Floor.seats, Floor.seats, hopen, hqueue, List.map_append, List.map_map, List.append_assoc]
        congr 1
        rw [show ((fun e : OpenEntry => e.seat) ∘ fun e : QueueEntry => (⟨e.seat, s.clock.now, .queue⟩ : OpenEntry)) =
          fun e : QueueEntry => e.seat from rfl, ← List.map_append, List.take_append_drop]
      rw [hseats]
      exact x.1
    · rw [(State.autoAdvance_frame s).2.2.2.2.2.2.2.1, hs] at hr
      cases hr
    · obtain ⟨h1, h2, h3⟩ := off x i c.holds c.queued
      exact ⟨by rw [h3]; exact c.closed, by rw [hmsg]; exact c.message, h1, h2⟩
    · exact ⟨(off x i h k).1, (off x i h k).2.1⟩

theorem State.micClose_tidies (seat : Seat) : s.Tidies (s.micClose seat) := by
  have hf : (s.micClose seat).floor = s.floor := by simp
  have hc : (s.micClose seat).cal = s.cal := by simp
  refine ⟨fun x => ?_, fun _ i c => ⟨?_, by simpa using c.message, ?_, ?_⟩, fun _ => .inl (s.micClose_chair seat).1,
    fun _ i h k => ⟨?_, ?_⟩, fun i x => by rw [hf]; exact x,
    fun i x => by rw [hf]; exact x⟩
  · rw [State.FloorSane, hf, hc]; exact x
  · rw [State.micClose_micOf]
    split
    · rfl
    · exact c.closed
  · exact (State.holds_congr (congrArg Floor.openList hf) i).trans c.holds
  · exact (State.queued_congr (congrArg Floor.queue hf) i).trans c.queued
  · exact (State.holds_congr (congrArg Floor.openList hf) i).trans h
  · exact (State.queued_congr (congrArg Floor.queue hf) i).trans k

theorem State.removeThenAdvance_tidies (seat : Seat) (r : Reason) (hr : r.blocks = false) (ha : r.atOnce = true) :
    s.Tidies (s.removeThenAdvance seat r) := by
  cases h : s.holds seat with
  | false =>
    have : s.removeThenAdvance seat r = s := by simp [State.removeThenAdvance, h]
    rw [this]; exact .refl s
  | true =>
    rcases s.removeThenAdvance_cases seat r h with ⟨-, hempty, e⟩ | ⟨-, e⟩
    · rw [e]; exact (s.removeCore_tidies seat r hr ha).trans (State.startClosing_tidies _ _ hempty)
    · rw [e]; exact (s.removeCore_tidies seat r hr ha).trans (State.autoAdvance_tidies _)

theorem State.micLost_tidies (seat : Seat) : s.Tidies (s.micLost seat) := by
  unfold State.micLost
  split
  · exact .refl s
  · exact (s.micClose_tidies seat).trans (State.reportClosed_tidies _)

/-- What the floor controller does of a loss, before it clears the seat's marks. -/
def State.leavesLost (s : State) (seat : Seat) : State :=
  if s.holds seat then s.removeThenAdvance seat .lost else s.withdraw seat .lost

theorem State.floorLost_eq (seat : Seat) : s.floorLost seat = (s.leavesLost seat).setFloor fun f =>
    { f with blocked := f.blocked.set seat false, seen := f.seen.set seat false } := rfl

theorem State.leavesLost_tidies (seat : Seat) : s.Tidies (s.leavesLost seat) := by
  unfold State.leavesLost
  split
  · exact s.removeThenAdvance_tidies seat .lost rfl rfl
  · exact s.withdraw_tidies seat .lost

/-- The floor controller's part of a loss takes the seat off the floor. -/
theorem State.leavesLost_off (x : s.FloorSane) (seat : Seat) :
    (s.leavesLost seat).holds seat = false ∧ (s.leavesLost seat).queued seat = false := by
  unfold State.leavesLost
  split
  · next h =>
    have off : (s.removeCore seat .lost).holds seat = false ∧ (s.removeCore seat .lost).queued seat = false := by
      constructor
      · simp [State.holds, s.removeCore_openList]
      · rw [State.queued_congr (s.removeCore_queue seat .lost).1]; exact x.not_queued h
    have x' := (s.removeCore_tidies seat .lost rfl rfl).sane x
    rcases s.removeThenAdvance_cases seat .lost h with ⟨-, hempty, e⟩ | ⟨-, e⟩
    · rw [e]; exact (State.startClosing_tidies _ _ hempty).off x' seat off.1 off.2
    · rw [e]; exact (State.autoAdvance_tidies _).off x' seat off.1 off.2
  · next h =>
    refine ⟨(State.holds_congr (s.withdraw_openList seat .lost) seat).trans (by simpa using h), ?_⟩
    simp [State.queued, s.withdraw_floor]

end Tidies

end Sys2Proof.Machine

namespace Sys2Proof.Machine

/-! ## A loss that is told to every block -/

section Loss
variable (s : State) (p : Pos)

/-- The floor controller and the microphones are told; the level and the composer follow. -/
def State.lossHeard : State := (s.floorLost (s.logical p)).micLost (s.logical p)

theorem State.lossNotice_eq : s.lossNotice p = ((s.lossHeard p).zeroLevel p).composerLost p (s.logical p) := rfl

/-- The level and the composer have no part in the floor, the microphones, the calendar and the seat table. -/
theorem State.lossNotice_heard : (s.lossNotice p).floor = (s.lossHeard p).floor ∧
    (s.lossNotice p).mic = (s.lossHeard p).mic ∧ (s.lossNotice p).cal = (s.lossHeard p).cal ∧
    (s.lossNotice p).seats = (s.lossHeard p).seats := by
  rw [State.lossNotice_eq]
  exact ⟨rfl, rfl, rfl, rfl⟩

theorem State.lossNotice_messages (i : Seat) : (s.lossNotice p).disp.messages[i] =
    if i = s.logical p then none else (s.lossHeard p).disp.messages[i] := by
  rw [State.lossNotice_eq]
  exact modify_get _ _ _ fun _ => none

/-- The level state of the position goes to 0, and no other. -/
theorem State.lossNotice_level (q : Pos) : (s.lossNotice p).level[q] =
    if q = p then (s.level[q]).zero else s.level[q] := by
  have h : (s.lossHeard p).level = s.level := by simp [State.lossHeard]
  rw [State.lossNotice_eq, (State.composerLost_frame _ _ _).2.2.2.2.1, State.zeroLevel, modify_get, h]

/-- The transfer and the known text of the position are gone, and of no other. -/
theorem State.lossNotice_delivery (q : Pos) : (s.lossNotice p).disp.delivery[q] =
    if q = p then { s.disp.delivery[q] with known := none, transfer := none } else s.disp.delivery[q] := by
  have h : (s.lossHeard p).disp.delivery = s.disp.delivery :=
    (State.keeps_trans (s.floorLost_keeps _) (State.micLost_keeps _ _)) .delivery (by decide)
  rw [State.lossNotice_eq]
  refine (modify_get _ _ _ _).trans ?_
  rw [(State.zeroLevel_frame _ _).2.2.2.2.2.2.2.2.2.2.1, h]

/-- Clearing a seat's marks tidies. -/
theorem State.clearMarks_tidies (seat : Seat) : s.Tidies (s.setFloor fun f =>
    { f with blocked := f.blocked.set seat false, seen := f.seen.set seat false }) := by
  have set_get : ∀ (v : Vector Bool 64) (i : Seat), v[i] = false → (v.set seat false)[i] = false := fun v i x => by
    have := modify_get v seat i fun _ => false
    rw [modify] at this
    rw [this]
    split <;> simp [x]
  exact ⟨fun x => x, fun _ _ c => ⟨c.closed, c.message, c.holds, c.queued⟩, fun _ => .inl rfl, fun _ _ h k => ⟨h, k⟩, fun i x => set_get _ i x,
    fun i x => set_get _ i x⟩

theorem State.floorLost_tidies (seat : Seat) : s.Tidies (s.floorLost seat) := by
  rw [State.floorLost_eq]
  exact (s.leavesLost_tidies seat).trans (State.clearMarks_tidies _ seat)

/-- What the composer does of a loss is only to clear a message. -/
theorem State.lossHeard_composer : (s.lossHeard p).Tidies (s.lossNotice p) := by
  obtain ⟨hf, hm, hc, hs⟩ := s.lossNotice_heard p
  refine ⟨fun x => ?_, fun _ i c => ⟨?_, ?_, ?_, ?_⟩, fun _ => .inl (by rw [hs]), fun _ i h k => ⟨?_, ?_⟩,
    fun i x => by rw [hf]; exact x, fun i x => by rw [hf]; exact x⟩
  · rw [State.FloorSane, hf, hc]; exact x
  · rw [State.micOf_congr hm]; exact c.closed
  · rw [State.lossNotice_messages]
    split
    · rfl
    · exact c.message
  · exact (State.holds_congr (congrArg Floor.openList hf) i).trans c.holds
  · exact (State.queued_congr (congrArg Floor.queue hf) i).trans c.queued
  · exact (State.holds_congr (congrArg Floor.openList hf) i).trans h
  · exact (State.queued_congr (congrArg Floor.queue hf) i).trans k

theorem State.lossNotice_tidies : s.Tidies (s.lossNotice p) :=
  ((s.floorLost_tidies _).trans (State.micLost_tidies _ _)).trans (s.lossHeard_composer p)

/-- A microphone that was told of a loss is CLOSED. -/
theorem State.micLost_closed (seat : Seat) : ((s.micLost seat).micOf seat).state = .closed := by
  unfold State.micLost
  split
  · next h => exact h
  · rw [State.micOf, (State.reportClosed_rests _).recs]
    show ((s.micClose seat).micOf seat).state = _
    rw [State.micClose_micOf, if_pos rfl]

theorem State.lossNotice_closed : ((s.lossNotice p).micOf (s.logical p)).state = .closed := by
  rw [State.micOf_congr (s.lossNotice_heard p).2.1]
  exact State.micLost_closed _ _

/-- The seat of the position has left everything. -/
theorem State.lossNotice_clean (x : s.FloorSane) : (s.lossNotice p).Clean (s.logical p) := by
  have t := s.floorLost_tidies (s.logical p)
  have off : (s.floorLost (s.logical p)).holds (s.logical p) = false ∧
      (s.floorLost (s.logical p)).queued (s.logical p) = false := s.leavesLost_off x _
  obtain ⟨h, k⟩ := ((State.micLost_tidies _ _).trans (s.lossHeard_composer p)).off (t.sane x) _ off.1 off.2
  exact ⟨s.lossNotice_closed p, by rw [State.lossNotice_messages, if_pos rfl], h, k⟩

/-- Its blocked and voice-seen marks are no. -/
theorem State.lossNotice_marks : (s.lossNotice p).floor.blocked[s.logical p] = false ∧
    (s.lossNotice p).floor.seen[s.logical p] = false := by
  have t := (State.micLost_tidies (s.floorLost (s.logical p)) (s.logical p)).trans (s.lossHeard_composer p)
  have set_get : ∀ v : Vector Bool 64, (v.set (s.logical p) false)[s.logical p] = false := fun v =>
    modify_get_self v (s.logical p) fun _ => false
  exact ⟨t.blocked _ (set_get _), t.seen _ (set_get _)⟩

/-- Whatever the seat had is cleared. -/
theorem State.lossNotice_cleared : ((s.lossNotice p).micOf (s.logical p)).state = .closed ∧
    (s.lossNotice p).disp.messages[s.logical p] = none ∧ (s.lossNotice p).floor.blocked[s.logical p] = false ∧
    (s.lossNotice p).floor.seen[s.logical p] = false :=
  ⟨s.lossNotice_closed p, by rw [State.lossNotice_messages, if_pos rfl], s.lossNotice_marks p⟩

/-- A loss told for a seat that has left everything already moves the chair no more. -/
theorem State.lossNotice_chair_of_clean (c : s.Clean (s.logical p)) : (s.lossNotice p).seats.chair = s.seats.chair := by
  have hleaves : s.leavesLost (s.logical p) = s := by
    have hq : s.floor.queue.find? (fun x => x.seat = s.logical p) = none := by
      rw [List.find?_eq_none]
      simpa [State.queued] using c.queued
    simp only [State.leavesLost, c.holds, Bool.false_eq_true, if_false, State.withdraw, hq]
  have hmic : ((s.floorLost (s.logical p)).micOf (s.logical p)).state = .closed := by
    rw [State.floorLost_eq, hleaves]
    exact c.closed
  rw [(s.lossNotice_heard p).2.2.2, State.lossHeard, State.micLost, if_pos hmic, State.floorLost_eq, hleaves]
  rfl

theorem State.phys_eq_iff (i : Seat) : s.phys i = p ↔ i = s.logical p :=
  ⟨fun h => by rw [← h, State.logical_phys], fun h => by rw [h, State.phys_logical]⟩

end Loss

/-! ## The losses of several positions, one after another -/

/-- The positions whose loss is told, of the outcomes that a pass or a carrier loss brings. -/
def lossesOf (outcomes : List (Pos × PassOutcome)) : List Pos :=
  (outcomes.filter fun o => o.2 = .lost ∨ o.2 = .newUnit).map (·.1)

/-- What holds when nothing has been told, and is carried on by each loss and each level set to 0, holds when every outcome
has been told. -/
theorem passNotices_induct (P : State → List Pos → Prop) (loss : ∀ u done p, P u done → P (u.lossNotice p) (done ++ [p]))
    (zero : ∀ u done p, P u done → P (u.zeroLevel p) done) (outcomes : List (Pos × PassOutcome)) (u : State)
    (done : List Pos) (h : P u done) :
    P (outcomes.foldl (fun s o => s.passNotice o.1 o.2) u) (done ++ lossesOf outcomes) := by
  induction outcomes generalizing u done with
  | nil => simpa [lossesOf] using h
  | cons o outcomes ih =>
    obtain ⟨p, x⟩ := o
    rw [List.foldl_cons]
    have lossy : x = .lost ∨ x = .newUnit → lossesOf ((p, x) :: outcomes) = p :: lossesOf outcomes := fun hx => by
      simp [lossesOf, hx]
    have harmless : ¬ (x = .lost ∨ x = .newUnit) → lossesOf ((p, x) :: outcomes) = lossesOf outcomes := fun hx => by
      simp [lossesOf, hx]
    cases x with
    | lost => rw [lossy (.inl rfl), List.append_cons]; exact ih _ _ (loss u done p h)
    | newUnit => rw [lossy (.inr rfl), List.append_cons]; exact ih _ _ (loss u done p h)
    | became => rw [harmless (by simp)]; exact ih _ _ (zero u done p h)
    | same => rw [harmless (by simp)]; exact ih _ _ h
    | stillAbsent => rw [harmless (by simp)]; exact ih _ _ h

/-- The seats of the positions told of so far have left everything; where the chair is as it was, so are their marks. -/
structure State.LostClean (s : State) (u : State) (done : List Pos) : Prop where
  sane : u.FloorSane
  clean : ∀ p ∈ done, u.Clean (s.logical p)
  chair : u.seats.chair = s.seats.chair ∨ ∀ i, u.Clean i
  marks : u.seats.chair = s.seats.chair → ∀ p ∈ done, u.floor.blocked[s.logical p] = false ∧
    u.floor.seen[s.logical p] = false

theorem State.logical_congr {s t : State} (h : t.seats.chair = s.seats.chair) (p : Pos) : t.logical p = s.logical p := by
  rw [State.logical, State.logical, h]

theorem State.LostClean.loss {s u : State} {done : List Pos} (h : s.LostClean u done) (p : Pos) :
    s.LostClean (u.lossNotice p) (done ++ [p]) := by
  have tidies := u.lossNotice_tidies p
  have clean : ∀ q ∈ done ++ [p], (u.lossNotice p).Clean (s.logical q) := by
    intro q hq
    rcases List.mem_append.1 hq with hq | hq
    · exact tidies.clean h.sane _ (h.clean q hq)
    · obtain rfl : q = p := by simpa using hq
      rcases h.chair with e | e
      · rw [← State.logical_congr e]; exact u.lossNotice_clean q h.sane
      · exact tidies.clean h.sane _ (e _)
  refine ⟨tidies.sane h.sane, clean, ?_, fun hc q hq => ?_⟩
  · rcases tidies.chair h.sane with e | e
    · rcases h.chair with d | d
      · exact .inl (e.trans d)
      · exact .inr fun i => tidies.clean h.sane i (d i)
    · exact .inr e
  · have hu : u.seats.chair = s.seats.chair := by
      rcases h.chair with e | e
      · exact e
      · exact (u.lossNotice_chair_of_clean p (e _)).symm.trans hc
    rcases List.mem_append.1 hq with hq | hq
    · obtain ⟨hb, hs⟩ := h.marks hu q hq
      exact ⟨tidies.blocked _ hb, tidies.seen _ hs⟩
    · obtain rfl : q = p := by simpa using hq
      simpa only [State.logical_congr hu] using u.lossNotice_marks q

/-- A level set to 0 is no matter of the floor. -/
theorem State.LostClean.zero {s u : State} {done : List Pos} (h : s.LostClean u done) (p : Pos) :
    s.LostClean (u.zeroLevel p) done :=
  ⟨h.sane, fun q hq => ⟨(h.clean q hq).closed, (h.clean q hq).message, (h.clean q hq).holds, (h.clean q hq).queued⟩,
    h.chair.imp_right fun c i => ⟨(c i).closed, (c i).message, (c i).holds, (c i).queued⟩, h.marks⟩

theorem State.passNotices_clean {s : State} (x : s.FloorSane) (outcomes : List (Pos × PassOutcome)) :
    s.LostClean (outcomes.foldl (fun u o => u.passNotice o.1 o.2) s) (lossesOf outcomes) :=
  passNotices_induct (s.LostClean · ·) (fun _ _ p h => h.loss p) (fun _ _ p h => h.zero p) outcomes s []
    ⟨x, by simp, .inl rfl, by simp⟩

theorem State.passNotices_moves (s : State) (outcomes : List (Pos × PassOutcome)) :
    s.Moves (outcomes.foldl (fun u o => u.passNotice o.1 o.2) s) :=
  passNotices_induct (fun u _ => s.Moves u) (fun u _ p h => h.trans (u.lossNotice_moves p))
    (fun _ _ _ h => h.trans (.inl ⟨rfl, rfl⟩)) outcomes s [] (.refl s)

end Sys2Proof.Machine

namespace Sys2Proof.Machine

/-! ## A loss while the session goes on -/

section Loss
variable (s : State) (seat : Seat)

/-- What the floor controller does of a loss: it withdraws a seat that does not hold the floor; the removal of the last holder
in GRACE begins CLOSING; any other removal is followed by its check. -/
theorem State.leavesLost_cases :
    (s.holds seat = false ∧ s.leavesLost seat = s.withdraw seat .lost) ∨
    (s.holds seat = true ∧ s.cal.session = .grace ∧ (s.removeCore seat .lost).floor.openList = [] ∧
      s.leavesLost seat = (s.removeCore seat .lost).startClosing .floorEmpty) ∨
    (s.holds seat = true ∧ ¬ (s.cal.session = .grace ∧ (s.removeCore seat .lost).floor.openList = []) ∧
      s.leavesLost seat = (s.removeCore seat .lost).autoAdvance) := by
  unfold State.leavesLost
  cases h : s.holds seat with
  | false => exact .inl ⟨rfl, rfl⟩
  | true =>
    rcases s.removeThenAdvance_cases seat .lost h with ⟨hg, he, e⟩ | ⟨hn, e⟩
    · exact .inr (.inl ⟨rfl, hg, he, e⟩)
    · exact .inr (.inr ⟨rfl, hn, e⟩)

theorem State.leavesLost_moves : s.Moves (s.leavesLost seat) := by
  unfold State.leavesLost
  split
  · exact s.removeThenAdvance_moves seat .lost
  · exact s.withdraw_moves seat .lost

/-- In CLOSING alone the last microphone to close completes it. -/
theorem State.micLost_of_not_closing (h : s.cal.session ≠ .closing) :
    s.micLost seat = if (s.micOf seat).state = .closed then s else s.micClose seat := by
  unfold State.micLost
  split
  · rfl
  · rcases (s.micClose seat).reportClosed_cases with e | ⟨hc, -⟩
    · exact e
    · rw [(s.micClose_frame seat).2.2.2.2.2.2.1] at hc
      exact absurd hc h

/-- Where the session does not stand in CLOSING after the floor controller's part, the rest of a loss clears what belongs to
the seat, and moves nothing else. -/
theorem State.lossNotice_running (p : Pos) {seat : Seat} (hseat : s.logical p = seat)
    (h : (s.leavesLost seat).cal.session ≠ .closing) :
    let v := s.leavesLost seat
    (s.lossNotice p).floor = { v.floor with
      blocked := v.floor.blocked.set seat false, seen := v.floor.seen.set seat false } ∧
    (s.lossNotice p).cal = v.cal ∧ v.sameClasses (s.lossNotice p) ∧
    (∀ i, i ≠ seat → (s.lossNotice p).micOf i = v.micOf i) ∧
    ∀ i : Seat, i ≠ seat → (s.lossNotice p).disp.messages[i] = v.disp.messages[i] := by
  subst hseat
  intro v
  set w := v.setFloor fun f => { f with
    blocked := f.blocked.set (s.logical p) false, seen := f.seen.set (s.logical p) false } with hw
  have heard : s.lossHeard p = if (v.micOf (s.logical p)).state = .closed then w else w.micClose (s.logical p) :=
    w.micLost_of_not_closing (s.logical p) h
  obtain ⟨hf, hm, hc, hs⟩ := s.lossNotice_heard p
  have classes : w.sameClasses (s.lossHeard p) := by
    rw [heard]
    split
    · exact w.sameClasses_refl
    · exact sameClasses_of_capture (w.micClose_chair _).1 (by simp) fun q => w.micClose_recs _ q
  refine ⟨?_, ?_, ?_, fun i hi => ?_, fun i hi => ?_⟩
  · rw [hf, heard]
    split <;> simp [hw]
  · rw [hc, heard]
    split <;> simp [hw]
  · exact State.sameClasses_trans (State.sameClasses_of rfl rfl)
      (State.sameClasses_trans classes (State.sameClasses_of hs (by rw [hc])))
  · rw [State.micOf_congr hm, heard]
    split
    · rfl
    · rw [State.micClose_micOf, if_neg hi]; rfl
  · rw [State.lossNotice_messages, if_neg hi, heard]
    split <;> simp [hw]

/-- Where the floor controller's part leaves the session as it was, it touches no message, no blocked mark and no setting of
the floor. -/
theorem State.leavesLost_messages (h : (s.leavesLost seat).cal.session = s.cal.session) :
    (s.leavesLost seat).disp.messages = s.disp.messages ∧ (s.leavesLost seat).floor.blocked = s.floor.blocked ∧
      (s.leavesLost seat).floor.mode = s.floor.mode ∧ (s.leavesLost seat).floor.maxOpen = s.floor.maxOpen := by
  rcases s.leavesLost_cases seat with ⟨-, e⟩ | ⟨-, hg, -, e⟩ | ⟨hh, -, e⟩
  · rw [e, s.withdraw_floor]
    exact ⟨s.withdraw_keeps seat .lost .messages (by decide), rfl, rfl, rfl⟩
  · obtain ⟨r, hc, -⟩ := (s.removeCore seat .lost).closingBegun_cal .floorEmpty
    rw [e, State.startClosing_eq] at h
    rcases State.reportClosed_cases ((s.removeCore seat .lost).closingBegun .floorEmpty) with k | ⟨-, -, k⟩
    · rw [k, hc, hg] at h
      cases h
    · rw [k, hg] at h
      exact absurd h (State.completeClosing_settled _).1
  · obtain ⟨o, q, hf⟩ := (s.removeCore seat .lost).autoAdvance_floor
    rw [e, hf, s.removeCore_floor seat .lost hh]
    refine ⟨?_, by simp [Reason.blocks], rfl, rfl⟩
    exact (State.keeps_trans (s.removeCore_keeps seat .lost) (State.autoAdvance_keeps _)) .messages (by decide)

/-- Where no check can grant and the session goes on, a loss takes the seat from the two collections and no other. -/
theorem State.leavesLost_quiet (h : (s.leavesLost seat).cal.session = s.cal.session)
    (ha : (s.removeCore seat .lost).autoAdvance = s.removeCore seat .lost) :
    (s.leavesLost seat).floor.openList = s.floor.openList.filter (fun e => e.seat ≠ seat) ∧
    (s.FloorSane → (s.leavesLost seat).floor.queue = s.floor.queue.filter fun e => e.seat ≠ seat) ∧
    ∀ i, i ≠ seat → (s.leavesLost seat).micOf i = s.micOf i := by
  rcases s.leavesLost_cases seat with ⟨hh, e⟩ | ⟨-, hg, -, e⟩ | ⟨hh, -, e⟩
  · rw [e]
    refine ⟨?_, fun _ => by rw [s.withdraw_floor], fun i hi => ?_⟩
    · rw [s.withdraw_openList, s.filter_of_not_holds hh]
    · rw [s.withdraw_micOf, if_neg fun k => hi k.1]
  · rw [e] at h
    have moves := (s.removeCore seat .lost).startClosing_moves .floorEmpty (by simpa using hg)
    have settled : ((s.removeCore seat .lost).startClosing .floorEmpty).cal.session ≠ .grace := by
      obtain ⟨r, hc, -⟩ := (s.removeCore seat .lost).closingBegun_cal .floorEmpty
      rw [State.startClosing_eq]
      exact (State.reportClosed_moves _).not_grace (by rw [hc]; simp)
    exact absurd (h.trans hg) settled
  · rw [e, ha]
    refine ⟨s.removeCore_openList _ _, fun x => ?_, fun i hi => s.removeCore_micOf_ne _ _ _ hi⟩
    rw [(s.removeCore_queue seat .lost).1, s.filter_of_not_queued (x.not_queued hh)]

end Loss

/-- The seats whose positions are not among those told of. -/
def State.stays (s : State) (done : List Pos) (i : Seat) : Bool := decide (s.phys i ∉ done)

theorem State.stays_append (s : State) (done : List Pos) (p : Pos) (i : Seat) :
    s.stays (done ++ [p]) i = (s.stays done i && decide (i ≠ s.logical p)) := by
  simp [State.stays, ← s.phys_eq_iff p i, not_or]

theorem State.filter_stays {α : Type} (s : State) (done : List Pos) (p : Pos) (seat : α → Seat) (l : List α) :
    (l.filter fun e => s.stays done (seat e)).filter (fun e => seat e ≠ s.logical p) =
      l.filter fun e => s.stays (done ++ [p]) (seat e) := by
  rw [List.filter_filter]
  congr 1
  funext e
  rw [s.stays_append, Bool.and_comm]

theorem State.stays_nil (s : State) (i : Seat) : s.stays [] i = true := by simp [State.stays]

theorem State.filter_stays_nil {α : Type} (s : State) (seat : α → Seat) (l : List α) :
    l.filter (fun e => s.stays [] (seat e)) = l :=
  List.filter_eq_self.2 fun e _ => s.stays_nil (seat e)

/-- The seats still on the floor, outside GRACE and CLOSING: the calendar and the chair stand, and the messages and blocked
marks of the seats not told of. -/
structure State.LostPlain (s u : State) (done : List Pos) : Prop where
  cal : u.cal = s.cal
  chair : u.seats.chair = s.seats.chair
  messages : ∀ i : Seat, s.stays done i = true → u.disp.messages[i] = s.disp.messages[i]
  blocked : ∀ i : Seat, s.stays done i = true → u.floor.blocked[i] = s.floor.blocked[i]

theorem set_get_ne {α : Type} {n : Nat} (v : Vector α n) {i j : Fin n} (h : j ≠ i) (x : α) : (v.set i x)[j] = v[j] :=
  modify_get_ne v h fun _ => x

theorem State.LostPlain.loss {s u : State} {done : List Pos} (hs : s.cal.session.settled) (h : s.LostPlain u done) (p : Pos) :
    s.LostPlain (u.lossNotice p) (done ++ [p]) := by
  have hset : u.cal.session.settled := by rw [h.cal]; exact hs
  have hlog : u.logical p = s.logical p := State.logical_congr h.chair p
  obtain ⟨hcal, hchair⟩ := (u.lossNotice_moves p).of_settled hset
  obtain ⟨lcal, -⟩ := (u.leavesLost_moves (s.logical p)).of_settled hset
  obtain ⟨rfloor, -, -, -, rmsg⟩ := u.lossNotice_running p hlog (by rw [lcal]; exact hset.2)
  obtain ⟨lmsg, lblocked, -, -⟩ := u.leavesLost_messages (s.logical p) (by rw [lcal])
  refine ⟨hcal.trans h.cal, hchair.trans h.chair, fun i hi => ?_, fun i hi => ?_⟩
  · rw [s.stays_append, Bool.and_eq_true, decide_eq_true_eq] at hi
    rw [rmsg i hi.2, lmsg, h.messages i hi.1]
  · rw [s.stays_append, Bool.and_eq_true, decide_eq_true_eq] at hi
    rw [rfloor]
    refine (set_get_ne _ hi.2 _).trans ?_
    rw [lblocked, h.blocked i hi.1]

theorem State.passNotices_plain {s : State} (hs : s.cal.session.settled) (outcomes : List (Pos × PassOutcome)) :
    s.LostPlain (outcomes.foldl (fun u o => u.passNotice o.1 o.2) s) (lossesOf outcomes) :=
  passNotices_induct (s.LostPlain · ·) (fun _ _ p h => h.loss hs p) (fun _ _ _ h => ⟨h.cal, h.chair, h.messages, h.blocked⟩)
    outcomes s [] ⟨rfl, rfl, fun _ _ => rfl, fun _ _ => rfl⟩

/-- The losses told so far, where no check can grant: those seats have left the two collections, with marks, messages and
microphones cleared; the other microphones are as they were. -/
structure State.LostQuiet (s u : State) (done : List Pos) : Prop where
  cal : u.cal = s.cal
  chair : u.seats.chair = s.seats.chair
  mode : u.floor.mode = s.floor.mode
  cfg : u.cfg = s.cfg
  openList : u.floor.openList = s.floor.openList.filter fun e => s.stays done e.seat
  queue : s.FloorSane → u.FloorSane ∧ u.floor.queue = s.floor.queue.filter fun e => s.stays done e.seat
  gone : ∀ p ∈ done, (u.micOf (s.logical p)).state = .closed ∧ u.disp.messages[s.logical p] = none ∧
    u.floor.blocked[s.logical p] = false ∧ u.floor.seen[s.logical p] = false
  rest : ∀ i, s.stays done i = true → u.micOf i = s.micOf i

theorem State.LostQuiet.loss {s u : State} {done : List Pos} (hs : s.cal.session.settled) (hq : s.noAdvance)
    (h : s.LostQuiet u done) (p : Pos) : s.LostQuiet (u.lossNotice p) (done ++ [p]) := by
  have hset : u.cal.session.settled := by rw [h.cal]; exact hs
  have hlog : u.logical p = s.logical p := State.logical_congr h.chair p
  obtain ⟨hcal, hchair⟩ := (u.lossNotice_moves p).of_settled hset
  obtain ⟨lcal, -⟩ := (u.leavesLost_moves (s.logical p)).of_settled hset
  obtain ⟨rfloor, -, -, rmic, rmsg⟩ := u.lossNotice_running p hlog (by rw [lcal]; exact hset.2)
  obtain ⟨lmsg, lblocked, lmode, -⟩ := u.leavesLost_messages (s.logical p) (by rw [lcal])
  have quiet : (u.removeCore (s.logical p) .lost).autoAdvance = u.removeCore (s.logical p) .lost :=
    State.autoAdvance_off _ (State.noAdvance_congr hq ((u.removeCore_queue _ _).2.1.trans h.mode)
      ((u.removeCore_frame _ _).2.2.2.2.2.2.2.2.2.1.trans h.cfg))
  obtain ⟨lopen, lqueue, lmic⟩ := u.leavesLost_quiet (s.logical p) (by rw [lcal]) quiet
  have tidies := u.lossNotice_tidies p
  refine ⟨hcal.trans h.cal, hchair.trans h.chair, ?_, by simpa using h.cfg, ?_, fun x => ?_, fun q hq' => ?_, fun i hi => ?_⟩
  · rw [rfloor]; exact lmode.trans h.mode
  · rw [rfloor]
    show (u.leavesLost (s.logical p)).floor.openList = _
    rw [lopen, h.openList, s.filter_stays]
  · obtain ⟨xu, hqueue⟩ := h.queue x
    refine ⟨tidies.sane xu, ?_⟩
    rw [rfloor]
    show (u.leavesLost (s.logical p)).floor.queue = _
    rw [lqueue xu, hqueue, s.filter_stays]
  · by_cases hqp : s.logical q = s.logical p
    · simpa only [hqp, hlog] using u.lossNotice_cleared p
    · have hqd : q ∈ done := by
        rcases List.mem_append.1 hq' with hq' | hq'
        · exact hq'
        · exact absurd (by rw [List.mem_singleton.1 hq']) hqp
      obtain ⟨g1, g2, g3, g4⟩ := h.gone q hqd
      exact ⟨by rw [rmic _ hqp, lmic _ hqp]; exact g1, by rw [rmsg _ hqp, lmsg]; exact g2, tidies.blocked _ g3,
        tidies.seen _ g4⟩
  · rw [s.stays_append, Bool.and_eq_true, decide_eq_true_eq] at hi
    rw [rmic i hi.2, lmic i hi.2, h.rest i hi.1]

theorem State.LostQuiet.start (s : State) : s.LostQuiet s [] :=
  ⟨rfl, rfl, rfl, rfl, (s.filter_stays_nil OpenEntry.seat _).symm,
    fun x => ⟨x, (s.filter_stays_nil QueueEntry.seat _).symm⟩, by simp, fun _ _ => rfl⟩

theorem State.passNotices_quiet {s : State} (hs : s.cal.session.settled) (hq : s.noAdvance)
    (outcomes : List (Pos × PassOutcome)) :
    s.LostQuiet (outcomes.foldl (fun u o => u.passNotice o.1 o.2) s) (lossesOf outcomes) :=
  passNotices_induct (s.LostQuiet · ·) (fun _ _ p h => h.loss hs hq p)
    (fun _ _ _ h => ⟨h.cal, h.chair, h.mode, h.cfg, h.openList, h.queue, h.gone, h.rest⟩) outcomes s [] (.start s)

end Sys2Proof.Machine

namespace Sys2Proof.Machine

/-! ## Losses in QUEUE mode: checks grant heads of the queue in between -/

/-- A cut of a filtered list is a filtered cut of the list. -/
theorem exists_cut_of_filter {α : Type} (f : α → Bool) (l : List α) (k : Nat) (hk : k ≤ (l.filter f).length) :
    ∃ j ≤ l.length, (l.filter f).take k = (l.take j).filter f ∧ (l.filter f).drop k = (l.drop j).filter f := by
  induction l generalizing k with
  | nil => exact ⟨0, le_rfl, by simp, by simp⟩
  | cons x l ih =>
    cases k with
    | zero => exact ⟨0, Nat.zero_le _, by simp, by simp⟩
    | succ k =>
      cases hf : f x with
      | true =>
        simp only [List.filter_cons, hf, if_true, List.length_cons, Nat.add_le_add_iff_right] at hk
        obtain ⟨j, hj, ht, hd⟩ := ih k hk
        exact ⟨j + 1, by simpa using hj, by simp [hf, ht], by simp [hf, hd]⟩
      | false =>
        simp only [List.filter_cons, hf, Bool.false_eq_true, if_false] at hk
        obtain ⟨j, hj, ht, hd⟩ := ih (k + 1) hk
        exact ⟨j + 1, by simpa using hj, by simp [hf, ht], by simp [hf, hd]⟩

/-- The entries that a check makes of heads of the queue. -/
def State.granted (s : State) (l : List QueueEntry) : List OpenEntry :=
  l.map fun e => ⟨e.seat, s.clock.now, .queue⟩

theorem State.granted_append (s : State) (l m : List QueueEntry) : s.granted (l ++ m) = s.granted l ++ s.granted m :=
  List.map_append

/-- The granted entries of the seats that stay are those of the queue's entries that stay. -/
theorem State.filter_granted (s : State) (done : List Pos) (l : List QueueEntry) :
    (s.granted l).filter (fun e => s.stays done e.seat) = s.granted (l.filter fun e => s.stays done e.seat) := by
  rw [State.granted, State.granted, List.filter_map]
  rfl

/-- The losses told so far in QUEUE mode: the first `m` heads of the queue have been granted, in their order; the seats told
of have left what they held or waited for, a grant of these losses too. -/
structure State.LostQueue (s u : State) (done : List Pos) (m : Nat) : Prop where
  bound : m ≤ s.floor.queue.length
  cal : u.cal = s.cal
  keeps : s.keeps u lossPieces
  classes : s.sameClasses u
  mode : u.floor.mode = s.floor.mode
  maxOpen : u.floor.maxOpen = s.floor.maxOpen
  sane : u.FloorSane
  openList : u.floor.openList = (s.floor.openList ++ s.granted (s.floor.queue.take m)).filter fun e => s.stays done e.seat
  queue : u.floor.queue = (s.floor.queue.drop m).filter fun e => s.stays done e.seat
  none : (∀ e ∈ s.floor.openList, s.stays done e.seat = true) → m = 0
  full : (∃ e ∈ s.floor.openList, s.stays done e.seat = false) → s.cfg.autoAdvance = true →
    (∀ e ∈ s.floor.queue, s.stays done e.seat = true) → ∀ e, u.floor.queue.head? = some e → u.room e.seat = false
  opening : ∀ i, s.stays done i = true → (∃ e ∈ s.floor.queue.take m, e.seat = i) →
    (u.micOf i).state = .opening ∧ (u.micOf i).gap = s.cfg.openGap ∧ (u.micOf i).queued = false
  rest : ∀ i, s.stays done i = true → (∀ e ∈ s.floor.queue.take m, e.seat ≠ i) → u.micOf i = s.micOf i

theorem State.LostQueue.start {s : State} (x : s.FloorSane) : s.LostQueue s [] 0 where
  bound := Nat.zero_le _
  cal := rfl
  keeps := s.keeps_refl _
  classes := s.sameClasses_refl
  mode := rfl
  maxOpen := rfl
  sane := x
  openList := by simpa [State.granted] using (s.filter_stays_nil OpenEntry.seat s.floor.openList).symm
  queue := by simpa using (s.filter_stays_nil QueueEntry.seat s.floor.queue).symm
  none _ := rfl
  full := fun ⟨e, _, he⟩ => by rw [s.stays_nil] at he; cases he
  opening := fun _ _ ⟨e, he, _⟩ => by simp at he
  rest _ _ _ := rfl

/-- A seat left the floor, and no check follows: it did not hold it, or there is no auto-advance. -/
theorem State.LostQueue.withdraw {s u v : State} {done : List Pos} {m : Nat} {p : Pos} (h : s.LostQueue u done m)
    (hseat : s.cfg.autoAdvance = true → u.holds (s.logical p) = false) (hcal : v.cal = s.cal) (hkeeps : s.keeps v lossPieces)
    (hclasses : u.sameClasses v) (hmode : v.floor.mode = u.floor.mode) (hmax : v.floor.maxOpen = u.floor.maxOpen)
    (hsane : v.FloorSane) (hopen : v.floor.openList = u.floor.openList.filter fun e => e.seat ≠ s.logical p)
    (hqueue : v.floor.queue = u.floor.queue.filter fun e => e.seat ≠ s.logical p)
    (hmic : ∀ i, i ≠ s.logical p → v.micOf i = u.micOf i) : s.LostQueue v (done ++ [p]) m where
  bound := h.bound
  cal := hcal
  keeps := hkeeps
  classes := State.sameClasses_trans h.classes hclasses
  mode := hmode.trans h.mode
  maxOpen := hmax.trans h.maxOpen
  sane := hsane
  openList := by
    rw [hopen, h.openList, s.filter_stays]
  queue := by rw [hqueue, h.queue, s.filter_stays]
  none k := h.none fun e he => by
    have := k e he
    rw [s.stays_append, Bool.and_eq_true] at this
    exact this.1
  full := by
    rintro ⟨e, he, hgone⟩ ha hq f hf
    have hq' : ∀ x ∈ s.floor.queue, s.stays done x.seat = true ∧ x.seat ≠ s.logical p := fun x hx => by
      have := hq x hx
      rwa [s.stays_append, Bool.and_eq_true, decide_eq_true_eq] at this
    have same : v.floor.queue = u.floor.queue := by
      rw [hqueue, List.filter_eq_self]
      intro x hx
      rw [h.queue] at hx
      simpa using (hq' x (List.mem_of_mem_drop (List.mem_of_mem_filter hx))).2
    rw [same] at hf
    rw [State.room_same hclasses (hopen.trans (u.filter_of_not_holds (hseat ha))) hmax]
    refine h.full ⟨e, he, ?_⟩ ha (fun x hx => (hq' x hx).1) f hf
    by_contra hk
    have hk : s.stays done e.seat = true := by simpa using hk
    have hu : e ∈ u.floor.openList := by
      rw [h.openList]
      exact List.mem_filter.2 ⟨List.mem_append_left _ he, hk⟩
    have hne := (u.holds_false_iff _).1 (hseat ha) e hu
    rw [s.stays_append, hk] at hgone
    simp [hne] at hgone
  opening i hi := by
    rw [s.stays_append, Bool.and_eq_true, decide_eq_true_eq] at hi
    rw [hmic i hi.2]
    exact h.opening i hi.1
  rest i hi := by
    rw [s.stays_append, Bool.and_eq_true, decide_eq_true_eq] at hi
    rw [hmic i hi.2]
    exact h.rest i hi.1

/-- A holder left the floor, and the check after it granted the heads that found room. -/
theorem State.LostQueue.grant {s u r v : State} {done : List Pos} {m : Nat} {p : Pos} (h : s.LostQueue u done m)
    (hseat : u.holds (s.logical p) = true) (hclock : r.clock = s.clock) (hcfg : r.cfg = s.cfg)
    (hropen : r.floor.openList = u.floor.openList.filter fun e => e.seat ≠ s.logical p)
    (hrqueue : r.floor.queue = u.floor.queue) (hrmic : ∀ i, i ≠ s.logical p → r.micOf i = u.micOf i)
    (hcal : v.cal = s.cal) (hkeeps : s.keeps v lossPieces)
    (hrclasses : u.sameClasses r) (hclasses : r.sameClasses v) (hrmax : r.floor.maxOpen = u.floor.maxOpen)
    (hmode : v.floor.mode = u.floor.mode) (hmax : v.floor.maxOpen = r.floor.maxOpen) (hsane : v.FloorSane)
    (adv : ∃ w, r.Advances w r.floor.openList r.floor.queue [] ∧ v.floor.openList = w.floor.openList ∧
      v.floor.queue = w.floor.queue ∧ ∀ i, i ≠ s.logical p → v.micOf i = w.micOf i) :
    ∃ n, s.LostQueue v (done ++ [p]) n := by
  obtain ⟨w, ⟨k, hk, wopen, wqueue, wroom, wopening, wrest⟩, hvopen, hvqueue, hvmic⟩ := adv
  have waits : u.queued (s.logical p) = false := h.sane.not_queued hseat
  have uqueue : u.floor.queue = (s.floor.queue.drop m).filter fun e => s.stays (done ++ [p]) e.seat := by
    rw [← u.filter_of_not_queued waits, h.queue, s.filter_stays]
  rw [hrqueue, uqueue] at hk wopen wqueue wroom wopening wrest
  beta_reduce at wopen
  obtain ⟨j, hj, htake, hdrop⟩ := exists_cut_of_filter _ _ k hk
  have htakes : s.floor.queue.take (m + j) = s.floor.queue.take m ++ (s.floor.queue.drop m).take j := List.take_add
  have stays : ∀ i, s.stays (done ++ [p]) i = true → s.stays done i = true ∧ i ≠ s.logical p := fun i hi => by
    rwa [s.stays_append, Bool.and_eq_true, decide_eq_true_eq] at hi
  refine ⟨m + j, ?_, hcal, hkeeps, State.sameClasses_trans (State.sameClasses_trans h.classes hrclasses) hclasses,
    hmode.trans h.mode, hmax.trans (hrmax.trans h.maxOpen), hsane, ?_, ?_, fun all => ?_, fun _ _ _ e he => ?_,
    fun i hi hin => ?_, fun i hi hout => ?_⟩
  · have := h.bound
    rw [List.length_drop] at hj
    omega
  · rw [hvopen, wopen, htake, hropen, h.openList, s.filter_stays, htakes, s.granted_append, ← List.append_assoc,
      List.filter_append, List.filter_append, List.filter_append, s.filter_granted, s.filter_granted, hclock]
    rfl
  · rw [hvqueue, wqueue, hdrop, List.drop_drop]
  · obtain ⟨e, he, hes⟩ := (u.holds_iff _).1 hseat
    have hm : m = 0 := h.none fun x hx => (stays _ (all x hx)).1
    rw [h.openList, hm] at he
    have he := List.mem_of_mem_filter he
    rw [List.take_zero, State.granted, List.map_nil, List.append_nil] at he
    exact absurd hes (stays _ (all e he)).2
  · rw [hvqueue, wqueue, List.head?_drop] at he
    have := (wroom k e he).2 rfl
    have vopen : v.floor.openList = r.floor.openList ++ (((s.floor.queue.drop m).filter fun e =>
        s.stays (done ++ [p]) e.seat).take k).map fun e => (⟨e.seat, r.clock.now, .queue⟩ : OpenEntry) := hvopen.trans wopen
    rw [← State.roomBeside_same hclasses hmax, v.roomBeside_iff _ _ vopen] at this
    simpa using this
  · obtain ⟨h1, h2⟩ := stays i hi
    rw [hvmic i h2]
    by_cases hg : ∃ e ∈ ((s.floor.queue.drop m).take j).filter fun e => s.stays (done ++ [p]) e.seat, e.seat = i
    · obtain ⟨e, he, rfl⟩ := hg
      rw [← hcfg]
      exact wopening e (by rw [htake]; exact he)
    · push Not at hg
      rw [wrest i (by simp) (by rw [htake]; exact hg), hrmic i h2]
      refine h.opening i h1 ?_
      obtain ⟨e, he, hes⟩ := hin
      rw [htakes] at he
      rcases List.mem_append.1 he with he | he
      · exact ⟨e, he, hes⟩
      · exact absurd hes (hg e (List.mem_filter.2 ⟨he, by rw [hes]; exact hi⟩))
  · obtain ⟨h1, h2⟩ := stays i hi
    rw [htakes] at hout
    rw [hvmic i h2, wrest i (by simp) fun e he => hout e (List.mem_append_right _ (by
      rw [htake] at he; exact List.mem_of_mem_filter he)), hrmic i h2]
    exact h.rest i h1 fun e he => hout e (List.mem_append_left _ he)

/-- The loss of one more position in QUEUE mode. -/
theorem State.LostQueue.loss {s u : State} {done : List Pos} {m : Nat} (hok : s.FloorOk) (hs : s.cal.session = .inSession)
    (hmode : s.floor.mode = .queue) (h : s.LostQueue u done m) (p : Pos) :
    ∃ n, s.LostQueue (u.lossNotice p) (done ++ [p]) n := by
  have hset : u.cal.session.settled := by rw [h.cal, hs]; exact ⟨by simp, by simp⟩
  have hlog : u.logical p = s.logical p := State.logical_congr h.classes.1 p
  obtain ⟨hcal, -⟩ := (u.lossNotice_moves p).of_settled hset
  obtain ⟨lcal, lchair⟩ := (u.leavesLost_moves (s.logical p)).of_settled hset
  obtain ⟨rfloor, -, rclasses, rmic, -⟩ := u.lossNotice_running p hlog (by rw [lcal]; exact hset.2)
  obtain ⟨-, -, lmode, lmax⟩ := u.leavesLost_messages (s.logical p) (by rw [lcal])
  have keeps : s.keeps (u.lossNotice p) lossPieces := State.keeps_trans h.keeps (u.lossNotice_keeps p)
  have sane := (u.lossNotice_tidies p).sane h.sane
  have ropen : (u.lossNotice p).floor.openList = (u.leavesLost (s.logical p)).floor.openList := by rw [rfloor]
  have rqueue : (u.lossNotice p).floor.queue = (u.leavesLost (s.logical p)).floor.queue := by rw [rfloor]
  have rmode : (u.lossNotice p).floor.mode = u.floor.mode := by rw [rfloor]; exact lmode
  have rmax : (u.lossNotice p).floor.maxOpen = u.floor.maxOpen := by rw [rfloor]; exact lmax
  rcases u.leavesLost_cases (s.logical p) with ⟨hh, e⟩ | ⟨-, hg, -⟩ | ⟨hh, -, e⟩
  · refine ⟨m, h.withdraw (fun _ => hh) (hcal.trans h.cal) keeps ?_ rmode rmax sane ?_ ?_ fun i hi => ?_⟩
    · rw [e] at rclasses
      exact State.sameClasses_trans (State.sameClasses_of (by simp) (by simp)) rclasses
    · rw [ropen, e, u.withdraw_openList, u.filter_of_not_holds hh]
    · rw [rqueue, e, u.withdraw_floor]
    · rw [rmic i hi, e, u.withdraw_micOf, if_neg fun k => hi k.1]
  · exact absurd hg hset.1
  · set r := u.removeCore (s.logical p) .lost with hr
    have rcfg : r.cfg = s.cfg := by
      rw [hr, (u.removeCore_frame _ _).2.2.2.2.2.2.2.2.2.1]; exact h.keeps .cfg (by decide)
    have rstore : r.store = s.store := by
      rw [hr, (u.removeCore_frame _ _).2.2.2.2.2.2.2.2.2.2.1]; exact h.keeps .store (by decide)
    have rclock : r.clock = s.clock := by
      rw [hr, (u.removeCore_frame _ _).2.2.2.2.2.1]; exact h.keeps .clock (by decide)
    have rcal : r.cal = s.cal := by rw [hr, (u.removeCore_frame _ _).2.2.2.2.2.2.1]; exact h.cal
    obtain ⟨q1, q2, q3, -⟩ := u.removeCore_queue (s.logical p) .lost
    have rsane : r.FloorSane := (u.removeCore_tidies (s.logical p) .lost rfl rfl).sane h.sane
    have classes : r.sameClasses (u.lossNotice p) := by
      rw [e] at rclasses
      exact State.sameClasses_trans (State.sameClasses_of (by simp) (by simp)) rclasses
    have running : s.store.halted = false := by
      by_contra hh'
      obtain ⟨ho, hq⟩ := hok.2.2.2 (by simp [State.floorRuns, (by simpa using hh' : s.store.halted = true)])
      obtain ⟨x, hx, -⟩ := (u.holds_iff _).1 hh
      rw [h.openList, ho, hq] at hx
      simp [State.granted] at hx
    cases ha : s.cfg.autoAdvance with
    | true =>
      refine h.grant hh rclock rcfg (u.removeCore_openList _ _) q1 (fun i hi => u.removeCore_micOf_ne _ _ _ hi)
        (hcal.trans h.cal) keeps (u.removeCore_classes _ _) classes q3 rmode (rmax.trans q3.symm) sane ?_
      exact ⟨r.autoAdvance, r.autoAdvance_grants rsane.queue_nodup (by rw [rstore]; exact running) (by rw [rcal]; exact hs)
        (q2.trans (h.mode.trans hmode)) (by rw [rcfg]; exact ha), by rw [ropen, e], by rw [rqueue, e],
        fun i hi => by rw [rmic i hi, e]⟩
    | false =>
      have off : r.autoAdvance = r := r.autoAdvance_off (.inr (rcfg ▸ ha))
      rw [off] at e
      refine ⟨m, h.withdraw (fun k => by rw [ha] at k; cases k) (hcal.trans h.cal) keeps
        (State.sameClasses_trans (u.removeCore_classes _ _) classes) rmode rmax sane ?_ ?_ fun i hi => ?_⟩
      · rw [ropen, e, u.removeCore_openList]
      · rw [rqueue, e, q1, u.filter_of_not_queued (h.sane.not_queued hh)]
      · rw [rmic i hi, e, u.removeCore_micOf_ne _ _ _ hi]

end Sys2Proof.Machine

namespace Sys2Proof.Machine

section QueueMode
variable {s : State}

/-- Losses in QUEUE mode in IN_SESSION, from a floor with its invariant. -/
theorem State.passNotices_queue (hok : s.FloorOk) (hs : s.cal.session = .inSession) (hmode : s.floor.mode = .queue)
    (outcomes : List (Pos × PassOutcome)) :
    ∃ m, s.LostQueue (outcomes.foldl (fun u o => u.passNotice o.1 o.2) s) (lossesOf outcomes) m :=
  passNotices_induct (fun u done => ∃ m, s.LostQueue u done m)
    (fun _ _ p ⟨_, h⟩ => h.loss hok hs hmode p)
    (fun u _ p ⟨m, h⟩ => ⟨m, h.bound, h.cal, State.keeps_trans h.keeps (State.keeps_mono (u.zeroLevel_keeps p) (by decide)),
      h.classes, h.mode, h.maxOpen, h.sane, h.openList, h.queue, h.none, h.full, h.opening, h.rest⟩)
    outcomes s [] ⟨0, .start hok.sane⟩

/-- The entries granted of the first heads are the first of the heads that stay. -/
theorem State.stays_taken (s : State) (done : List Pos) (m : Nat) :
    let kept := s.floor.queue.filter fun e => s.stays done e.seat
    let k := ((s.floor.queue.take m).filter fun e => s.stays done e.seat).length
    k ≤ m ∧ kept.take k = (s.floor.queue.take m).filter (fun e => s.stays done e.seat) ∧
      kept.drop k = (s.floor.queue.drop m).filter (fun e => s.stays done e.seat) := by
  have split : s.floor.queue.filter (fun e => s.stays done e.seat) =
      (s.floor.queue.take m).filter (fun e => s.stays done e.seat) ++
        (s.floor.queue.drop m).filter fun e => s.stays done e.seat := by
    rw [← List.filter_append, List.take_append_drop]
  have bound := (List.length_filter_le (fun e : QueueEntry => s.stays done e.seat) (s.floor.queue.take m)).trans
    (List.length_take_le _ _)
  intro kept k
  exact ⟨bound, by rw [show kept = _ from split]; exact List.take_left, by rw [show kept = _ from split]; exact List.drop_left⟩

end QueueMode

/-! ## Losses in GRACE -/

section Told
variable (s : State) (p : Pos)

/-- What the microphones, the level and the composer do of a loss leaves the two collections and the report. -/
theorem State.lossNotice_after : (s.lossNotice p).floor.openList = (s.leavesLost (s.logical p)).floor.openList ∧
    (s.lossNotice p).floor.queue = (s.leavesLost (s.logical p)).floor.queue ∧
    (s.lossNotice p).cal.lastReport = (s.leavesLost (s.logical p)).cal.lastReport ∧
    ((s.leavesLost (s.logical p)).cal.session ≠ .grace → (s.lossNotice p).cal.session ≠ .grace) := by
  obtain ⟨hf, -, hc, -⟩ := s.lossNotice_heard p
  have told : ∀ u : State, (u.micLost (s.logical p)).floor.openList = u.floor.openList ∧
      (u.micLost (s.logical p)).floor.queue = u.floor.queue ∧
      (u.micLost (s.logical p)).cal.lastReport = u.cal.lastReport := fun u => by
    unfold State.micLost
    split
    · exact ⟨rfl, rfl, rfl⟩
    · have rests := (u.micClose (s.logical p)).reportClosed_rests
      rw [rests.openList, rests.queue, rests.report]
      simp
  obtain ⟨h1, h2, h3⟩ := told (s.floorLost (s.logical p))
  rw [hf, hc]
  exact ⟨h1, h2, h3, fun h => (State.micLost_moves _ _).not_grace h⟩

end Told

/-- The losses told so far have left a session that goes on in GRACE. -/
structure State.GraceGoesOn (s u : State) (done : List Pos) : Prop where
  cal : u.cal = s.cal
  chair : u.seats.chair = s.seats.chair
  openList : u.floor.openList = s.floor.openList.filter fun e => s.stays done e.seat
  someone : s.floor.openList = [] ∨ u.floor.openList ≠ []
  queue : s.FloorSane → u.FloorSane ∧ u.floor.queue = s.floor.queue.filter fun e => s.stays done e.seat
  rest : ∀ i, s.stays done i = true → u.micOf i = s.micOf i

/-- The loss of the last holder has begun CLOSING, in which no seat is on the floor. -/
structure State.GraceEnds (s u : State) (done : List Pos) : Prop where
  someone : s.floor.openList ≠ []
  gone : (s.floor.openList.filter fun e => s.stays done e.seat) = []
  openList : u.floor.openList = []
  queue : u.floor.queue = []
  session : u.cal.session ≠ .grace
  report : u.cal.lastReport.map (·.cause) = some .floorEmpty

theorem State.GraceGoesOn.loss {s u : State} {done : List Pos} (hs : s.cal.session = .grace) (h : s.GraceGoesOn u done)
    (p : Pos) : s.GraceGoesOn (u.lossNotice p) (done ++ [p]) ∨ s.GraceEnds (u.lossNotice p) (done ++ [p]) := by
  have hg : u.cal.session = .grace := by rw [h.cal, hs]
  have hlog : u.logical p = s.logical p := State.logical_congr h.chair p
  obtain ⟨aopen, aqueue, areport, asession⟩ := u.lossNotice_after p
  rw [hlog] at aopen aqueue areport asession
  have openNext : (u.removeCore (s.logical p) .lost).floor.openList =
      s.floor.openList.filter fun e => s.stays (done ++ [p]) e.seat := by
    rw [u.removeCore_openList, h.openList, s.filter_stays]
  have rcal : (u.removeCore (s.logical p) .lost).cal = u.cal := by simp
  have quiet : (u.removeCore (s.logical p) .lost).autoAdvance = u.removeCore (s.logical p) .lost := by
    rcases State.autoAdvance_cases (u.removeCore (s.logical p) .lost) with e | ⟨-, hin, -⟩
    · exact e
    · rw [rcal, hg] at hin; cases hin
  have goesOn : (u.leavesLost (s.logical p)).cal = u.cal →
      (s.floor.openList = [] ∨ (u.leavesLost (s.logical p)).floor.openList ≠ []) →
      s.GraceGoesOn (u.lossNotice p) (done ++ [p]) := fun lcal hne => by
    obtain ⟨-, rcal', rclasses, rmic, -⟩ := u.lossNotice_running p hlog (by rw [lcal, hg]; simp)
    obtain ⟨lopen, lqueue, lmic⟩ := u.leavesLost_quiet (s.logical p) (by rw [lcal]) quiet
    have lchair := (u.leavesLost_moves (s.logical p)).chair_of_session (by rw [lcal])
    refine ⟨rcal'.trans (lcal.trans h.cal), rclasses.1.trans (lchair.trans h.chair), ?_, by rwa [aopen], fun x => ?_,
      fun i hi => ?_⟩
    · rw [aopen, lopen, h.openList, s.filter_stays]
    · obtain ⟨xu, hq⟩ := h.queue x
      exact ⟨(u.lossNotice_tidies p).sane xu, by rw [aqueue, lqueue xu, hq, s.filter_stays]⟩
    · rw [s.stays_append, Bool.and_eq_true, decide_eq_true_eq] at hi
      rw [rmic i hi.2, lmic i hi.2, h.rest i hi.1]
  rcases u.leavesLost_cases (s.logical p) with ⟨hh, e⟩ | ⟨hh, -, hempty, e⟩ | ⟨hh, hn, e⟩
  · exact .inl (goesOn (by rw [e]; simp) (h.someone.imp_right fun k => by rwa [e, u.withdraw_openList]))
  · refine .inr ⟨fun k => ?_, by rw [← openNext, hempty], ?_, ?_, ?_, ?_⟩
    · obtain ⟨x, hx, -⟩ := (u.holds_iff _).1 hh
      rw [h.openList, k] at hx
      cases hx
    · rw [aopen, e, State.startClosing_eq, (State.reportClosed_rests _).openList]
      exact (State.closingBegun_floor _ _).1
    · rw [aqueue, e, State.startClosing_eq, (State.reportClosed_rests _).queue]
      exact (State.closingBegun_floor _ _).2.1
    · obtain ⟨r, hc, -⟩ := (u.removeCore (s.logical p) .lost).closingBegun_cal .floorEmpty
      refine asession ?_
      rw [e, State.startClosing_eq]
      exact (State.reportClosed_moves _).not_grace (by rw [hc]; simp)
    · obtain ⟨r, hc, hcause, -⟩ := (u.removeCore (s.logical p) .lost).closingBegun_cal .floorEmpty
      rw [areport, e, State.startClosing_eq, (State.reportClosed_rests _).report, hc]
      exact congrArg some hcause
  · refine .inl (goesOn (by rw [e, quiet, rcal]) (.inr ?_))
    rw [e, quiet]
    exact fun k => hn ⟨hg, k⟩

theorem State.GraceEnds.loss {s u : State} {done : List Pos} (h : s.GraceEnds u done) (p : Pos) :
    s.GraceEnds (u.lossNotice p) (done ++ [p]) := by
  obtain ⟨aopen, aqueue, areport, -⟩ := u.lossNotice_after p
  have off : u.holds (u.logical p) = false := by simp [State.holds, h.openList]
  have e : u.leavesLost (u.logical p) = u.withdraw (u.logical p) .lost := by
    rcases u.leavesLost_cases (u.logical p) with ⟨-, e⟩ | ⟨hh, -⟩ | ⟨hh, -⟩
    · exact e
    · rw [off] at hh; cases hh
    · rw [off] at hh; cases hh
  refine ⟨h.someone, ?_, ?_, ?_, (u.lossNotice_moves p).not_grace h.session, ?_⟩
  · rw [← s.filter_stays done p, h.gone, List.filter_nil]
  · rw [aopen, e, u.withdraw_openList, h.openList]
  · rw [aqueue, e, u.withdraw_floor]
    simp [h.queue]
  · rw [areport, e]
    simpa using h.report

theorem State.passNotices_grace {s : State} (hs : s.cal.session = .grace) (outcomes : List (Pos × PassOutcome)) :
    s.GraceGoesOn (outcomes.foldl (fun u o => u.passNotice o.1 o.2) s) (lossesOf outcomes) ∨
    s.GraceEnds (outcomes.foldl (fun u o => u.passNotice o.1 o.2) s) (lossesOf outcomes) := by
  refine passNotices_induct (fun u done => s.GraceGoesOn u done ∨ s.GraceEnds u done) (fun u done p h => ?_)
    (fun u done p h => ?_) outcomes s [] (.inl ⟨rfl, rfl, (s.filter_stays_nil OpenEntry.seat _).symm, ?_,
      fun x => ⟨x, (s.filter_stays_nil QueueEntry.seat _).symm⟩, fun _ _ => rfl⟩)
  · rcases h with h | h
    · exact h.loss hs p
    · exact .inr (h.loss p)
  · exact h.imp (fun h => ⟨h.cal, h.chair, h.openList, h.someone, h.queue, h.rest⟩)
      fun h => ⟨h.someone, h.gone, h.openList, h.queue, h.session, h.report⟩
  · exact Classical.em _

/-! ## What the losses of several positions come to -/

theorem State.stays_eq (s : State) (done : List Pos) (i : Seat) : (!decide (s.phys i ∈ done)) = s.stays done i := by
  simp [State.stays]

/-- The losses of the outcomes of a pass or of a carrier loss, told one after another. -/
theorem State.passNotices_loses (s : State) (outcomes : List (Pos × PassOutcome)) :
    s.Loses (outcomes.foldl (fun u o => u.passNotice o.1 o.2) s) fun p => decide (p ∈ lossesOf outcomes) := by
  have moves := s.passNotices_moves outcomes
  have atSeat : ∀ i, decide (s.phys i ∈ lossesOf outcomes) = true → ∃ p ∈ lossesOf outcomes, s.logical p = i :=
    fun i hi => ⟨s.phys i, of_decide_eq_true hi, s.logical_phys i⟩
  have gone : ∀ i, s.stays (lossesOf outcomes) i = false ↔ decide (s.phys i ∈ lossesOf outcomes) = true := fun i => by
    rw [← s.stays_eq, Bool.not_eq_false']
  have kept : ∀ i, s.stays (lossesOf outcomes) i = true ↔ decide (s.phys i ∈ lossesOf outcomes) = false := fun i => by
    rw [← s.stays_eq, Bool.not_eq_true']
  unfold State.Loses
  simp only [State.stays_eq, ← gone, ← kept]
  simp only [← gone] at atSeat
  refine ⟨fun x i hi => ?_, fun h => ?_, fun h => ?_, fun h hq => ?_, fun h hm x => ?_, fun h => ?_⟩
  · obtain ⟨p, hp, rfl⟩ := atSeat i hi
    have clean := State.passNotices_clean x.sane outcomes
    obtain ⟨h1, h2, h3, h4⟩ := clean.clean p hp
    exact ⟨h1, h2, h3, h4, fun hc => clean.marks hc p hp⟩
  · rcases h with h | h
    · exact (moves.of_settled h).2
    · exact moves.chair_of_session h
  · have plain := State.passNotices_plain (s := s) ⟨by simp [h], by simp [h]⟩ outcomes
    exact ⟨plain.cal, fun i hi => ⟨plain.messages i hi, plain.blocked i hi⟩⟩
  · have quiet := State.passNotices_quiet (s := s) ⟨by simp [h], by simp [h]⟩ hq outcomes
    refine ⟨quiet.openList, fun x => (quiet.queue x.sane).2, fun i => ⟨fun hi => ?_, fun hi => quiet.rest i hi⟩⟩
    obtain ⟨p, hp, rfl⟩ := atSeat i hi
    exact quiet.gone p hp
  · obtain ⟨m, hq⟩ := State.passNotices_queue x h hm outcomes
    obtain ⟨hk, htake, hdrop⟩ := s.stays_taken (lossesOf outcomes) m
    have bound : s.floor.queue.length ≤ 16 := x.2.1
    refine ⟨⟨_, Nat.lt_succ_of_le (hk.trans (hq.bound.trans bound))⟩, ?_, ?_, fun k => ?_, fun ⟨e, he, hg⟩ ha hstay f hf => ?_,
      fun i hi => ⟨fun ⟨e, he, hei⟩ => ?_, fun hout => ?_⟩⟩
    · rw [htake, hq.openList, List.filter_append, s.filter_granted]
      rfl
    · rw [hdrop, hq.queue]
    · have := hq.none k
      subst this
      rfl
    · rw [hdrop, ← hq.queue] at hf
      exact hq.full ⟨e, he, hg⟩ ha hstay f hf
    · rw [htake] at he
      exact hq.opening i hi ⟨e, List.mem_of_mem_filter he, hei⟩
    · rw [htake] at hout
      refine hq.rest i hi fun e he hei => hout e (List.mem_filter.2 ⟨he, ?_⟩) hei
      rw [hei]; exact hi
  · rcases State.passNotices_grace h outcomes with g | g
    · refine ⟨g.openList, fun _ => ⟨g.cal, fun x => (g.queue x.sane).2, g.rest⟩, fun hn hne => ?_⟩
      rw [← g.openList] at hn
      exact (g.someone.elim hne fun k => k hn).elim
    · rw [g.gone]
      exact ⟨g.openList, fun k => (k.elim (fun k => k rfl) g.someone).elim, fun _ _ => ⟨g.queue, g.session, g.report⟩⟩

end Sys2Proof.Machine

namespace Sys2Proof.Machine

/-! ## The levels and the displays after several losses -/

/-- The positions whose level state starts at 0 again. -/
def restartedBy (outcomes : List (Pos × PassOutcome)) : List Pos :=
  (outcomes.filter fun o => o.2 ≠ .same ∧ o.2 ≠ .stillAbsent).map (·.1)

/-- What is done by one step or by another, and is the same done twice, is done where either step does it. -/
theorem ite_ite_again {α : Type} (f : α → α) (x : α) (hf : f (f x) = f x) (a b : Prop) [Decidable a] [Decidable b] :
    (if b then f (if a then f x else x) else if a then f x else x) = if a ∨ b then f x else x := by
  by_cases ha : a <;> by_cases hb : b <;> simp [ha, hb, hf]

theorem State.passNotice_level (s : State) (p q : Pos) (o : PassOutcome) : (s.passNotice p o).level[q] =
    if q = p ∧ o ≠ .same ∧ o ≠ .stillAbsent then (s.level[q]).zero else s.level[q] := by
  cases o with
  | lost => simpa [State.passNotice] using s.lossNotice_level p q
  | newUnit => simpa [State.passNotice] using s.lossNotice_level p q
  | became =>
    refine (modify_get s.level p q LevelRec.zero).trans ?_
    simp
  | same => simp [State.passNotice]
  | stillAbsent => simp [State.passNotice]

theorem State.passNotices_level (outcomes : List (Pos × PassOutcome)) (s : State) (q : Pos) :
    (outcomes.foldl (fun u o => u.passNotice o.1 o.2) s).level[q] =
      if q ∈ restartedBy outcomes then (s.level[q]).zero else s.level[q] := by
  induction outcomes generalizing s with
  | nil => simp [restartedBy]
  | cons o outcomes ih =>
    have members : q ∈ restartedBy (o :: outcomes) ↔
        (q = o.1 ∧ o.2 ≠ .same ∧ o.2 ≠ .stillAbsent) ∨ q ∈ restartedBy outcomes := by
      by_cases h : o.2 ≠ .same ∧ o.2 ≠ .stillAbsent <;> simp [restartedBy, h]
    rw [List.foldl_cons, ih, State.passNotice_level]
    rw [ite_ite_again LevelRec.zero (s.level[q]) rfl, if_congr members rfl rfl]

/-- The display of a position that is lost: nothing known, nothing on its way. -/
def Delivery.lost (d : Delivery) : Delivery := { d with known := none, transfer := none }

theorem State.passNotices_delivery (outcomes : List (Pos × PassOutcome)) (s : State) (q : Pos) :
    (outcomes.foldl (fun u o => u.passNotice o.1 o.2) s).disp.delivery[q] =
      if q ∈ lossesOf outcomes then (s.disp.delivery[q]).lost else s.disp.delivery[q] := by
  refine passNotices_induct (fun u done => u.disp.delivery[q] =
    if q ∈ done then (s.disp.delivery[q]).lost else s.disp.delivery[q])
    (fun u done p h => ?_) (fun u done p h => h) outcomes s [] (by simp)
  have members : q ∈ done ++ [p] ↔ q ∈ done ∨ q = p := by simp
  have now : (u.lossNotice p).disp.delivery[q] = if q = p then (u.disp.delivery[q]).lost else u.disp.delivery[q] :=
    u.lossNotice_delivery p q
  rw [now, h, ite_ite_again Delivery.lost _ rfl, if_congr members rfl rfl]

/-- Losses of a state that differs in positions and wings, and a transmission at the end, are losses of the state. -/
theorem State.Loses.congr {s s' t t' : State} {gone : Pos → Bool} (h : s'.Loses t' gone)
    (hs : s.keeps s' [.pos, .wings]) (ht : t'.keeps t [.delivery, .screens, .sending]) : s.Loses t gone := by
  have sfloor : s'.floor = s.floor := hs .floor (by decide)
  have scal : s'.cal = s.cal := hs .cal (by decide)
  have sseats : s'.seats = s.seats := hs .seats (by decide)
  have smsg : s'.disp.messages = s.disp.messages := hs .messages (by decide)
  have scfg : s'.cfg = s.cfg := hs .cfg (by decide)
  have sclock : s'.clock = s.clock := hs .clock (by decide)
  have sphys : s'.phys = s.phys := funext fun i => by rw [State.phys, State.phys, sseats]
  have smic : s'.micOf = s.micOf := funext fun i => State.micOf_congr (hs .mic (by decide)) i
  have sok : s'.FloorOk = s.FloorOk := by
    rw [State.FloorOk, State.FloorOk, State.floorRuns, State.floorRuns, sfloor, scal,
      show s'.store = s.store from hs .store (by decide)]
  have sadv : s'.noAdvance = s.noAdvance := by rw [State.noAdvance, State.noAdvance, sfloor, scfg]
  have tfloor : t.floor = t'.floor := ht .floor (by decide)
  have tcal : t.cal = t'.cal := ht .cal (by decide)
  have tseats : t.seats = t'.seats := ht .seats (by decide)
  have tmsg : t.disp.messages = t'.disp.messages := ht .messages (by decide)
  have tmic : t.micOf = t'.micOf := funext fun i => State.micOf_congr (ht .mic (by decide)) i
  have tholds : t.holds = t'.holds := funext fun i => State.holds_congr (congrArg Floor.openList tfloor) i
  have tqueued : t.queued = t'.queued := funext fun i => State.queued_congr (congrArg Floor.queue tfloor) i
  have troom : t.room = t'.room := funext fun i => State.room_same
    (State.sameClasses_of tseats (by rw [tcal])) (congrArg Floor.openList tfloor) (congrArg Floor.maxOpen tfloor) i
  unfold State.Loses at h ⊢
  rw [tfloor, tcal, tseats, tmsg, tmic, tholds, tqueued, troom, ← sfloor, ← scal, ← sseats, ← smsg, ← scfg, ← sclock,
    ← sphys, ← smic, ← sok, ← sadv]
  exact h

end Sys2Proof.Machine

namespace Sys2Proof.Machine

/-! ## Carrier, and passes on request -/

section Carrier
variable (s : State) (w : Wing)

theorem exec_carrierGain : exec (.carrierGain w) s = whenPowered s fun s => s.carrierGain w := rfl

theorem exec_carrierLoss : exec (.carrierLoss w) s = whenPowered s fun s => s.carrierLoss w := rfl

theorem exec_enumerate (b : Byte) :
    exec (.enumerate b) s = s.runOp (.action Action.enumerate.code [b]) (State.enumerateAction b) := rfl

theorem State.wing_congr {s t : State} {l : List Piece} (h : s.keeps t l) (hl : .wings ∉ l) (v : Wing) :
    t.wing v = s.wing v := by
  obtain ⟨ha, hb⟩ := h .wings hl
  cases v
  · exact ha
  · exact hb

theorem State.carrierGain_wing : (s.carrierGain w).wing w = { s.wing w with
    carrier := true, state := .enumerating, passCycle := 0, passCount := none, reports := Vector.replicate 32 none } := by
  rw [State.carrierGain, State.startPass_wing, State.setWing_wing]

theorem State.carrierGain_wing_ne {v w : Wing} (h : v ≠ w) : (s.carrierGain w).wing v = s.wing v := by
  rw [State.carrierGain, State.startPass_wing_ne _ h, State.setWing_wing_ne _ h]

theorem State.carrierGain_keeps : s.keeps (s.carrierGain w) [.wings] :=
  State.keeps_trans (s.setWing_keeps w _) (State.startPass_keeps _ w)

/-- Where every position of the wing is ABSENT, and nothing else has changed. -/
def State.posDropped : State := { s with pos := mapAll s.pos fun p r => if wingOf p = w then r.lose else r }

theorem State.posDropped_keeps : s.keeps (s.posDropped w) [.pos] := by
  intro q hq; cases q <;> simp_all [State.agrees, State.posDropped]

/-- Where the wing lost its carrier, and no loss has been told yet. -/
def State.carrierDropped : State := (s.posDropped w).setWing w fun p => { p with
  state := .down, carrier := false, recorded := 0, assigned := 0, passCycle := 0, passCount := none,
  reports := Vector.replicate 32 none }

/-- The losses that a carrier loss tells, the lowest position first. -/
def State.carrierOutcomes : List (Pos × PassOutcome) :=
  (((numbers 32).map (wingPos w)).filter s.present).map fun p => (p, .lost)

theorem State.carrierLoss_eq :
    s.carrierLoss w = (s.carrierOutcomes w).foldl (fun u o => u.passNotice o.1 o.2) (s.carrierDropped w) := by
  rw [State.carrierOutcomes, List.foldl_map]
  rfl

theorem wingPos_place (p : Pos) : wingPos (wingOf p) (place p) = p := by
  revert p; decide

theorem wingOf_wingPos (i : Fin 32) : wingOf (wingPos w i) = w := by
  revert i; cases w <;> decide

theorem place_wingPos (i : Fin 32) : place (wingPos w i) = i := by
  revert i; cases w <;> decide

theorem State.mem_carrierLosses (p : Pos) :
    p ∈ (((numbers 32).map (wingPos w)).filter s.present) ↔ wingOf p = w ∧ s.pos[p].presence = .present := by
  rw [List.mem_filter, State.present, decide_eq_true_eq]
  refine and_congr_left fun _ => ⟨fun h => ?_, fun h => ?_⟩
  · obtain ⟨i, -, rfl⟩ := List.mem_map.1 h
    exact wingOf_wingPos w i
  · exact List.mem_map.2 ⟨place p, by simp, h ▸ wingPos_place p⟩

theorem State.lossesOf_carrier : lossesOf (s.carrierOutcomes w) = ((numbers 32).map (wingPos w)).filter s.present := by
  rw [lossesOf, State.carrierOutcomes, List.filter_map, List.map_map]
  simp [Function.comp_def]

theorem State.restartedBy_carrier :
    restartedBy (s.carrierOutcomes w) = ((numbers 32).map (wingPos w)).filter s.present := by
  rw [restartedBy, State.carrierOutcomes, List.filter_map, List.map_map]
  simp [Function.comp_def]

theorem State.carrierDropped_keeps : s.keeps (s.carrierDropped w) [.pos, .wings] := by
  exact State.keeps_trans (State.keeps_mono (s.posDropped_keeps w) (by decide))
    (State.keeps_mono (State.setWing_keeps _ w _) (by decide))

theorem State.passNotices_keeps (outcomes : List (Pos × PassOutcome)) :
    s.keeps (outcomes.foldl (fun u o => u.passNotice o.1 o.2) s) lossPieces :=
  State.foldl_keeps _ _ (fun (u : State) (o : Pos × PassOutcome) => u.passNotice_keeps o.1 o.2) _ _

theorem State.carrierLoss_keeps : (s.carrierDropped w).keeps (s.carrierLoss w) lossPieces := by
  rw [State.carrierLoss_eq]
  exact State.passNotices_keeps _ _

theorem State.carrierLoss_wing : (s.carrierLoss w).wing w = { s.wing w with
    state := .down, carrier := false, recorded := 0, assigned := 0, passCycle := 0, passCount := none,
    reports := Vector.replicate 32 none } := by
  rw [State.wing_congr (s.carrierLoss_keeps w) (by decide), State.carrierDropped, State.setWing_wing,
    State.wing_congr (s.posDropped_keeps w) (by decide)]

theorem State.carrierLoss_wing_ne {v w : Wing} (h : v ≠ w) : (s.carrierLoss w).wing v = s.wing v := by
  rw [State.wing_congr (s.carrierLoss_keeps w) (by decide), State.carrierDropped, State.setWing_wing_ne _ h,
    State.wing_congr (s.posDropped_keeps w) (by decide)]

theorem State.carrierLoss_pos (p : Pos) :
    (s.carrierLoss w).pos[p] = if wingOf p = w then (s.pos[p]).lose else s.pos[p] := by
  have h : (s.carrierLoss w).pos = (s.carrierDropped w).pos := s.carrierLoss_keeps w .pos (by decide)
  have hd : (s.carrierDropped w).pos = (s.posDropped w).pos := State.setWing_keeps _ w _ .pos (by decide)
  rw [h, hd, State.posDropped, mapAll_get]

theorem State.carrierLoss_level (p : Pos) : (s.carrierLoss w).level[p] =
    if wingOf p = w ∧ s.pos[p].presence = .present then (s.level[p]).zero else s.level[p] := by
  have h : (s.carrierDropped w).level = s.level := s.carrierDropped_keeps w .level (by decide)
  rw [State.carrierLoss_eq, State.passNotices_level, s.restartedBy_carrier, h, if_congr (s.mem_carrierLosses w p) rfl rfl]

theorem State.carrierLoss_delivery (p : Pos) : (s.carrierLoss w).disp.delivery[p] =
    if wingOf p = w ∧ s.pos[p].presence = .present then (s.disp.delivery[p]).lost else s.disp.delivery[p] := by
  have h : (s.carrierDropped w).disp.delivery = s.disp.delivery := s.carrierDropped_keeps w .delivery (by decide)
  rw [State.carrierLoss_eq, State.passNotices_delivery, s.lossesOf_carrier, h, if_congr (s.mem_carrierLosses w p) rfl rfl]

theorem State.carrierLoss_loses :
    s.Loses (s.carrierLoss w).ended fun p => decide (wingOf p = w ∧ s.pos[p].presence = .present) := by
  have h := (s.carrierDropped w).passNotices_loses (s.carrierOutcomes w)
  simp only [s.lossesOf_carrier, s.mem_carrierLosses w, ← s.carrierLoss_eq] at h
  exact h.congr (s.carrierDropped_keeps w) (State.keeps_mono (State.ended_keeps _) (by decide))

/-- What ENUMERATE of a wing leaves to the engine. -/
theorem State.startPass_owned {h : Hand} (hh : s.mgmt.hand = some h) (hr : s.mgmt.restart = .none) :
    s.Owned h (done (s.startPass w)) where
  hand := ⟨h.staged, by cases w <;> exact hh⟩
  requests := by cases w <;> rfl
  engine := by cases w <;> rfl
  none := hr
  restart := by cases w <;> exact hr
  sends := .of_eq (by cases w <;> rfl)
  goesOn := rfl

/-- An ENUMERATE that asks for a pass on a wing. -/
theorem State.enumerate_answered {b : Byte} (hr : s.reaches (.enumerate b) = true)
    (ho : s.enumerateAction b = done (s.startPass w)) :
    ∃ t, exec (.enumerate b) s = .next t ∧ s.keeps t (.wings :: opPieces) ∧ s.answered t .ok ∧ t.passStarts w ∧
      ∀ v, v ≠ w → t.wing v = s.wing v := by
  obtain ⟨op, h, hop, hh, hat, hc⟩ := State.reaches_iff.1 hr
  obtain rfl : Op.action Action.enumerate.code [b] = op := Option.some.inj hop
  have hrestart := (State.atOp_iff.1 hat).2.2.1
  obtain ⟨t, ht, hanswers⟩ := State.runOp_answers (State.enumerateAction b) hat hh hc
    (ho ▸ s.startPass_owned w hh hrestart) (by rw [ho]; rfl)
    (fun _ => by rw [ho]; exact ⟨s.startPass_keeps w .tables (by decide), by cases w <;> exact hh⟩)
  have ht' := State.runOp_owner (State.enumerateAction b) hat hh hc
  rw [ho] at ht' hanswers
  obtain rfl : t = _ := by simpa using ht.symm.trans ht'
  have keeps : (s.startPass w).keeps (State.finishOp (.action Action.enumerate.code [b]) (done (s.startPass w))).startSending
      opPieces := State.keeps_trans (State.finishOp_keeps _ _) (State.keeps_mono (State.startSending_keeps _) (by decide))
  refine ⟨_, (exec_enumerate s b).trans ht, ?_, hanswers, ?_, fun v hv => ?_⟩
  · exact State.keeps_trans (State.keeps_mono (s.startPass_keeps w) (by decide)) (State.keeps_mono keeps (by decide))
  · exact s.passStarts_of_wing (State.wing_congr keeps (by decide) w)
  · exact (State.wing_congr keeps (by decide) v).trans (s.startPass_wing_ne hv)

/-- An ENUMERATE of a wing above 1. -/
theorem State.enumerate_fails {b : Byte} (hr : s.reaches (.enumerate b) = true) (hb : 2 ≤ b.toNat) :
    ∃ t, exec (.enumerate b) s = .next t ∧ s.fails t .badValue := by
  obtain ⟨op, h, hop, hh, hat, hc⟩ := State.reaches_iff.1 hr
  obtain rfl : Op.action Action.enumerate.code [b] = op := Option.some.inj hop
  have ho : s.enumerateAction b = fail s .badValue := by
    unfold State.enumerateAction
    split
    · omega
    · omega
    · rfl
  exact State.runOp_fails (State.enumerateAction b) hat hh hc ho rfl

end Carrier

/-- Settles O12: a carrier gain and an ENUMERATE start a pass; a carrier loss tells the loss of each PRESENT position, the
lowest first, to the floor, the microphones, the levels and the displays. -/
theorem carrierGainLossAndEnumerate : Obligations.CarrierGainLossAndEnumerate := by
  unfold Obligations.CarrierGainLossAndEnumerate
  refine ⟨fun s w hp => ?_, fun s b hr => ?_, fun s w hp => ?_⟩
  · refine ⟨_, (exec_carrierGain s w).trans (whenPowered_next _ hp), ?_, ?_, fun v hv => ?_, ?_⟩
    · rw [State.passStarts, State.ended_wing, s.carrierGain_wing]
      exact ⟨rfl, rfl, rfl⟩
    · rw [State.ended_wing, s.carrierGain_wing]
    · rw [State.ended_wing, s.carrierGain_wing_ne hv]
    · exact State.keeps_ended (State.keeps_mono (s.carrierGain_keeps w) (by decide)) (by decide)
  · by_cases hb : 2 ≤ b.toNat
    · obtain ⟨t, ht, hf⟩ := s.enumerate_fails hr hb
      refine ⟨t, ht, State.keeps_mono hf.2.1 (by decide), ?_, ?_, fun _ => hf⟩
      · rintro rfl; simp at hb
      · rintro rfl; simp at hb
    · have hb' : b = 0 ∨ b = 1 := by bv_omega
      rcases hb' with rfl | rfl
      · obtain ⟨t, ht, hk, ha, hstart, hrest⟩ := s.enumerate_answered .a hr rfl
        exact ⟨t, ht, hk, fun _ => ⟨ha, hstart, hrest .b (by decide)⟩, fun k => absurd k (by decide), fun k => absurd k hb⟩
      · obtain ⟨t, ht, hk, ha, hstart, hrest⟩ := s.enumerate_answered .b hr rfl
        exact ⟨t, ht, hk, fun k => absurd k (by decide), fun _ => ⟨ha, hstart, hrest .a (by decide)⟩, fun k => absurd k hb⟩
  · refine ⟨_, (exec_carrierLoss s w).trans (whenPowered_next _ hp), ?_⟩
    have keeps : s.keeps (s.carrierLoss w) ([.pos, .wings] ++ lossPieces) :=
      State.keeps_trans (State.keeps_mono (s.carrierDropped_keeps w) (by decide))
        (State.keeps_mono (s.carrierLoss_keeps w) (by decide))
    have hended := State.ended_keeps (s.carrierLoss w)
    have hpos : (s.carrierLoss w).ended.pos = (s.carrierLoss w).pos := hended .pos (by decide)
    have hlevel : (s.carrierLoss w).ended.level = (s.carrierLoss w).level := hended .level (by decide)
    have hdelivery : (s.carrierLoss w).ended.disp.delivery = (s.carrierLoss w).disp.delivery := hended .delivery (by decide)
    refine ⟨State.keeps_ended keeps (by decide), ?_⟩
    rw [State.ended_wing, s.carrierLoss_wing, hpos, hlevel, hdelivery]
    refine ⟨rfl, rfl, rfl, rfl, rfl, rfl, fun i => ?_, fun v hv => ?_, fun p h => ?_, fun p h => ?_,
      fun p => ⟨fun h => ?_, fun h => ?_⟩, s.carrierLoss_loses w⟩
    · simp
    · rw [State.ended_wing, s.carrierLoss_wing_ne hv]
    · rw [s.carrierLoss_pos, if_pos h]
      exact ⟨rfl, rfl, rfl, rfl, rfl⟩
    · rw [s.carrierLoss_pos, if_neg h]
    · rw [s.carrierLoss_level, s.carrierLoss_delivery, if_neg (of_decide_eq_false h), if_neg (of_decide_eq_false h)]
      exact ⟨rfl, rfl⟩
    · rw [s.carrierLoss_level, s.carrierLoss_delivery, if_pos (of_decide_eq_true h), if_pos (of_decide_eq_true h)]
      exact ⟨rfl, rfl⟩

end Sys2Proof.Machine

namespace Sys2Proof.Machine

/-! ## The end of a pass -/

theorem PosRec.passOutcome_found {r : PosRec} (h : r.presence = .present) (t : Serial) :
    r.passOutcome (some t) = if r.serial = some t then .same else .newUnit := by
  unfold PosRec.passOutcome; simp only [h]

theorem PosRec.passOutcome_lost {r : PosRec} (h : r.presence = .present) : r.passOutcome none = .lost := by
  unfold PosRec.passOutcome; simp only [h]

theorem PosRec.passOutcome_became {r : PosRec} {found : Option Serial} (h : r.presence = .absent) (k : found ≠ none) :
    r.passOutcome found = .became := by
  obtain ⟨t, rfl⟩ := Option.ne_none_iff_exists'.1 k
  unfold PosRec.passOutcome; simp only [h]

theorem PosRec.passOutcome_stillAbsent {r : PosRec} (h : r.presence = .absent) : r.passOutcome none = .stillAbsent := by
  unfold PosRec.passOutcome; simp only [h]

/-- The unit of a PRESENT position is gone, is another, or is the one that was there; an ABSENT position has a unit, or none. -/
theorem PosRec.passOutcome_cases (r : PosRec) (found : Option Serial) :
    (r.presence = .present ∧ found = none ∧ r.passOutcome found = .lost) ∨
    (r.presence = .present ∧ found ≠ none ∧ found ≠ r.serial ∧ r.passOutcome found = .newUnit) ∨
    (r.presence = .present ∧ found ≠ none ∧ found = r.serial ∧ r.passOutcome found = .same) ∨
    (r.presence = .absent ∧ found ≠ none ∧ r.passOutcome found = .became) ∨
    (r.presence = .absent ∧ found = none ∧ r.passOutcome found = .stillAbsent) := by
  cases h : r.presence with
  | present =>
    cases found with
    | none => simp [PosRec.passOutcome_lost h]
    | some t =>
      by_cases k : r.serial = some t
      · simp [PosRec.passOutcome_found h, k]
      · simp [PosRec.passOutcome_found h, k, Ne.symm k]
  | absent =>
    cases found with
    | none => simp [PosRec.passOutcome_stillAbsent h]
    | some t => simp [PosRec.passOutcome_became h]

/-- What a pass decides, by what it found: the position is PRESENT exactly where it found a serial. -/
theorem PosRec.afterPass_presence (r : PosRec) (found : Option Serial) :
    (r.afterPass found).presence = if found.isSome then .present else .absent := by
  rw [PosRec.afterPass]
  rcases r.passOutcome_cases found with ⟨_, hf, h⟩ | ⟨_, hf, _, h⟩ | ⟨hp, hf, _, h⟩ | ⟨_, hf, h⟩ | ⟨hp, hf, h⟩ <;>
    rw [h] <;> simp_all [PosRec.lose, Option.isSome_iff_ne_none]

theorem PosRec.afterPass_serial (r : PosRec) (found : Option Serial) : (r.afterPass found).serial = match found with
    | some serial => some serial
    | none => r.serial := by
  rw [PosRec.afterPass]
  rcases r.passOutcome_cases found with ⟨_, rfl, h⟩ | ⟨_, hf, _, h⟩ | ⟨_, hf, hs, h⟩ | ⟨_, hf, h⟩ | ⟨_, rfl, h⟩ <;> rw [h]
  · rfl
  · obtain ⟨t, rfl⟩ := Option.ne_none_iff_exists'.1 hf; rfl
  · cases found <;> simp_all
  · obtain ⟨t, rfl⟩ := Option.ne_none_iff_exists'.1 hf; rfl

theorem PosRec.afterPass_loss (r : PosRec) (found : Option Serial) : (r.afterPass found).loss = 0 := by
  unfold PosRec.afterPass
  split <;> rfl

/-- A unit that stays, or a position that stays ABSENT, has its loss count cleared alone. -/
theorem PosRec.afterPass_same {r : PosRec} {found : Option Serial}
    (h : r.passOutcome found = .same ∨ r.passOutcome found = .stillAbsent) : r.afterPass found = { r with loss := 0 } := by
  unfold PosRec.afterPass
  rcases h with h | h <;> rw [h]

/-- A unit that is new, new-found or gone has no valid status and no card. -/
theorem PosRec.afterPass_other {r : PosRec} {found : Option Serial} (h : r.passOutcome found ≠ .same)
    (k : r.passOutcome found ≠ .stillAbsent) : (r.afterPass found).statusValid = false ∧ (r.afterPass found).card = none := by
  unfold PosRec.afterPass
  split
  · contradiction
  · contradiction
  · exact ⟨rfl, rfl⟩
  · exact ⟨rfl, rfl⟩
  · exact ⟨rfl, rfl⟩

/-- The unit is gone, or was replaced. -/
theorem PosRec.passOutcome_gone {r : PosRec} {found : Option Serial} :
    (r.passOutcome found = .lost ∨ r.passOutcome found = .newUnit) ↔
      r.presence = .present ∧ (found = none ∨ found ≠ r.serial) := by
  rcases r.passOutcome_cases found with ⟨hp, hf, h⟩ | ⟨hp, hf, hs, h⟩ | ⟨hp, hf, hs, h⟩ | ⟨hp, hf, h⟩ | ⟨hp, hf, h⟩ <;>
    simp_all

theorem PosRec.passOutcome_same {r : PosRec} {found : Option Serial} (h : r.presence = .present)
    (k : ¬ (found = none ∨ found ≠ r.serial)) : r.passOutcome found = .same := by
  rcases r.passOutcome_cases found with ⟨hp, hf, h⟩ | ⟨hp, hf, hs, h⟩ | ⟨hp, hf, hs, h⟩ | ⟨hp, hf, h⟩ | ⟨hp, hf, h⟩ <;>
    simp_all

section Pass
variable (s : State) (w : Wing)

theorem exec_enumerationPassEnd : exec (.enumerationPassEnd w) s = whenPowered s fun s => s.endPass w := rfl

/-- Where the pass has decided every position of the wing, and nothing else has changed. -/
def State.posDecided : State :=
  { s with pos := mapAll s.pos fun p r => if wingOf p = w then r.afterPass ((s.wing w).found (place p)) else r }

theorem State.posDecided_keeps : s.keeps (s.posDecided w) [.pos] := by
  intro q hq; cases q <;> simp_all [State.agrees, State.posDecided]

theorem State.posDecided_pos (p : Pos) : (s.posDecided w).pos[p] =
    if wingOf p = w then (s.pos[p]).afterPass ((s.wing w).found (place p)) else s.pos[p] := by
  rw [State.posDecided, mapAll_get]

/-- The wing as the pass leaves it. -/
def State.wingDecided : State := (s.posDecided w).setWing w fun q => { q with
  state := if (numbers 32).any fun i => (s.posDecided w).present (wingPos w i) then .running else .down
  recorded := (s.wing w).passCount.getD 0
  assigned := min 32 ((s.wing w).passCount.getD 0)
  scanPos := 0, passCycle := 0, passCount := none, reports := Vector.replicate 32 none }

theorem State.wingDecided_keeps : s.keeps (s.wingDecided w) [.pos, .wings] :=
  State.keeps_trans (State.keeps_mono (s.posDecided_keeps w) (by decide))
    (State.keeps_mono (State.setWing_keeps _ w _) (by decide))

/-- The outcomes of the positions of the wing, the lowest position first. -/
def State.passOutcomes : List (Pos × PassOutcome) :=
  (numbers 32).map fun i => (wingPos w i, s.pos[wingPos w i].passOutcome ((s.wing w).found i))

theorem State.finishPass_eq : s.finishPass w =
    ((s.passOutcomes w).foldl (fun u o => u.passNotice o.1 o.2) (s.wingDecided w)).forgetDisplays w := rfl

theorem State.mem_passOutcomes (p : Pos) (o : PassOutcome) : (p, o) ∈ s.passOutcomes w ↔
    wingOf p = w ∧ s.pos[p].passOutcome ((s.wing w).found (place p)) = o := by
  rw [State.passOutcomes, List.mem_map]
  constructor
  · rintro ⟨i, -, h⟩
    obtain ⟨rfl, rfl⟩ := Prod.mk.inj h
    exact ⟨wingOf_wingPos w i, by rw [place_wingPos]⟩
  · rintro ⟨rfl, rfl⟩
    refine ⟨place p, by simp, ?_⟩
    simp only [wingPos_place]

theorem State.mem_passLosses (p : Pos) : p ∈ lossesOf (s.passOutcomes w) ↔ wingOf p = w ∧ s.pos[p].presence = .present ∧
    ((s.wing w).found (place p) = none ∨ (s.wing w).found (place p) ≠ s.pos[p].serial) := by
  rw [← PosRec.passOutcome_gone, lossesOf, List.mem_map]
  constructor
  · rintro ⟨⟨q, o⟩, h, rfl⟩
    obtain ⟨hm, ho⟩ := List.mem_filter.1 h
    obtain ⟨hw, rfl⟩ := (s.mem_passOutcomes w q o).1 hm
    exact ⟨hw, of_decide_eq_true ho⟩
  · rintro ⟨hw, ho⟩
    exact ⟨(p, _), List.mem_filter.2 ⟨(s.mem_passOutcomes w p _).2 ⟨hw, rfl⟩, decide_eq_true ho⟩, rfl⟩

theorem State.mem_passRestarts (p : Pos) : p ∈ restartedBy (s.passOutcomes w) ↔ wingOf p = w ∧
    s.pos[p].passOutcome ((s.wing w).found (place p)) ≠ .same ∧
    s.pos[p].passOutcome ((s.wing w).found (place p)) ≠ .stillAbsent := by
  rw [restartedBy, List.mem_map]
  constructor
  · rintro ⟨⟨q, o⟩, h, rfl⟩
    obtain ⟨hm, ho⟩ := List.mem_filter.1 h
    obtain ⟨hw, rfl⟩ := (s.mem_passOutcomes w q o).1 hm
    exact ⟨hw, of_decide_eq_true ho⟩
  · rintro ⟨hw, ho⟩
    exact ⟨(p, _), List.mem_filter.2 ⟨(s.mem_passOutcomes w p _).2 ⟨hw, rfl⟩, decide_eq_true ho⟩, rfl⟩

/-- The notices, and what the composer forgets, follow the wing and its positions. -/
theorem State.finishPass_after : (s.wingDecided w).keeps (s.finishPass w) lossPieces := by
  rw [State.finishPass_eq]
  exact State.keeps_trans (State.passNotices_keeps _ _) (State.keeps_mono (State.forgetDisplays_keeps _ w) (by decide))

theorem State.finishPass_pos (p : Pos) : (s.finishPass w).pos[p] =
    if wingOf p = w then (s.pos[p]).afterPass ((s.wing w).found (place p)) else s.pos[p] := by
  have h : (s.finishPass w).pos = (s.wingDecided w).pos := s.finishPass_after w .pos (by decide)
  have hd : (s.wingDecided w).pos = (s.posDecided w).pos := State.setWing_keeps _ w _ .pos (by decide)
  rw [h, hd, s.posDecided_pos]

theorem State.finishPass_wing : (s.finishPass w).wing w = { s.wing w with
    state := if (numbers 32).any fun i => (s.posDecided w).present (wingPos w i) then .running else .down
    recorded := (s.wing w).passCount.getD 0
    assigned := min 32 ((s.wing w).passCount.getD 0)
    scanPos := 0, passCycle := 0, passCount := none, reports := Vector.replicate 32 none } := by
  rw [State.wing_congr (s.finishPass_after w) (by decide), State.wingDecided, State.setWing_wing,
    State.wing_congr (s.posDecided_keeps w) (by decide)]

theorem State.finishPass_wing_ne {v w : Wing} (h : v ≠ w) : (s.finishPass w).wing v = s.wing v := by
  rw [State.wing_congr (s.finishPass_after w) (by decide), State.wingDecided, State.setWing_wing_ne _ h,
    State.wing_congr (s.posDecided_keeps w) (by decide)]

/-- The wing has a PRESENT position exactly where the pass found a serial. -/
theorem State.posDecided_any : ((numbers 32).any fun i => (s.posDecided w).present (wingPos w i)) = true ↔
    ∃ i : Fin 32, ((s.wing w).found i).isSome = true := by
  rw [List.any_eq_true]
  have each : ∀ i : Fin 32, (s.posDecided w).present (wingPos w i) = ((s.wing w).found i).isSome := fun i => by
    rw [State.present, s.posDecided_pos, if_pos (wingOf_wingPos w i), PosRec.afterPass_presence, place_wingPos]
    cases ((s.wing w).found i).isSome <;> decide
  exact ⟨fun ⟨i, _, h⟩ => ⟨i, each i ▸ h⟩, fun ⟨i, h⟩ => ⟨i, List.mem_finRange i, (each i).trans h⟩⟩

theorem State.finishPass_level (p : Pos) : (s.finishPass w).level[p] =
    if p ∈ restartedBy (s.passOutcomes w) then (s.level[p]).zero else s.level[p] := by
  have h : (s.wingDecided w).level = s.level := s.wingDecided_keeps w .level (by decide)
  rw [State.finishPass_eq]
  refine (congrArg (fun l : Vector LevelRec 64 => l[p]) (State.forgetDisplays_keeps _ w .level (by decide))).trans ?_
  refine (State.passNotices_level _ _ p).trans ?_
  rw [h]

/-- The composer knows nothing of a display of the wing, and sends it nothing. -/
theorem State.finishPass_forgets {p : Pos} (h : wingOf p = w) :
    (s.finishPass w).disp.delivery[p].known = none ∧ (s.finishPass w).disp.delivery[p].transfer = none := by
  rw [State.finishPass_eq, State.forgetDisplays]
  simp only [mapAll_get, h, if_true]
  exact ⟨trivial, trivial⟩

theorem State.finishPass_loses : s.Loses (s.finishPass w).ended fun p => decide (wingOf p = w ∧
    s.pos[p].presence = .present ∧
    ((s.wing w).found (place p) = none ∨ (s.wing w).found (place p) ≠ s.pos[p].serial)) := by
  have h := (s.wingDecided w).passNotices_loses (s.passOutcomes w)
  simp only [s.mem_passLosses w] at h
  refine h.congr (s.wingDecided_keeps w) ?_
  rw [State.finishPass_eq]
  exact State.keeps_trans (State.keeps_mono (State.forgetDisplays_keeps _ w) (by decide))
    (State.keeps_mono (State.ended_keeps _) (by decide))

end Pass

/-- Settles O15: the end of a pass decides every position of the wing, and tells the loss of each unit that is gone or was
replaced. -/
theorem aPassDecidesEveryPosition : Obligations.APassDecidesEveryPosition := by
  unfold Obligations.APassDecidesEveryPosition
  intro s w hp hst hcycle gone
  have ends : s.endPass w = s.finishPass w := by
    rw [State.endPass, WingPort.passEnds, hst, hcycle]
    rfl
  refine ⟨(s.finishPass w).ended, ?_, ?_⟩
  · rw [exec_enumerationPassEnd, whenPowered_next _ hp, ends]
  have hended := State.ended_keeps (s.finishPass w)
  have hpos : (s.finishPass w).ended.pos = (s.finishPass w).pos := hended .pos (by decide)
  have hlevel : (s.finishPass w).ended.level = (s.finishPass w).level := hended .level (by decide)
  have hdelivery : (s.finishPass w).ended.disp.delivery = (s.finishPass w).disp.delivery := hended .delivery (by decide)
  rw [hpos, hlevel, hdelivery, State.ended_wing, s.finishPass_wing]
  have kept : ∀ p, (s.pos[p].passOutcome ((s.wing w).found (place p)) = .same ∨
      s.pos[p].passOutcome ((s.wing w).found (place p)) = .stillAbsent) → wingOf p = w →
      (s.finishPass w).pos[p] = { s.pos[p] with loss := 0 } ∧ (s.finishPass w).level[p] = s.level[p] := fun p h hw => by
    rw [s.finishPass_pos, if_pos hw, PosRec.afterPass_same h, s.finishPass_level,
      if_neg fun k => ((s.mem_passRestarts w p).1 k).2.elim fun a b => h.elim a b]
    exact ⟨rfl, rfl⟩
  refine ⟨State.keeps_ended (State.keeps_mono (s.finishPass_keeps w) (by decide)) (by decide), fun i => ?_,
    fun p hw => ⟨fun h hg => ?_, fun h hf => ?_, fun h => ?_⟩, fun p hw => ?_, rfl, rfl, rfl, ?_, fun v hv => ?_,
    s.finishPass_loses w⟩
  · rw [s.finishPass_pos, if_pos (wingOf_wingPos w i), PosRec.afterPass_presence, PosRec.afterPass_serial,
      PosRec.afterPass_loss, place_wingPos]
    exact ⟨rfl, rfl, rfl, s.finishPass_forgets w (wingOf_wingPos w i)⟩
  · exact kept p (.inl (PosRec.passOutcome_same h fun k => of_decide_eq_false hg ⟨hw, h, k⟩)) hw
  · exact kept p (.inr (by rw [hf]; exact PosRec.passOutcome_stillAbsent h)) hw
  · have other : s.pos[p].passOutcome ((s.wing w).found (place p)) ≠ .same ∧
        s.pos[p].passOutcome ((s.wing w).found (place p)) ≠ .stillAbsent := by
      rcases h with h | ⟨h, hf⟩
      · rcases PosRec.passOutcome_gone.2 (of_decide_eq_true h).2 with k | k <;> rw [k] <;> exact ⟨by decide, by decide⟩
      · rw [PosRec.passOutcome_became h hf]
        exact ⟨by decide, by decide⟩
    obtain ⟨hstatus, hcard⟩ := PosRec.afterPass_other other.1 other.2
    rw [s.finishPass_pos, if_pos hw, s.finishPass_level, if_pos ((s.mem_passRestarts w p).2 ⟨hw, other⟩)]
    exact ⟨hstatus, hcard, rfl, rfl, rfl, rfl⟩
  · rw [s.finishPass_pos, if_neg hw, s.finishPass_level, if_neg fun k => hw ((s.mem_passRestarts w p).1 k).1]
    exact ⟨rfl, rfl⟩
  · by_cases h : ∃ i : Fin 32, ((s.wing w).found i).isSome = true
    · simp only [h, if_true, (s.posDecided_any w).2 h]
    · simp only [h, if_false, mt (s.posDecided_any w).1 h]
      rfl
  · rw [State.ended_wing, s.finishPass_wing_ne hv]

end Sys2Proof.Machine

namespace Sys2Proof.Machine

/-! ## A single loss -/

section Single
variable (s : State) (p : Pos)

theorem State.stays_one (i : Seat) : s.stays [p] i = decide (i ≠ s.logical p) := by
  rw [← List.nil_append [p], s.stays_append, s.stays_nil, Bool.true_and]

/-- The loss of one position, where no check can grant. -/
theorem State.lossNotice_quiet (hs : s.cal.session = .inSession) (hq : s.noAdvance) :
    (s.lossNotice p).floor.openList = s.floor.openList.filter fun e => e.seat ≠ s.logical p := by
  have h : s.LostQuiet (s.lossNotice p) [p] := s.passNotices_quiet ⟨by simp [hs], by simp [hs]⟩ hq [(p, .lost)]
  simpa only [s.stays_one] using h.openList

/-- The loss of one position whose seat does not hold the floor. -/
theorem State.lossNotice_withdraws (hh : s.holds (s.logical p) = false) :
    (s.lossNotice p).floor.openList = s.floor.openList ∧
    (s.lossNotice p).floor.queue = s.floor.queue.filter fun e => e.seat ≠ s.logical p := by
  obtain ⟨hopen, hqueue, -⟩ := s.lossNotice_after p
  have e : s.leavesLost (s.logical p) = s.withdraw (s.logical p) .lost := by simp [State.leavesLost, hh]
  rw [hopen, hqueue, e, s.withdraw_openList, s.withdraw_floor]
  exact ⟨rfl, rfl⟩

/-- The loss of one position in GRACE: its seat leaves; the last holder's begins CLOSING. -/
theorem State.lossNotice_grace (hs : s.cal.session = .grace) :
    (s.lossNotice p).floor.openList = s.floor.openList.filter (fun e => e.seat ≠ s.logical p) ∧
    (s.holds (s.logical p) = true → (∀ i, i ≠ s.logical p → s.holds i = false) → (s.lossNotice p).floor.queue = [] ∧
      (s.lossNotice p).cal.lastReport.map (·.cause) = some .floorEmpty ∧ (s.lossNotice p).cal.session ≠ .grace) := by
  have h : s.GraceGoesOn (s.lossNotice p) [p] ∨ s.GraceEnds (s.lossNotice p) [p] := s.passNotices_grace hs [(p, .lost)]
  rcases h with h | h
  · have hopen : (s.lossNotice p).floor.openList = s.floor.openList.filter fun e => e.seat ≠ s.logical p := by
      simpa only [s.stays_one] using h.openList
    refine ⟨hopen, fun hh hothers => ?_⟩
    have nobody : s.floor.openList.filter (fun e => e.seat ≠ s.logical p) = [] := by
      rw [List.filter_eq_nil_iff]
      intro e he hne
      have := (s.holds_false_iff e.seat).1 (hothers e.seat (of_decide_eq_true hne)) e he
      exact this rfl
    rcases h.someone with k | k
    · obtain ⟨e, he, -⟩ := (s.holds_iff _).1 hh
      rw [k] at he
      cases he
    · exact absurd (hopen.trans nobody) k
  · have hgone : s.floor.openList.filter (fun e => e.seat ≠ s.logical p) = [] := by
      simpa only [s.stays_one] using h.gone
    exact ⟨h.openList.trans hgone.symm, fun _ _ => ⟨h.queue, h.report, h.session⟩⟩

end Single

/-! ## Upstream slots -/

section Slots
variable (s : State) (p : Pos)

theorem exec_upstreamSlot (raw : List Byte) : exec (.upstreamSlot p raw) s = whenPowered s fun s => s.upstreamSlot p raw := rfl

/-- A slot of the position is taken: its record, its level and its chunk's report. -/
def State.slotTaken (f : PosRec → PosRec) (b : Block) (delivered : Bool) : State :=
  ((s.setPos p f).levelBlock p b).chunkReport p delivered

variable (f : PosRec → PosRec) (b : Block) (delivered : Bool)

theorem State.slotTaken_pos : (s.slotTaken p f b delivered).pos[p] = f (s.pos[p]) := modify_get_self s.pos p f

theorem State.slotTaken_pos_ne {q : Pos} (h : q ≠ p) : (s.slotTaken p f b delivered).pos[q] = s.pos[q] :=
  modify_get_ne s.pos h f

theorem State.slotTaken_level : (s.slotTaken p f b delivered).level[p] = (s.level[p]).take s.cfg b :=
  modify_get_self s.level p _

theorem State.slotTaken_level_ne {q : Pos} (h : q ≠ p) : (s.slotTaken p f b delivered).level[q] = s.level[q] :=
  modify_get_ne s.level h _

theorem State.slotTaken_delivery :
    (s.slotTaken p f b delivered).disp.delivery[p] = (s.disp.delivery[p]).report delivered :=
  modify_get_self s.disp.delivery p _

theorem State.slotTaken_delivery_ne {q : Pos} (h : q ≠ p) :
    (s.slotTaken p f b delivered).disp.delivery[q] = s.disp.delivery[q] :=
  modify_get_ne s.disp.delivery h _

theorem State.chunkReport_keeps : s.keeps (s.chunkReport p delivered) [.delivery] := by
  intro q hq; cases q <;> simp_all [State.agrees, State.chunkReport]

theorem State.slotTaken_keeps : s.keeps (s.slotTaken p f b delivered) [.pos, .level, .delivery] := by
  refine State.keeps_trans (State.keeps_mono (s.setPos_keeps p f) (by decide)) (State.keeps_trans ?_
    (State.keeps_mono (State.chunkReport_keeps _ p delivered) (by decide)))
  intro q hq; cases q <;> simp_all [State.agrees, State.levelBlock]

/-- A live position's wing is not in a pass. -/
theorem State.live_not_enumerating (h : s.live p = true) : (s.wing (wingOf p)).state ≠ .enumerating := by
  intro k
  simp [State.live, WingPort.inUse, k] at h

theorem State.upstreamSlot_good {raw : List Byte} {u : UpSlot} (h : s.live p = true) (hu : readUpSlot raw = some u) :
    s.upstreamSlot p raw = s.goodSlot p u := by
  rw [State.upstreamSlot, if_neg (s.live_not_enumerating p h), if_pos h, hu]

theorem State.upstreamSlot_bad {raw : List Byte} (h : s.live p = true) (hu : readUpSlot raw = none) :
    s.upstreamSlot p raw = s.badSlot p := by
  rw [State.upstreamSlot, if_neg (s.live_not_enumerating p h), if_pos h, hu]

/-- A slot that is not taken. -/
theorem State.upstreamSlot_idle {raw : List Byte} (h : s.live p = false) (hs : (s.wing (wingOf p)).state ≠ .enumerating) :
    s.upstreamSlot p raw = s := by
  rw [State.upstreamSlot, if_neg hs, if_neg (by simp [h])]

theorem State.goodSlot_eq (u : UpSlot) : s.goodSlot p u = s.slotTaken p (fun r => { r with
    slot := .good, block := u.block, loss := 0, answer := if s.scanned p then u.answer else none, event := u.press })
    u.block true := rfl

/-- The record of a position whose slot is bad. -/
def PosRec.silent (r : PosRec) : PosRec := { r with slot := .bad, block := silence, answer := none, event := none }

theorem State.badSlot_kept (h : s.pos[p].loss < 2) : s.badSlot p =
    (s.slotTaken p PosRec.silent silence false).setPos p fun r => { r with loss := r.loss + 1 } := by
  rw [State.badSlot]
  exact if_pos h

/-- Where the third bad slot in a row has made the position ABSENT, and the loss has not been told yet. -/
def State.slotDropped : State :=
  ((s.slotTaken p PosRec.silent silence false).setPos p PosRec.lose).setWing (wingOf p) fun q =>
    if q.state = .running then { q with state := .degraded } else q

theorem State.badSlot_lost (h : ¬ s.pos[p].loss < 2) : s.badSlot p = (s.slotDropped p).lossNotice p := by
  rw [State.badSlot]
  exact if_neg h

theorem State.slotDropped_keeps : s.keeps (s.slotDropped p) [.pos, .wings, .level, .delivery] :=
  State.keeps_trans (State.keeps_mono (s.slotTaken_keeps p PosRec.silent silence false) (by decide))
    (State.keeps_trans (State.keeps_mono (State.setPos_keeps _ p PosRec.lose) (by decide))
      (State.keeps_mono (State.setWing_keeps _ _ _) (by decide)))

theorem State.slotDropped_pos : (s.slotDropped p).pos[p] = (s.pos[p]).silent.lose := by
  have h : (s.slotDropped p).pos = ((s.slotTaken p PosRec.silent silence false).setPos p PosRec.lose).pos :=
    State.setWing_keeps _ _ _ .pos (by decide)
  rw [h]
  refine (modify_get_self _ p PosRec.lose).trans ?_
  rw [s.slotTaken_pos]

theorem State.slotDropped_pos_ne {q : Pos} (hq : q ≠ p) : (s.slotDropped p).pos[q] = s.pos[q] := by
  have h : (s.slotDropped p).pos = ((s.slotTaken p PosRec.silent silence false).setPos p PosRec.lose).pos :=
    State.setWing_keeps _ _ _ .pos (by decide)
  rw [h]
  refine (modify_get_ne _ hq PosRec.lose).trans ?_
  rw [s.slotTaken_pos_ne p _ _ _ hq]

theorem State.slotDropped_wing (h : s.live p = true) : ((s.slotDropped p).wing (wingOf p)).state = .degraded := by
  have hw : ((s.slotTaken p PosRec.silent silence false).setPos p PosRec.lose).wing (wingOf p) = s.wing (wingOf p) :=
    State.wing_congr (State.keeps_trans (State.keeps_mono (s.slotTaken_keeps p _ _ _) (by decide))
      (State.keeps_mono (State.setPos_keeps _ p _) (by decide)) : s.keeps _ [.pos, .level, .delivery]) (by decide) _
  rw [State.slotDropped, State.setWing_wing, hw]
  have : (s.wing (wingOf p)).state = .running ∨ (s.wing (wingOf p)).state = .degraded := by
    have h := h
    rw [State.live, Bool.and_eq_true] at h
    simpa [WingPort.inUse] using h.2
  rcases this with k | k <;> simp [k]

theorem State.slotDropped_level : (s.slotDropped p).level[p] = (s.level[p]).take s.cfg silence := by
  have h : (s.slotDropped p).level = (s.slotTaken p PosRec.silent silence false).level :=
    (State.keeps_trans (State.keeps_mono (State.setPos_keeps _ p PosRec.lose) (by decide))
      (State.keeps_mono (State.setWing_keeps _ _ _) (by decide)) : State.keeps _ _ [.pos, .wings]) .level (by decide)
  rw [h, s.slotTaken_level]

/-- A block of silence counts no clip. -/
theorem LevelRec.take_silence_clips (cfg : Settings) (l : LevelRec) : (l.take cfg silence).clips = l.clips := by
  have h : atEnds silence = false := by decide
  rw [LevelRec.take, h]
  rfl

/-- A slot of a wing in a pass is an IDENTIFY report and a delivery report at most. -/
theorem State.upstreamSlot_enumerating {raw : List Byte} (hs : (s.wing (wingOf p)).state = .enumerating) :
    s.upstreamSlot p raw =
      (((readUpSlot raw).elim s fun u => s.identify p u)).chunkReport p (readUpSlot raw).isSome := by
  rw [State.upstreamSlot, if_pos hs]
  cases readUpSlot raw <;> rfl

theorem State.identify_keeps (u : UpSlot) : s.keeps (s.identify p u) [.wings] := by
  unfold State.identify
  split
  · exact s.setWing_keeps _ _
  · exact s.keeps_refl _

theorem State.identify_wing_ne (u : UpSlot) {v : Wing} (h : v ≠ wingOf p) : (s.identify p u).wing v = s.wing v := by
  unfold State.identify
  split
  · exact s.setWing_wing_ne h _
  · rfl

theorem State.identify_wing (u : UpSlot) : (s.identify p u).wing (wingOf p) =
    if (s.wing (wingOf p)).command = .identify ∧ 2 ≤ (s.wing (wingOf p)).passCycle ∧ u.status = 2 then
      { s.wing (wingOf p) with reports := (s.wing (wingOf p)).reports.set (place p) (some u.serial) }
    else s.wing (wingOf p) := by
  unfold State.identify
  split
  · exact s.setWing_wing _ _
  · rfl

end Slots

/-- What a slot carries of a press and of a status word. -/
theorem UpSlot.carries (u : UpSlot) : (u.event = 1 → u.press = some .button) ∧ (u.event = 2 → u.press = some .priority) ∧
    (u.event ≠ 1 → u.event ≠ 2 → u.press = none) ∧ (u.status ≠ 1 → u.answer = none) ∧
    (u.status = 1 → u.present = false → u.answer = some (none, u.serial)) ∧
    (u.status = 1 → u.present = true → ∀ k : Key, u.key = k.val → u.answer = some (some k, u.serial)) ∧
    (u.status = 1 → u.present = true → 16 ≤ u.key → u.answer = none) := by
  refine ⟨fun h => by simp only [UpSlot.press, h], fun h => by simp only [UpSlot.press, h], fun h k => ?_, fun h => if_pos h,
    fun h k => ?_, fun h k key hk => ?_, fun h k hk => ?_⟩
  · unfold UpSlot.press
    split <;> first | contradiction | rfl
  · simp [UpSlot.answer, h, k]
  · simp [UpSlot.answer, h, k, keyOf, hk]
  · simp [UpSlot.answer, h, k, keyOf, hk]

/-- The loss at the third bad slot in a row, before the end of the command. -/
theorem State.thirdBadSlot (s : State) (p : Pos) (hl : s.live p = true) :
    let t := (s.slotDropped p).lossNotice p
    s.keeps t ([.pos, .wings] ++ lossPieces) ∧ t.pos[p] = (s.pos[p]).silent.lose ∧
    (∀ q, q ≠ p → t.pos[q] = s.pos[q]) ∧ (t.wing (wingOf p)).state = .degraded ∧
    t.level[p] = ((s.level[p]).take s.cfg silence).zero ∧ t.disp.delivery[p].known = none ∧
    t.disp.delivery[p].transfer = none ∧ (t.micOf (s.logical p)).state = .closed ∧
    t.disp.messages[s.logical p] = none := by
  intro t
  have keeps := (s.slotDropped p).lossNotice_keeps p
  have hpos : t.pos = (s.slotDropped p).pos := keeps .pos (by decide)
  have hlog : (s.slotDropped p).logical p = s.logical p :=
    State.logical_congr (congrArg SeatTable.chair (s.slotDropped_keeps p .seats (by decide))) p
  obtain ⟨hclosed, hmsg, -⟩ := (s.slotDropped p).lossNotice_cleared p
  refine ⟨State.keeps_trans (State.keeps_mono (s.slotDropped_keeps p) (by decide)) (State.keeps_mono keeps (by decide)),
    by rw [hpos, s.slotDropped_pos], fun q hq => by rw [hpos, s.slotDropped_pos_ne p hq], ?_, ?_, ?_, ?_,
    by rw [← hlog]; exact hclosed, by simpa only [hlog] using hmsg⟩
  · rw [State.wing_congr keeps (by decide)]
    exact s.slotDropped_wing p hl
  · rw [State.lossNotice_level, if_pos rfl, s.slotDropped_level]
  · rw [State.lossNotice_delivery, if_pos rfl]
  · rw [State.lossNotice_delivery, if_pos rfl]

/-- Settles O13: a good slot, a bad one, the third bad one in a row, a slot of a wing in a pass, and a slot that is not
taken. -/
theorem goodAndBadSlotsAreTaken : Obligations.GoodAndBadSlotsAreTaken := by
  unfold Obligations.GoodAndBadSlotsAreTaken
  refine ⟨fun s p raw u hp hl hu => ?_, UpSlot.carries, fun s p raw hp hl hu => ?_, fun s p raw hp hs => ?_,
    fun s p raw hl hs => ?_⟩
  · refine ⟨(s.goodSlot p u).ended, by rw [exec_upstreamSlot, whenPowered_next _ hp, s.upstreamSlot_good p hl hu], ?_⟩
    have hended := State.ended_keeps (s.goodSlot p u)
    have hpos : (s.goodSlot p u).ended.pos = (s.goodSlot p u).pos := hended .pos (by decide)
    have hlevel : (s.goodSlot p u).ended.level = (s.goodSlot p u).level := hended .level (by decide)
    have hdelivery : (s.goodSlot p u).ended.disp.delivery = (s.goodSlot p u).disp.delivery := hended .delivery (by decide)
    rw [hpos, hlevel, hdelivery, s.goodSlot_eq]
    refine ⟨?_, fun q hq => s.slotTaken_pos_ne p _ _ _ hq, s.slotTaken_level p _ _ _,
      fun q hq => s.slotTaken_level_ne p _ _ _ hq, s.slotTaken_delivery p _ _ _,
      fun q hq => s.slotTaken_delivery_ne p _ _ _ hq,
      State.keeps_ended (State.keeps_mono (s.slotTaken_keeps p _ _ _) (by decide)) (by decide)⟩
    rw [s.slotTaken_pos]
    congr 1
    exact if_congr decide_eq_true_iff rfl rfl
  · refine ⟨(s.badSlot p).ended, by rw [exec_upstreamSlot, whenPowered_next _ hp, s.upstreamSlot_bad p hl hu], ?_⟩
    have hended := State.ended_keeps (s.badSlot p)
    have hpos : (s.badSlot p).ended.pos = (s.badSlot p).pos := hended .pos (by decide)
    have hlevel : (s.badSlot p).ended.level = (s.badSlot p).level := hended .level (by decide)
    have hdelivery : (s.badSlot p).ended.disp.delivery = (s.badSlot p).disp.delivery := hended .delivery (by decide)
    have hmsg : (s.badSlot p).ended.disp.messages = (s.badSlot p).disp.messages := hended .messages (by decide)
    have hfloor : (s.badSlot p).ended.floor = (s.badSlot p).floor := hended .floor (by decide)
    have hcal : (s.badSlot p).ended.cal = (s.badSlot p).cal := hended .cal (by decide)
    rw [hpos, hlevel, hdelivery, hmsg, hfloor, hcal, State.ended_wing, State.ended_micOf]
    by_cases hloss : s.pos[p].loss < 2
    · rw [s.badSlot_kept p hloss]
      have kept := State.keeps_trans (s.slotTaken_keeps p PosRec.silent silence false)
        (State.keeps_mono (State.setPos_keeps _ p fun r => { r with loss := r.loss + 1 }) (by decide))
      refine ⟨fun q hq => ?_, fun _ => ⟨?_, s.slotTaken_level p PosRec.silent _ false,
        s.slotTaken_delivery p PosRec.silent silence _,
        State.keeps_ended (State.keeps_mono kept (by decide)) (by decide)⟩, fun k => absurd hloss (by omega)⟩
      · exact (modify_get_ne _ hq _).trans (s.slotTaken_pos_ne p _ _ _ hq)
      · refine (modify_get_self _ p _).trans ?_
        rw [s.slotTaken_pos]
        rfl
    · rw [s.badSlot_lost p hloss]
      obtain ⟨keeps, tpos, tne, twing, tlevel, tknown, ttransfer, tclosed, tmsg⟩ := s.thirdBadSlot p hl
      have hkept := s.slotDropped_keeps p
      have dfloor : (s.slotDropped p).floor = s.floor := hkept .floor (by decide)
      have dcal : (s.slotDropped p).cal = s.cal := hkept .cal (by decide)
      have hlog : (s.slotDropped p).logical p = s.logical p :=
        State.logical_congr (congrArg SeatTable.chair (hkept .seats (by decide))) p
      have dholds : ∀ i, (s.slotDropped p).holds i = s.holds i := State.holds_congr (congrArg Floor.openList dfloor)
      refine ⟨tne, fun k => absurd k hloss, fun _ => ⟨State.keeps_ended keeps (by decide), ?_⟩⟩
      rw [tpos, tlevel]
      refine ⟨rfl, rfl, rfl, rfl, rfl, twing, rfl, rfl, LevelRec.take_silence_clips s.cfg _, tknown, ttransfer, tclosed, tmsg,
        fun hs hm => ?_, fun _ hh => ?_, fun hs => ?_, fun hs hh hothers => ?_⟩
      · have := (s.slotDropped p).lossNotice_quiet p (by rw [dcal, hs]) (.inl (by rw [dfloor]; exact hm))
        rwa [dfloor, hlog] at this
      · have := (s.slotDropped p).lossNotice_withdraws p (by rw [hlog, dholds, hh])
        rwa [dfloor, hlog] at this
      · have := ((s.slotDropped p).lossNotice_grace p (by rw [dcal, hs])).1
        rwa [dfloor, hlog] at this
      · exact ((s.slotDropped p).lossNotice_grace p (by rw [dcal, hs])).2 (by rw [hlog, dholds, hh])
          fun i hi => by rw [dholds]; exact hothers i (by rw [← hlog]; exact hi)
  · refine ⟨(s.upstreamSlot p raw).ended, by rw [exec_upstreamSlot, whenPowered_next _ hp], ?_⟩
    have hended := State.ended_keeps (s.upstreamSlot p raw)
    have hdelivery : (s.upstreamSlot p raw).ended.disp.delivery = (s.upstreamSlot p raw).disp.delivery :=
      hended .delivery (by decide)
    set v := (readUpSlot raw).elim s fun u => s.identify p u with hv
    have vkeeps : s.keeps v [.wings] := by
      rw [hv]
      cases readUpSlot raw with
      | none => exact s.keeps_refl _
      | some u => exact s.identify_keeps p u
    have vdelivery : v.disp.delivery = s.disp.delivery := vkeeps .delivery (by decide)
    have taken : s.upstreamSlot p raw = v.chunkReport p (readUpSlot raw).isSome := s.upstreamSlot_enumerating p hs
    have wing : ∀ x, (s.upstreamSlot p raw).wing x = v.wing x := fun x => by
      rw [taken]
      exact State.wing_congr (State.chunkReport_keeps _ p _) (by decide) x
    rw [hdelivery]
    simp only [State.ended_wing, wing]
    refine ⟨State.keeps_ended ?_ (by decide), ?_, fun q hq => ?_, fun x hx => ?_, fun u hu => ⟨fun h1 h2 h3 => ?_, fun h => ?_⟩,
      fun hu => ?_⟩
    · rw [taken]
      exact State.keeps_trans (State.keeps_mono vkeeps (by decide))
        (State.keeps_mono (State.chunkReport_keeps _ p _) (by decide))
    · rw [taken]
      refine (modify_get_self v.disp.delivery p _).trans ?_
      rw [vdelivery]
    · rw [taken]
      refine (modify_get_ne v.disp.delivery hq _).trans ?_
      rw [vdelivery]
    · rw [hv]
      cases readUpSlot raw with
      | none => rfl
      | some u => exact s.identify_wing_ne p u hx
    · rw [hv, hu]
      exact (s.identify_wing p u).trans (if_pos ⟨h2, h3, h1⟩)
    · rw [hv, hu]
      exact (s.identify_wing p u).trans (if_neg fun k => h.elim (fun a => a k.2.2) fun a => a k.1)
    · rw [hv, hu]
      rfl
  · rw [exec_upstreamSlot]
    exact whenPowered_idle _ (s.upstreamSlot_idle p hl hs)

end Sys2Proof.Machine

namespace Sys2Proof.Machine

/-! ## A removal through the close gap -/

section Removal
variable {s v t : State} {seat : Seat} {r : Reason}

/-- In GRACE the removal of the last holder begins CLOSING, which its microphone, still in its close gap, keeps from
completing. -/
theorem State.removal_closes (hr : r.atOnce = false) (hh : v.holds seat = true) (hg : v.cal.session = .grace)
    (hmic : (v.micOf seat).state = .opening ∨ (v.micOf seat).state = .opened)
    (hlast : v.floor.openList.filter (fun x => x.seat ≠ seat) = []) :
    v.removeThenAdvance seat r = (v.removeCore seat r).closingBegun .floorEmpty ∧
      (((v.removeCore seat r).closingBegun .floorEmpty).micOf seat).state = .closing := by
  have hempty : (v.removeCore seat r).floor.openList = [] := (v.removeCore_openList seat r).trans hlast
  have hclosing : (((v.removeCore seat r).closingBegun .floorEmpty).micOf seat).state = .closing := by
    have core : ((v.removeCore seat r).micOf seat).state = .closing := by
      rw [v.removeCore_micOf seat seat r hr hh, v.micRemove_micOf, if_pos ⟨rfl, hmic⟩]
    rw [(v.removeCore seat r).closingBegun_micOf .floorEmpty hempty]
    split <;> exact core
  refine ⟨?_, hclosing⟩
  rcases v.removeThenAdvance_cases seat r hh with ⟨-, -, e⟩ | ⟨hn, -⟩
  · rw [e, State.startClosing_eq]
    exact State.reportClosed_of_open _ (i := seat) (by rw [hclosing]; decide)
  · exact absurd ⟨hg, hempty⟩ hn

/-- A removal of a holder through its close gap, from a state that differs in its positions, with what ends a command: the
seat leaves the floor. -/
theorem State.leavesTheFloor_of_removal (hv : s.keeps v [.pos]) (ht : (v.removeThenAdvance seat r).keeps t screenPieces)
    (hr : r.atOnce = false) (hh : s.holds seat = true)
    (hmic : (s.micOf seat).state = .opening ∨ (s.micOf seat).state = .opened) (hq : s.noAdvance) :
    s.LeavesTheFloor t seat := by
  have vfloor : v.floor = s.floor := hv .floor (by decide)
  have vcal : v.cal = s.cal := hv .cal (by decide)
  have vcfg : v.cfg = s.cfg := hv .cfg (by decide)
  have vmic : ∀ i, v.micOf i = s.micOf i := State.micOf_congr (hv .mic (by decide))
  have vholds : v.holds seat = true := by rw [State.holds_congr (congrArg Floor.openList vfloor)]; exact hh
  have tfloor : t.floor = (v.removeThenAdvance seat r).floor := ht .floor (by decide)
  have tcal : t.cal = (v.removeThenAdvance seat r).cal := ht .cal (by decide)
  have tclock : t.clock = s.clock := (ht .clock (by decide)).trans
    ((v.removeThenAdvance_keeps seat r .clock (by decide)).trans (hv .clock (by decide)))
  have tmic : ∀ i, t.micOf i = (v.removeThenAdvance seat r).micOf i := State.micOf_congr (ht .mic (by decide))
  have tmsg : t.disp.messages = (v.removeThenAdvance seat r).disp.messages := ht .messages (by decide)
  have coreOpen : (v.removeCore seat r).floor.openList = s.floor.openList.filter fun x => x.seat ≠ seat := by
    rw [v.removeCore_openList, vfloor]
  have coreCal : (v.removeCore seat r).cal = s.cal := by simpa using vcal
  obtain ⟨coreQueue, coreMode, coreMax, -⟩ := v.removeCore_queue seat r
  have coreClosing : ((v.removeCore seat r).micOf seat).state = .closing ∧
      ((v.removeCore seat r).micOf seat).gap = s.cfg.closeGap := by
    rw [v.removeCore_micOf seat seat r hr vholds, v.micRemove_micOf, if_pos ⟨rfl, by rw [vmic]; exact hmic⟩]
    exact ⟨rfl, by rw [vcfg]⟩
  rcases v.removeThenAdvance_cases seat r vholds with ⟨hg, hempty, e⟩ | ⟨hn, e⟩
  · rw [vcal] at hg
    have hlast : s.floor.openList.filter (fun x => x.seat ≠ seat) = [] := coreOpen ▸ hempty
    obtain ⟨e, hclosing⟩ := State.removal_closes hr vholds (by rw [vcal]; exact hg) (by rw [vmic]; exact hmic)
      (by rw [vfloor]; exact hlast)
    rw [e] at tfloor tcal tmic tmsg
    obtain ⟨bopen, bqueue, bmode, bmax, -⟩ := (v.removeCore seat r).closingBegun_floor .floorEmpty
    obtain ⟨report, bcal, hcause, hstart, hfinish, htally, hbooking⟩ := (v.removeCore seat r).closingBegun_cal .floorEmpty
    have coreClock : (v.removeCore seat r).clock = t.clock := by
      rw [tclock, (v.removeCore_frame seat r).2.2.2.2.2.1]; exact hv .clock (by decide)
    rw [coreCal, coreClock] at bcal
    rw [coreCal] at hstart htally
    have micSeat : (t.micOf seat).state = .closing ∧ (t.micOf seat).gap = s.cfg.closeGap := by
      rw [tmic, State.closingBegun_micOf _ _ hempty]
      split <;> exact coreClosing
    refine ⟨by rw [tfloor, bopen, hlast], by rw [tfloor, bmode, coreMode, vfloor], by rw [tfloor, bmax, coreMax, vfloor],
      fun _ => micSeat, fun h => ?_, fun _ _ _ => ⟨by rw [tfloor, bopen], by rw [tfloor, bqueue], fun i => ?_, ?_,
        fun i hi _ => ?_, fun _ => ?_, fun hall => ?_⟩⟩
    · rw [hg] at h
      exact (h.elim (by simp) fun k => absurd hlast k)
    · rw [tmsg]
      exact State.closingBegun_messages _ _ i
    · refine ⟨report, by rw [tcal, bcal], hcause, hstart, hfinish.trans (by rw [coreClock]), htally, fun b hb => hbooking b ?_⟩
      rw [State.activeBooking, coreCal]; exact hb
    · obtain ⟨x, hx, rfl⟩ := (s.holds_iff i).1 hi
      have : x.seat = seat := by
        by_contra hne
        have : x ∈ s.floor.openList.filter fun x => x.seat ≠ seat := List.mem_filter.2 ⟨hx, by simpa using hne⟩
        rw [hlast] at this
        cases this
      rw [this]
      exact micSeat.1
    · rw [tcal, bcal]
      exact ⟨rfl, rfl, rfl, rfl, rfl⟩
    · rcases hmic with k | k <;> rw [hall seat] at k <;> cases k
  · have plain : v.removeThenAdvance seat r = v.removeCore seat r := by
      rw [e]
      exact State.autoAdvance_off _ (State.noAdvance_congr hq (by rw [coreMode, vfloor]) (by simpa using vcfg))
    rw [plain] at tfloor tcal tmic
    refine ⟨by rw [tfloor, coreOpen], by rw [tfloor, coreMode, vfloor], by rw [tfloor, coreMax, vfloor],
      fun _ => by rw [tmic]; exact coreClosing, fun _ => ⟨tcal.trans coreCal, by rw [tfloor, coreQueue, vfloor],
        fun i hi => by rw [tmic, v.removeCore_micOf_ne _ _ _ hi, vmic]⟩, fun hg hl => ?_⟩
    exact absurd ⟨by rw [vcal]; exact hg, by rw [coreOpen]; exact hl⟩ hn

end Removal

/-! ## Status words -/

section Status
variable (s : State) (p : Pos)

theorem exec_statusWord (card : Option Key) (serial : Serial) : exec (.statusWord p card serial) s =
    whenPowered s fun s => if s.pos[p].answer = some (card, serial) then s.slotAnswer p else s := rfl

theorem exec_button : exec (.button p) s =
    whenPowered s fun s => if s.pos[p].event = some .button then s.slotEvent p else s := rfl

theorem State.setPos_setPos (f g : PosRec → PosRec) : (s.setPos p f).setPos p g = s.setPos p fun r => g (f r) := by
  have h : modify (modify s.pos p f) p g = modify s.pos p fun r => g (f r) := by
    refine Vector.ext fun i hi => ?_
    have e : ∀ v : Vector PosRec 64, v[i] = v[(⟨i, hi⟩ : Pos)] := fun _ => rfl
    rw [e, e, modify_get, modify_get, modify_get]
    split <;> rfl
  exact congrArg (fun v => { s with pos := v }) h

/-- The answer has been taken from the slot, and its card is the position's. -/
def State.cardKnown (card : Option Key) : State :=
  s.setPos p fun r => { r with answer := none, statusValid := true, card := card }

theorem State.cardKnown_keeps (card : Option Key) : s.keeps (s.cardKnown p card) [.pos] := s.setPos_keeps p _

/-- An answer with the position's own serial sets the card, and the permission is evaluated again. -/
theorem State.slotAnswer_own {card : Option Key} {serial : Serial} (hl : s.live p = true)
    (ha : s.pos[p].answer = some (card, serial)) (hs : s.pos[p].serial = some serial) :
    s.slotAnswer p = (s.cardKnown p card).permissionChange (s.logical p) (s.permitted (s.logical p)) := by
  set v := s.setPos p fun r => { r with answer := none } with hv
  have vserial : v.pos[p].serial = some serial := by
    rw [hv, State.setPos_pos, modify_get_self]; exact hs
  have same : ∀ q : Pos, v.pos[q].statusValid = s.pos[q].statusValid ∧ v.pos[q].card = s.pos[q].card := fun q => by
    rw [hv, State.setPos_pos, modify_get]
    split <;> exact ⟨rfl, rfl⟩
  have vperm : v.permittedAt p = s.permitted (s.logical p) := by
    rw [← State.permitted_congr (s := s) (t := v) rfl rfl same, State.permitted, show v.phys (s.logical p) = p from
      s.phys_logical p]
  simp only [State.slotAnswer, ha, hl, if_true]
  rw [← hv, State.takeAnswer, if_neg (by rw [vserial]; simp), vperm, hv, State.setPos_setPos]
  rfl

/-- An answer with a foreign serial starts a pass. -/
theorem State.slotAnswer_foreign {card : Option Key} {serial : Serial} (hl : s.live p = true)
    (ha : s.pos[p].answer = some (card, serial)) (hs : s.pos[p].serial ≠ some serial) :
    s.slotAnswer p = (s.setPos p fun r => { r with answer := none }).startPass (wingOf p) := by
  have vserial : (s.setPos p fun r => { r with answer := none }).pos[p].serial ≠ some serial := by
    rw [State.setPos_pos, modify_get_self]; exact hs
  simp only [State.slotAnswer, ha, hl, if_true]
  rw [State.takeAnswer, if_pos vserial]

/-- The seat whose permission is taken away is given a KEY notice. -/
theorem State.cardKnown_permission {card : Option Key} (hl : s.live p = true) :
    (s.cardKnown p card).permissionChange (s.logical p) (s.permitted (s.logical p)) =
      if s.cal.session.runs = true ∧ s.permitted (s.logical p) = true ∧
        (s.cardKnown p card).permitted (s.logical p) = false then (s.cardKnown p card).keyNotice (s.logical p)
      else s.cardKnown p card := by
  have present : (s.cardKnown p card).present ((s.cardKnown p card).phys (s.logical p)) = true := by
    have hphys : (s.cardKnown p card).phys (s.logical p) = p := s.phys_logical p
    rw [hphys, State.present, State.cardKnown, State.setPos_pos, modify_get_self]
    exact decide_eq_true (State.live_present hl)
  rw [State.permissionChange, present]
  refine if_congr ?_ rfl rfl
  have hcal : (s.cardKnown p card).cal = s.cal := s.cardKnown_keeps p card .cal (by decide)
  rw [hcal]
  cases s.permitted (s.logical p) <;> cases (s.cardKnown p card).permitted (s.logical p) <;> cases s.cal.session.runs <;> decide

/-- The press that waited with the answer is taken after it. -/
theorem State.slotEvent_after_answer {u : State} {k : Press} (ha : s.slotAnswer p = u) (he : u.pos[p].event = some k)
    (hl : u.live p = true) : s.slotEvent p =
      let v := u.setPos p fun r => { r with event := none }
      if k = .button then v.press (v.logical p) else v.priorityPress (v.logical p) := by
  cases k <;> simp only [State.slotEvent, ha, he, hl, if_true, reduceCtorEq, if_false]

/-- On a wing in a pass no press is taken. -/
theorem State.slotEvent_off {u : State} (ha : s.slotAnswer p = u) (hl : u.live p = false) : s.slotEvent p = u := by
  rw [State.slotEvent]
  simp only [ha, hl]
  split <;> rfl

theorem State.startPass_live {u : State} {w : Wing} (hw : wingOf p = w) : (u.startPass w).live p = false := by
  rw [State.live, hw, State.startPass_wing]
  simp [WingPort.inUse]

/-- A press that passes, of a seat that finds room in OPEN mode, is granted. -/
theorem State.press_granted {v : State} {seat : Seat} (hask : v.mayAsk seat) (hh : v.holds seat = false)
    (hq : v.queued seat = false) (hm : v.floor.mode = .openFloor) (hroom : v.room seat = true) :
    v.press seat = (v.setFloor fun f => { f with blocked := f.blocked.set seat false }).grantSeat seat .button := by
  obtain ⟨hhalt, hs, hpres, hvalid, hclass, hperm⟩ := hask
  have passes : v.pressRefusal seat = none := by
    rw [v.pressRefusal_eq seat hpres, hvalid]
    simp [hhalt, hs, hclass, hperm]
  set u := v.setFloor fun f => { f with blocked := f.blocked.set seat false } with hu
  have uroom : u.room seat = true := (State.room_same (State.sameClasses_of rfl rfl) rfl rfl seat).trans hroom
  have uqueued : u.queued seat = false := hq
  have umode : u.floor.mode = .openFloor := hm
  simp only [State.press, passes, hh, Bool.false_eq_true, if_false, ← hu, uqueued, umode, State.askOpen, uroom, if_true]

end Status

/-- Settles O16: a status word with the position's own serial sets the card, and takes the seat off the floor where it takes
its permission away; one with a foreign serial starts a pass; it is taken before a press of the same slot. -/
theorem statusWordsSetTheCard : Obligations.StatusWordsSetTheCard := by
  unfold Obligations.StatusWordsSetTheCard
  refine ⟨fun s p card serial hp hl ha => ?_, fun s p card serial hp hl ha he => ?_⟩
  · intro known loses
    refine ⟨(s.slotAnswer p).ended, by rw [exec_statusWord, whenPowered_next _ hp, if_pos ha], fun hs => ?_, fun hs => ?_⟩
    · have hknown : s.keeps known [.pos] := s.setPos_keeps p _
      have taken : s.slotAnswer p = if loses then known.keyNotice (s.logical p) else known := by
        rw [s.slotAnswer_own p hl ha hs, s.cardKnown_permission p hl]
        rfl
      have hkeeps : known.keeps (s.slotAnswer p) sessionPieces := by
        rw [taken]
        split
        · exact known.keyNotice_keeps _
        · exact known.keeps_refl _
      have hended := State.ended_keeps (s.slotAnswer p)
      have hmic : ∀ i, (s.slotAnswer p).ended.micOf i = (s.slotAnswer p).micOf i := State.ended_micOf _
      have hfloor : (s.slotAnswer p).ended.floor = (s.slotAnswer p).floor := hended .floor (by decide)
      have knownHolds : ∀ i, known.holds i = s.holds i := fun _ => rfl
      refine ⟨(hended .pos (by decide)).trans (hkeeps .pos (by decide)), State.keeps_ended (State.keeps_trans
        (State.keeps_mono hknown (by decide)) (State.keeps_mono hkeeps (by decide))) (by decide), fun hn => ?_,
        fun hlose hadv => ⟨fun hh hok => ⟨?_, fun e he hsess => ?_⟩, fun hh hq => ?_, fun hh hq => ?_⟩⟩
      · rw [taken, if_neg hn]
        exact State.keeps_ended (State.keeps_mono hknown (by decide)) (by decide)
      · refine State.leavesTheFloor_of_removal hknown ?_ (r := .key) rfl hh ((hok _).1 hh) hadv
        rw [taken, if_pos hlose, State.keyNotice, if_pos (show known.holds (s.logical p) = true from hh)]
        exact State.ended_keeps _
      · refine State.notified_mono (t := s.slotAnswer p) ?_ (State.ended_queue _)
        rw [taken, if_pos hlose, State.keyNotice, if_pos (show known.holds (s.logical p) = true from hh),
          known.removeThenAdvance_plain _ _ (show s.cal.session ≠ .grace by rw [hsess]; decide) hadv]
        exact known.removeCore_notified (s.logical p) .key e he
      · have e : s.slotAnswer p = known.withdraw (s.logical p) .key := by
          rw [taken, if_pos hlose, State.keyNotice, if_neg (show ¬ known.holds (s.logical p) = true by simp [knownHolds, hh])]
        rw [hfloor, hmic, e, known.withdraw_floor, known.withdraw_micOf, if_pos ⟨rfl, show known.queued _ = true from hq⟩]
        refine ⟨rfl, rfl, rfl, fun i hi => ?_⟩
        rw [State.ended_micOf, known.withdraw_micOf, if_neg fun k => hi k.1]
        rfl
      · have e : s.slotAnswer p = known := by
          have none : known.floor.queue.find? (fun x => x.seat = s.logical p) = none := by
            rw [List.find?_eq_none]
            exact fun x hx => by simpa using (s.queued_false_iff _).1 hq x hx
          rw [taken, if_pos hlose, State.keyNotice, if_neg (show ¬ known.holds (s.logical p) = true by simp [knownHolds, hh])]
          simp only [State.withdraw, none]
        rw [e]
        exact State.keeps_ended (State.keeps_mono hknown (by decide)) (by decide)
    · rw [s.slotAnswer_foreign p hl ha hs]
      refine ⟨State.passStarts_of_wing _ (State.ended_wing _ _), State.keeps_ended ?_ (by decide), ?_⟩
      · exact State.keeps_trans (State.keeps_mono (s.setPos_keeps p _) (by decide))
          (State.keeps_mono (State.startPass_keeps _ _) (by decide))
      · rw [State.ended_keeps _ .pos (by decide), State.startPass_keeps _ _ .pos (by decide)]
        rfl
  · intro known
    refine ⟨(s.slotEvent p).ended, by rw [exec_button, whenPowered_next _ hp, if_pos he], fun hs hsess hm hperm hask hh hq hroom => ?_,
      fun hs => ?_⟩
    · have taken : s.slotAnswer p = s.cardKnown p card := by
        rw [s.slotAnswer_own p hl ha hs, s.cardKnown_permission p hl, if_neg fun k => by simp [hperm] at k]
      have cardPos : (s.cardKnown p card).pos[p] = { s.pos[p] with answer := none, statusValid := true, card := card } := by
        rw [State.cardKnown, State.setPos_pos, modify_get_self]
      have live : (s.cardKnown p card).live p = true := by
        have hw : (s.cardKnown p card).wing (wingOf p) = s.wing (wingOf p) :=
          State.wing_congr (s.cardKnown_keeps p card) (by decide) _
        rw [State.live, State.present, cardPos, hw]
        exact hl
      have knownEq : ((s.cardKnown p card).setPos p fun r => { r with event := none }) = known := by
        rw [State.cardKnown, State.setPos_setPos]
      have e : s.slotEvent p = (known.setFloor fun f => { f with blocked := f.blocked.set (s.logical p) false }).grantSeat
          (s.logical p) .button := by
        rw [s.slotEvent_after_answer p taken (by rw [cardPos]; exact he) live, knownEq]
        exact State.press_granted hask hh hq hm hroom
      have hended := State.ended_keeps (s.slotEvent p)
      have grants := State.grantSeat_keeps (known.setFloor fun f => { f with blocked := f.blocked.set (s.logical p) false })
        (s.logical p) .button
      refine ⟨(hended .pos (by decide)).trans (by rw [e]; exact grants .pos (by decide)), ?_, State.keeps_ended ?_ (by decide)⟩
      · rw [hended .floor (by decide), e, State.grantSeat_floor]
        rfl
      · rw [e]
        exact State.keeps_trans (State.keeps_mono (s.setPos_keeps p _) (by decide)) (State.keeps_trans
          (State.keeps_mono (State.setFloor_keeps known _) (by decide)) (State.keeps_mono grants (by decide)))
    · have taken := s.slotAnswer_foreign p hl ha hs
      rw [s.slotEvent_off p taken (State.startPass_live p rfl)]
      exact ⟨State.passStarts_of_wing _ (State.ended_wing _ _), State.keeps_ended (State.keeps_trans
        (State.keeps_mono (s.setPos_keeps p _) (by decide)) (State.keeps_mono (State.startPass_keeps _ _) (by decide)))
        (by decide)⟩

end Sys2Proof.Machine

namespace Sys2Proof.Machine

/-! ## Room screens that are offered for the first time -/

section Fresh
variable (s : State)

/-- The frame that an entry hands. -/
def State.screenFrame (e : Fin 4) : Option Frame :=
  (s.disp.screens[e].addr).map fun a =>
    ⟨a, s.link.station, .screen, screenPayload e (s.screenText s.disp.screens[e].template)⟩

/-- An entry whose frame has entered the queue, or that is off. -/
def State.screenSent (e : Fin 4) : Screen :=
  let sc := s.disp.screens[e]
  if sc.addr.isSome then { sc with lastSent := some (s.screenText sc.template), pending := false, window := 200, waiting := false }
  else sc

/-- The entries of `done` have been offered. -/
structure State.Offered (u : State) (done : List (Fin 4)) : Prop where
  rest : u = { s with disp := { s.disp with screens := u.disp.screens }, link := { s.link with queue := u.link.queue } }
  queue : u.link.queue = done.filterMap s.screenFrame
  screens : ∀ e : Fin 4, u.disp.screens[e] = if e ∈ done then s.screenSent e else s.disp.screens[e]

/-- An entry that is on, and has sent nothing yet, hands its frame. -/
theorem State.refreshScreen_fresh {u : State} {e : Fin 4} {a : Addr} {k : Fin 4}
    (h : u.disp.screens[e] = Screen.fresh (some a) k) (hq : u.link.queue.length < 8) :
    u.refreshScreen e = { u.setScreen e fun sc =>
      { sc with lastSent := some (u.screenText k), pending := false, window := 200, waiting := false } with
      link := { u.link with queue := u.link.queue ++ [⟨a, u.link.station, .screen, screenPayload e (u.screenText k)⟩] } } := by
  have hoffer : u.offerScreen e = u.admitScreen e := if_pos hq
  unfold State.refreshScreen
  simp only [h, Screen.fresh, Option.isNone_some, Bool.or_self, Bool.false_eq_true, if_false, Nat.lt_irrefl]
  rw [if_pos (by simp), hoffer, State.admitScreen]
  simp only [h, Screen.fresh]

theorem State.refreshScreen_off {u : State} {e : Fin 4} (h : u.disp.screens[e].addr = none) : u.refreshScreen e = u := by
  unfold State.refreshScreen
  simp only [h, Option.isNone_none, Bool.true_or, if_true]

variable {s}

theorem State.Offered.step {u : State} {done : List (Fin 4)} {e : Fin 4}
    (hfresh : s.disp.screens[e] = Screen.fresh s.disp.screens[e].addr s.disp.screens[e].template)
    (hd : done.length < 8) (he : e ∉ done) (h : s.Offered u done) : s.Offered (u.refreshScreen e) (done ++ [e]) := by
  have hentry : u.disp.screens[e] = s.disp.screens[e] := by rw [h.screens, if_neg he]
  cases ha : s.disp.screens[e].addr with
  | none =>
    have none : s.screenFrame e = none := by rw [State.screenFrame, ha]; rfl
    have same : s.screenSent e = s.disp.screens[e] := by simp only [State.screenSent, ha]; rfl
    rw [State.refreshScreen_off (by rw [hentry, ha])]
    refine ⟨h.rest, by rw [h.queue, List.filterMap_append]; simp [none], fun f => ?_⟩
    rw [h.screens f]
    by_cases hf : f = e
    · subst hf
      rw [if_neg he, if_pos (by simp), same]
    · exact if_congr (by simp [hf]) rfl rfl
  | some a =>
    have hlen : u.link.queue.length < 8 := by
      rw [h.queue]
      exact (List.length_filterMap_le _ _).trans_lt hd
    have htext : ∀ k, u.screenText k = s.screenText k := fun k => by rw [h.rest]; rfl
    have hstation : u.link.station = s.link.station := by rw [h.rest]
    have frame : s.screenFrame e = some ⟨a, s.link.station, .screen, screenPayload e (s.screenText s.disp.screens[e].template)⟩ := by
      rw [State.screenFrame, ha]; rfl
    rw [State.refreshScreen_fresh (u := u) (a := a) (by rw [hentry, hfresh, ha]) hlen, htext, hstation]
    refine ⟨?_, ?_, fun f => ?_⟩
    · rw [h.rest]; rfl
    · rw [List.filterMap_append, ← h.queue]
      simp [frame]
    · refine (modify_get u.disp.screens e f _).trans ?_
      by_cases hf : f = e
      · subst hf
        rw [if_pos rfl, if_pos (by simp), hentry]
        simp only [State.screenSent, ha, Option.isSome_some, if_true]
      · rw [if_neg hf, h.screens f]
        exact if_congr (by simp [hf]) rfl rfl

theorem State.Offered.all {l : List (Fin 4)} {u : State} {done : List (Fin 4)}
    (hfresh : ∀ e : Fin 4, s.disp.screens[e] = Screen.fresh s.disp.screens[e].addr s.disp.screens[e].template)
    (hd : (done ++ l).Nodup) (hlen : (done ++ l).length ≤ 8) (h : s.Offered u done) :
    s.Offered (l.foldl State.refreshScreen u) (done ++ l) := by
  induction l generalizing u done with
  | nil => simpa using h
  | cons e l ih =>
    have he : e ∉ done := fun k => (List.nodup_append.1 hd).2.2 e k e (by simp) rfl
    rw [List.length_append, List.length_cons] at hlen
    have := ih (by simpa using hd) (by simp; omega) (h.step (hfresh e) (by omega) he)
    simpa using this

/-- Where every entry is fresh and nothing waits to be sent on a link that is DOWN, the end of a command offers every entry
that is on, in increasing number, and nothing else changes. -/
theorem State.ended_fresh
    (hfresh : ∀ e : Fin 4, s.disp.screens[e] = Screen.fresh s.disp.screens[e].addr s.disp.screens[e].template)
    (hqueue : s.link.queue = []) (hup : s.link.up = false) : s.Offered s.ended (numbers 4) := by
  have start : s.Offered s [] := by
    refine ⟨?_, hqueue, fun e => (if_neg (by simp)).symm⟩
    cases s; rfl
  have h : s.Offered s.refreshScreens (numbers 4) := start.all hfresh (by decide) (by decide)
  have down : s.refreshScreens.link.up = false := by rw [h.rest]; exact hup
  have idle : s.refreshScreens.link.startSending = s.refreshScreens.link := by
    unfold Link.startSending
    split
    · rw [down]; rfl
    · rfl
  have e : s.ended = s.refreshScreens := by
    rcases s.refreshScreens.startSending_cases with ⟨-, k⟩ | ⟨-, k⟩
    · rw [State.ended, k, idle]
    · exact k
  rw [e]; exact h

end Fresh

end Sys2Proof.Machine

namespace Sys2Proof.Machine

/-! ## Power-on -/

/-- A wing at power-on: a carrier that is there starts a pass. -/
def WingPort.started (carrier : Bool) : WingPort :=
  if carrier then { WingPort.powerOn true with state := .enumerating } else WingPort.powerOn false

/-- The image that power-on restores. -/
def Store.restored (st : Store) : Image := st.currentImage.getD Image.factory

theorem State.powerOn_eq (s : State) (carrierA carrierB : Bool) : s.powerOn carrierA carrierB =
    { State.fromImage s.store.restored s.store.currentImage.isSome s.store.areaA s.store.areaB false false with
      wingA := WingPort.started carrierA, wingB := WingPort.started carrierB, pending := s.pending } := by
  unfold State.powerOn Store.restored
  cases s.store.currentImage <;> cases carrierA <;> cases carrierB <;> rfl

/-- What power-on leaves offers every room screen of the image, and nothing else. -/
theorem State.powerOn_ended (s : State) (carrierA carrierB : Bool) :
    (s.powerOn carrierA carrierB).Offered (s.powerOn carrierA carrierB).ended (numbers 4) := by
  refine State.ended_fresh (fun e => ?_) ?_ ?_ <;> rw [State.powerOn_eq]
  · simp only [State.fromImage, Display.powerOn, mapAll_get]
    rfl
  · rfl
  · rfl

theorem exec_powerOn (s : State) (carrierA carrierB : Bool) :
    exec (.powerOn carrierA carrierB) s = .next (s.powerOn carrierA carrierB).ended := rfl

theorem exec_resetInput {s : State} (carrierA carrierB : Bool) (h : s.powered = true) :
    exec (.resetInput carrierA carrierB) s = .next (s.powerOn carrierA carrierB).ended := by
  have hx : exec (.resetInput carrierA carrierB) s = whenPowered s fun s => s.powerOn carrierA carrierB := rfl
  rw [hx, whenPowered_next _ h]

theorem exec_powerLoss (s : State) : exec .powerLoss s = .next s.powerLoss := rfl

/-- A room screen entry of the image, after power-on. -/
theorem State.powerOn_screen (s : State) (carrierA carrierB : Bool) (e : Fin 4) :
    (s.powerOn carrierA carrierB).disp.screens[e] =
      Screen.fresh s.store.restored.screens[e].1 s.store.restored.screens[e].2 := by
  rw [State.powerOn_eq]
  simp only [State.fromImage, Display.powerOn, mapAll_get]

/-- The frames that power-on offers. -/
theorem State.powerOn_frame (s : State) (carrierA carrierB : Bool) (e : Fin 4) :
    (s.powerOn carrierA carrierB).screenFrame e = (s.store.restored.screens[e].1).map fun a =>
      ⟨a, factoryIdentity, .screen,
        be8 e.val ++ (s.powerOn carrierA carrierB).screenText s.store.restored.screens[e].2⟩ := by
  have station : (s.powerOn carrierA carrierB).link.station = factoryIdentity := by rw [State.powerOn_eq]; rfl
  rw [State.screenFrame, State.powerOn_screen, station]
  rfl

/-- A wing with a carrier starts a pass; one without is DOWN. -/
theorem WingPort.started_cases (carrier : Bool) : (WingPort.started carrier).recorded = 0 ∧
    (WingPort.started carrier).assigned = 0 ∧ (WingPort.started carrier).scanPos = 0 ∧
    (WingPort.started carrier).command = .normal ∧ (WingPort.started carrier).carrier = carrier ∧
    ((WingPort.started carrier).carrier = true → (WingPort.started carrier).state = .enumerating ∧
      (WingPort.started carrier).passCycle = 0 ∧ (WingPort.started carrier).passCount = none) ∧
    ((WingPort.started carrier).carrier = false → (WingPort.started carrier).state = .down) := by
  cases carrier <;> decide

/-- Settles O10: power-on and the reset input, item by item, and a power loss that the next power-on follows. -/
theorem powerCyclesRestoreTheCurrentImage : Obligations.PowerCyclesRestoreTheCurrentImage := by
  unfold Obligations.PowerCyclesRestoreTheCurrentImage
  refine ⟨fun s carrierA carrierB i hi => ?_, fun s carrierA carrierB => ?_⟩
  · have hx : exec i s = .next (s.powerOn carrierA carrierB).ended := by
      rcases hi with rfl | ⟨hp, rfl⟩
      · exact exec_powerOn s carrierA carrierB
      · exact exec_resetInput carrierA carrierB hp
    refine ⟨_, hx, ?_⟩
    intro img
    have offered := s.powerOn_ended carrierA carrierB
    have text : ∀ k, (s.powerOn carrierA carrierB).ended.screenText k = (s.powerOn carrierA carrierB).screenText k :=
      fun k => by rw [offered.rest]; rfl
    have screens : ∀ e : Fin 4, (s.powerOn carrierA carrierB).ended.disp.screens[e] = if img.screens[e].1.isSome then
        ⟨img.screens[e].1, img.screens[e].2, some ((s.powerOn carrierA carrierB).screenText img.screens[e].2), false, 200,
          false⟩
        else ⟨none, img.screens[e].2, none, false, 0, false⟩ := fun e => by
      rw [offered.screens, if_pos (by simp), State.screenSent, State.powerOn_screen, show s.store.restored = img from rfl]
      cases img.screens[e].1 <;> rfl
    have queue : (s.powerOn carrierA carrierB).ended.link.queue = (numbers 4).filterMap fun e => (img.screens[e].1).map
        fun a => ⟨a, factoryIdentity, .screen, be8 e.val ++ (s.powerOn carrierA carrierB).screenText img.screens[e].2⟩ := by
      rw [offered.queue, funext (s.powerOn_frame carrierA carrierB)]
      rfl
    have link : (s.powerOn carrierA carrierB).ended.link =
        { (s.powerOn carrierA carrierB).link with queue := (s.powerOn carrierA carrierB).ended.link.queue } := by
      rw [offered.rest]
    have disp : (s.powerOn carrierA carrierB).ended.disp = { (s.powerOn carrierA carrierB).disp with
        screens := (s.powerOn carrierA carrierB).ended.disp.screens } := by
      rw [offered.rest]
    obtain ⟨hpow, hwA, hwB, hpos, hlevel, hseats, hclock, hcal, hfloor, hmic, hmix, hmgmt, hcfg, hstore, hout, hearly, -⟩ :=
      State.ended_frame (s.powerOn carrierA carrierB)
    have wing : ∀ w, (s.powerOn carrierA carrierB).ended.wing w =
        WingPort.started (match w with | .a => carrierA | .b => carrierB) := fun w => by
      rw [State.ended_wing, State.powerOn_eq]
      cases w <;> rfl
    rw [hpow, hpos, hlevel, hseats, hclock, hcal, hfloor, hmic, hmix, hmgmt, hcfg, hstore, hout, hearly, link, disp]
    simp only [text]
    simp only [State.passStarts, wing]
    have starts := fun w : Wing => WingPort.started_cases (match w with | .a => carrierA | .b => carrierB)
    generalize hF : s.powerOn carrierA carrierB = F at *
    rw [State.powerOn_eq] at hF
    subst hF
    refine ⟨⟨rfl, rfl, rfl, rfl⟩, starts, rfl, rfl, rfl, rfl, rfl, rfl, rfl, rfl, ⟨rfl, rfl, rfl⟩, screens,
      ⟨rfl, rfl, rfl, rfl, rfl, rfl, rfl, rfl, rfl, rfl, rfl, rfl, rfl, rfl, queue⟩, rfl, ?_⟩
    cases s.store.currentImage <;> rfl
  · refine ⟨_, _, exec_powerLoss s, rfl, rfl, rfl, rfl, exec_powerOn _ carrierA carrierB, ?_, ?_⟩
    · rw [(State.ended_frame _).2.2.2.2.2.2.2.2.2.2.2.2.1, State.powerOn_eq]
      rfl
    · rw [(State.ended_frame _).2.2.2.2.2.2.2.2.2.2.1, State.powerOn_eq]
      rfl

end Sys2Proof.Machine

namespace Sys2Proof.Machine

/-! ## What displays do not depend on -/

/-- What no rendering of a seat's display, no indicator and no room screen is made of. -/
def unseenPieces : List Piece := [.power, .wings, .pos, .tables, .staged, .mixCycle, .delivery, .screens, .addresses,
  .audioReturn, .sending, .outCounter, .linkState, .linkCounters, .mgmt, .store, .out, .early, .pending]

/-- A state that differs in nothing else is the first one with those parts put in. -/
theorem State.eq_of_unseen {s t : State} (h : s.keeps t unseenPieces) : t = { s with
    powered := t.powered, wingA := t.wingA, wingB := t.wingB, pos := t.pos, mix := t.mix
    disp := ⟨s.disp.templates, s.disp.messages, t.disp.delivery, t.disp.screens⟩
    link := t.link, mgmt := t.mgmt, store := t.store, out := t.out, early := t.early, pending := t.pending } := by
  have hlevel : t.level = s.level := h .level (by decide)
  have hseats : t.seats = s.seats := h .seats (by decide)
  have hclock : t.clock = s.clock := h .clock (by decide)
  have hcal : t.cal = s.cal := h .cal (by decide)
  have hfloor : t.floor = s.floor := h .floor (by decide)
  have hmic : t.mic = s.mic := h .mic (by decide)
  have hcfg : t.cfg = s.cfg := h .cfg (by decide)
  have htemplates : t.disp.templates = s.disp.templates := h .templates (by decide)
  have hmessages : t.disp.messages = s.disp.messages := h .messages (by decide)
  rw [← hlevel, ← hseats, ← hclock, ← hcal, ← hfloor, ← hmic, ← hcfg, ← htemplates, ← hmessages]

theorem State.rendering_of_unseen {s t : State} (h : s.keeps t unseenPieces) (seat : Seat) :
    t.rendering seat = s.rendering seat := by
  rw [State.eq_of_unseen h]
  rfl

theorem State.indicator_of_unseen {s t : State} (h : s.keeps t unseenPieces) (seat : Seat) :
    t.indicator seat = s.indicator seat := by
  rw [State.eq_of_unseen h]
  rfl

/-- What a room screen shows is made of the two collections, the minute, the calendar, the names and the templates. -/
theorem State.screenText_congr {s t : State} (hopen : t.floor.openList = s.floor.openList)
    (hqueue : t.floor.queue = s.floor.queue) (hclock : t.clock.now.minute = s.clock.now.minute) (hcal : t.cal = s.cal)
    (hnames : t.nameOf = s.nameOf) (htemplates : t.disp.templates = s.disp.templates) (k : Fin 4) :
    t.screenText k = s.screenText k := by
  have both : t.fieldBoth = s.fieldBoth := funext fun c => by
    simp only [State.fieldBoth, State.endField, State.titleField, State.activeBooking, State.nextBooking, hopen, hqueue,
      hclock, hcal, hnames]
  have room : t.fieldRoom = s.fieldRoom := funext fun c => by
    simp only [State.fieldRoom, hopen, hqueue, hnames, both]
  rw [State.screenText, State.screenText, room, htemplates]

/-! ## The end of the cycle in progress -/

section EndCycle
variable (s : State)

/-- What the slots of a cycle can touch. -/
def slotPieces : List Piece := sessionPieces ++ [.pos, .wings]

theorem State.slotAnswer_slot (p : Pos) : s.keeps (s.slotAnswer p) slotPieces := by
  unfold State.slotAnswer
  split
  · split
    · refine State.keeps_trans (State.keeps_mono (s.setPos_keeps p fun r => { r with answer := none }) (by decide)) ?_
      unfold State.takeAnswer
      split
      · exact State.keeps_mono (State.startPass_keeps _ _) (by decide)
      · exact State.keeps_trans (State.keeps_mono (State.setPos_keeps _ p _) (by decide))
          (State.keeps_mono (State.permissionChange_keeps _ _ _) (by decide))
    · exact s.keeps_refl _
  · exact s.keeps_refl _

theorem State.slotEvent_slot (p : Pos) : s.keeps (s.slotEvent p) slotPieces := by
  unfold State.slotEvent
  simp only
  refine State.keeps_trans (s.slotAnswer_slot p) ?_
  split
  · exact State.keeps_refl _ _
  · split
    · refine State.keeps_trans (State.keeps_mono (State.setPos_keeps _ p fun r => { r with event := none }) (by decide)) ?_
      split
      · exact State.keeps_mono (State.press_keeps _ _) (by decide)
      · exact State.keeps_mono (State.priorityPress_keeps _ _) (by decide)
    · exact State.keeps_refl _ _

theorem State.takeSlots_slot : s.keeps s.takeSlots slotPieces :=
  State.foldl_keeps _ _ (fun (u : State) (p : Pos) => u.slotEvent_slot p) _ _

/-- What the end of a cycle can touch. -/
def endPieces : List Piece := lossPieces ++ [.pos, .wings]

theorem State.endCycle_end : s.keeps s.endCycle endPieces := by
  unfold State.endCycle
  simp only
  have slots : s.keeps (s.takeSlots.voiceCycle) endPieces := State.keeps_trans (State.keeps_mono s.takeSlots_slot (by decide))
    (State.keeps_mono (State.voiceCycle_keeps _) (by decide))
  exact State.keeps_trans (State.keeps_trans (State.keeps_trans (State.keeps_trans slots
    (State.keeps_mono (State.endPass_keeps _ _) (by decide))) (State.keeps_mono (State.endPass_keeps _ _) (by decide)))
    (State.keeps_mono (State.setWing_keeps _ _ _) (by decide))) (State.keeps_mono (State.setWing_keeps _ _ _) (by decide))

/-- A slot that is taken leaves a wing as it is, or starts a pass on it. -/
theorem State.slotEvent_wing (p : Pos) (w : Wing) : (s.slotEvent p).wing w = s.wing w ∨
    (s.slotEvent p).wing w = (s.startPass w).wing w := by
  have answer : (s.slotAnswer p).wing w = s.wing w ∨ (s.slotAnswer p).wing w = (s.startPass w).wing w := by
    unfold State.slotAnswer
    split
    · split
      · unfold State.takeAnswer
        split
        · by_cases hw : w = wingOf p
          · subst hw
            exact .inr (by rw [State.startPass_wing, State.startPass_wing, State.wing_congr (s.setPos_keeps p _) (by decide)])
          · exact .inl (by rw [State.startPass_wing_ne _ hw, State.wing_congr (s.setPos_keeps p _) (by decide)])
        · refine .inl ?_
          rw [State.wing_congr (State.permissionChange_keeps _ _ _) (by decide), State.wing_congr (State.setPos_keeps _ p _) (by decide),
            State.wing_congr (s.setPos_keeps p _) (by decide)]
      · exact .inl rfl
    · exact .inl rfl
  have event : (s.slotEvent p).wing w = (s.slotAnswer p).wing w := by
    unfold State.slotEvent
    simp only
    split
    · rfl
    · split
      · split
        · rw [State.wing_congr (State.press_keeps _ _) (by decide), State.wing_congr (State.setPos_keeps _ p _) (by decide)]
        · rw [State.wing_congr (State.priorityPress_keeps _ _) (by decide), State.wing_congr (State.setPos_keeps _ p _) (by decide)]
      · rfl
  rw [event]; exact answer

theorem State.startPass_passEnds (w : Wing) : ((s.startPass w).wing w).passEnds = false := by
  rw [State.startPass_wing]
  simp [WingPort.passEnds]

theorem State.takeSlots_passEnds (w : Wing) (h : (s.wing w).passEnds = false) : (s.takeSlots.wing w).passEnds = false := by
  unfold State.takeSlots
  generalize numbers 64 = l
  induction l generalizing s with
  | nil => exact h
  | cons p l ih =>
    refine ih (s.slotEvent p) ?_
    rcases s.slotEvent_wing p w with e | e
    · rw [e]; exact h
    · rw [e]; exact s.startPass_passEnds w

theorem State.endPass_off {w : Wing} (h : (s.wing w).passEnds = false) : s.endPass w = s := by
  rw [State.endPass, h]
  rfl

/-- Where no pass ends, the end of a cycle takes the slots and the voice conditions, and moves the scan. -/
theorem State.endCycle_noPass (ha : s.wingA.passEnds = false) (hb : s.wingB.passEnds = false) : s.endCycle =
    ((s.takeSlots.voiceCycle).setWing .a WingPort.moveScan).setWing .b WingPort.moveScan := by
  have wings : ∀ w, (s.takeSlots.voiceCycle).wing w = s.takeSlots.wing w := State.wing_congr (State.voiceCycle_keeps _) (by decide)
  have a : ((s.takeSlots.voiceCycle).wing .a).passEnds = false := by rw [wings]; exact s.takeSlots_passEnds .a ha
  have b : ((s.takeSlots.voiceCycle).wing .b).passEnds = false := by rw [wings]; exact s.takeSlots_passEnds .b hb
  rw [State.endCycle, State.endPass_off _ a, State.endPass_off _ b]

theorem State.endCycle_delivery (ha : s.wingA.passEnds = false) (hb : s.wingB.passEnds = false) :
    s.endCycle.disp.delivery = s.disp.delivery := by
  rw [s.endCycle_noPass ha hb]
  exact (State.keeps_trans (State.keeps_trans (State.keeps_trans (State.keeps_mono s.takeSlots_slot (by decide))
    (State.keeps_mono (State.voiceCycle_keeps _) (by decide))) (State.keeps_mono (State.setWing_keeps _ _ _) (by decide)))
    (State.keeps_mono (State.setWing_keeps _ _ _) (by decide)) : s.keeps _ slotPieces) .delivery (by decide)

end EndCycle

/-! ## The cycle that begins -/

section BeginCycle
variable (s before : State)

/-- The wings have their commands, the facts are latched, and the return block is given. -/
def State.cycleGiven : State :=
  (((s.setWing .a WingPort.beginCycle).setWing .b WingPort.beginCycle).latchFacts).giveReturn

theorem State.beginCycle_eq : s.beginCycle before = ((s.cycleGiven.settleTransfers).sendCycle before).clearSlots := rfl

theorem State.cycleGiven_keeps : s.keeps s.cycleGiven [.wings, .mic, .mixCycle, .audioReturn, .linkCounters] :=
  State.keeps_trans (State.keeps_mono (s.setWing_keeps _ _) (by decide))
    (State.keeps_trans (State.keeps_mono (State.setWing_keeps _ _ _) (by decide))
    (State.keeps_trans (State.keeps_mono (State.latchFacts_keeps _) (by decide))
    (State.keeps_mono (State.giveReturn_keeps _) (by decide))))

theorem State.cycleGiven_after : s.cycleGiven.keeps (s.beginCycle before)
    [.delivery, .out, .mixCycle, .outCounter, .sending, .pos, .early] :=
  State.keeps_trans (State.keeps_mono (State.settleTransfers_keeps _) (by decide))
    (State.keeps_trans (State.keeps_mono (State.sendCycle_keeps _ _) (by decide))
    (State.keeps_mono (State.clearSlots_keeps _) (by decide)))

/-- What the cycle that begins leaves as it was. -/
theorem State.beginCycle_rest : s.keeps (s.beginCycle before)
    [.wings, .pos, .mic, .mixCycle, .audioReturn, .linkCounters, .delivery, .out, .outCounter, .sending, .early] :=
  State.keeps_trans (State.keeps_mono s.cycleGiven_keeps (by decide)) (State.keeps_mono (s.cycleGiven_after before) (by decide))

theorem State.beginCycle_wing (w : Wing) : (s.beginCycle before).wing w = (s.wing w).beginCycle := by
  rw [State.wing_congr (s.cycleGiven_after before) (by decide), State.cycleGiven,
    State.wing_congr (State.giveReturn_keeps _) (by decide), State.wing_congr (State.latchFacts_keeps _) (by decide)]
  cases w
  · rw [State.setWing_wing_ne _ (by decide), State.setWing_wing]
  · rw [State.setWing_wing, State.setWing_wing_ne _ (by decide)]

theorem State.beginCycle_pos (p : Pos) : (s.beginCycle before).pos[p] =
    { s.pos[p] with slot := .notTaken, block := silence, answer := none, event := none } := by
  have h : ((s.cycleGiven.settleTransfers).sendCycle before).pos = s.pos :=
    ((State.keeps_trans (State.keeps_mono s.cycleGiven_keeps (by decide))
      (State.keeps_trans (State.keeps_mono (State.settleTransfers_keeps _) (by decide))
      (State.keeps_mono (State.sendCycle_keeps _ before) (by decide))) : s.keeps _
      [.wings, .mic, .mixCycle, .audioReturn, .linkCounters, .delivery, .out, .outCounter, .sending])) .pos (by decide)
  rw [State.beginCycle_eq, State.clearSlots]
  simp only [mapAll_get, h]

theorem State.beginCycle_early : (s.beginCycle before).early = [] := rfl

theorem State.giveReturn_cases : (s.link.buffer = [] ∧ s.giveReturn.mix = { s.mix with cycleReturn := silence } ∧
      s.giveReturn.link.buffer = []) ∨
    ∃ b rest, s.link.buffer = b :: rest ∧ s.giveReturn.mix = { s.mix with cycleReturn := b } ∧
      s.giveReturn.link.buffer = rest := by
  unfold State.giveReturn
  cases h : s.link.buffer with
  | nil =>
    refine .inl ⟨rfl, rfl, ?_⟩
    cases s.link.learnt <;> exact h
  | cons b rest => exact .inr ⟨b, rest, rfl, rfl, rfl⟩

theorem State.duckClass_congr {s t : State} (hm : t.mic = s.mic) (hs : t.seats = s.seats)
    (n : Vector (Vector (Option Pos) 4) 64) (i : Seat) : t.duckClass n i = s.duckClass n i := by
  have mic : t.micOf = s.micOf := funext fun j => State.micOf_congr hm j
  have phys : t.phys = s.phys := funext fun j => State.phys_congr (by rw [hs]) j
  simp only [State.duckClass, mic, phys]

theorem State.latchFacts_micOf (i : Seat) : s.latchFacts.micOf i = { s.micOf i with
    cycleOpen := decide ((s.micOf i).state = .opened), cycleDuck := s.duckClass s.mix.live.neighbours i } := by
  rw [State.micOf, State.latchFacts]
  simp only [mapAll_get]
  rfl

/-- The wings that have their commands are no matter of the facts. -/
theorem State.beginWings_keeps : s.keeps ((s.setWing .a WingPort.beginCycle).setWing .b WingPort.beginCycle) [.wings] :=
  State.keeps_trans (s.setWing_keeps _ _) (State.setWing_keeps _ _ _)

theorem State.beginWings_mix : ((s.setWing .a WingPort.beginCycle).setWing .b WingPort.beginCycle).mix = s.mix := rfl

theorem State.beginCycle_mic : (s.beginCycle before).mic =
    ((s.setWing .a WingPort.beginCycle).setWing .b WingPort.beginCycle).latchFacts.mic :=
  (s.cycleGiven_after before .mic (by decide)).trans (State.giveReturn_keeps _ .mic (by decide))

/-- The facts of a microphone for the cycle that begins. -/
theorem State.beginCycle_micOf (i : Seat) : (s.beginCycle before).micOf i = { s.micOf i with
    cycleOpen := decide ((s.micOf i).state = .opened), cycleDuck := s.duckClass s.mix.live.neighbours i } := by
  have keeps := s.beginWings_keeps
  rw [State.micOf_congr (s.beginCycle_mic before), State.latchFacts_micOf, State.micOf_congr (keeps .mic (by decide)),
    State.duckClass_congr (keeps .mic (by decide)) (keeps .seats (by decide)), State.beginWings_mix]

theorem State.latchFacts_limits : s.latchFacts.mic.speakLimit = s.mic.speakLimit ∧
    s.latchFacts.mic.limitAction = s.mic.limitAction := by
  simp only [State.latchFacts, and_self]

end BeginCycle

end Sys2Proof.Machine

namespace Sys2Proof.Machine

/-! ## A whole cycle -/

section Cycle
variable (s : State)

/-- What CHAIN_CYCLE leaves, where no restart is due. -/
def State.cycled : State := ((s.endCycle.boundary).beginCycle s).refreshScreens.ended

theorem exec_chainCycle : exec .chainCycle s = whenPowered s State.cycle := rfl

theorem exec_chainCycle_next {s : State} (hp : s.powered = true) (hr : s.mgmt.restart = .none) :
    exec .chainCycle s = .next s.cycled := by
  have h : s.takeRestart = s := by simp only [State.takeRestart, hr]
  rw [exec_chainCycle, whenPowered_next _ hp, State.cycle, h]
  rfl

/-- Screens are rendered again at the end, and nothing else. -/
theorem State.cycled_after : ((s.endCycle.boundary).beginCycle s).keeps s.cycled screenPieces :=
  State.keeps_trans (State.refreshScreens_keeps _) (State.ended_keeps _)

/-- What a whole cycle leaves as it was. -/
theorem State.cycled_keeps : s.keeps s.cycled (endPieces ++ boundaryPieces ++ [.mixCycle, .audioReturn, .delivery, .out,
    .outCounter, .early]) :=
  State.keeps_trans (State.keeps_mono s.endCycle_end (by decide))
    (State.keeps_trans (State.keeps_mono (State.boundary_keeps _) (by decide))
    (State.keeps_trans (State.keeps_mono (State.beginCycle_rest _ s) (by decide))
    (State.keeps_mono s.cycled_after (by decide))))

theorem State.cycled_wing (w : Wing) : s.cycled.wing w = (s.endCycle.wing w).beginCycle := by
  rw [State.wing_congr s.cycled_after (by decide), State.beginCycle_wing, State.wing_congr (State.boundary_keeps _) (by decide)]

theorem State.cycled_pos (p : Pos) : s.cycled.pos[p] =
    { s.endCycle.pos[p] with slot := .notTaken, block := silence, answer := none, event := none } := by
  have h : s.cycled.pos = (s.endCycle.boundary.beginCycle s).pos := s.cycled_after .pos (by decide)
  have hb : s.endCycle.boundary.pos = s.endCycle.pos := State.boundary_keeps _ .pos (by decide)
  rw [h, State.beginCycle_pos, hb]

theorem State.cycled_micOf (i : Seat) : s.cycled.micOf i = { s.endCycle.boundary.micOf i with
    cycleOpen := decide ((s.endCycle.boundary.micOf i).state = .opened)
    cycleDuck := s.endCycle.boundary.duckClass s.endCycle.boundary.mix.live.neighbours i } := by
  rw [State.micOf_congr (s.cycled_after .mic (by decide)), State.beginCycle_micOf]

/-- Where every transfer of the cycle that begins has been settled. -/
def State.cycleSettled : State := s.endCycle.boundary.cycleGiven.settleTransfers

theorem State.cycleSettled_first : s.endCycle.boundary.cycleGiven.keeps s.cycleSettled [.delivery] :=
  State.settleTransfers_keeps _

/-- After that the slots are sent, what was received is forgotten, and screens are rendered. -/
theorem State.cycleSettled_after : s.cycleSettled.keeps s.cycled [.out, .mixCycle, .outCounter, .sending, .pos, .early, .screens] :=
  State.keeps_trans (State.keeps_trans (State.keeps_mono (State.sendCycle_keeps _ s) (by decide))
    (State.keeps_mono (State.clearSlots_keeps _) (by decide))) (State.keeps_mono s.cycled_after (by decide))

/-- The displays, indicators and feeds of the cycle that begins are those that the command leaves. -/
theorem State.cycleSettled_shown : s.cycleSettled.keeps s.cycled unseenPieces :=
  State.keeps_mono s.cycleSettled_after (by decide)

theorem State.cycleGiven_shown : (s.endCycle.boundary.cycleGiven).keeps s.cycled unseenPieces :=
  State.keeps_trans (State.keeps_mono s.cycleSettled_first (by decide)) s.cycleSettled_shown

/-- A position is as live when its slot is sent as the command leaves it. -/
theorem State.cycleGiven_live (p : Pos) : s.endCycle.boundary.cycleGiven.live p = s.cycled.live p := by
  have hpos : s.endCycle.boundary.cycleGiven.pos = s.endCycle.pos :=
    (State.cycleGiven_keeps _ .pos (by decide)).trans (State.boundary_keeps _ .pos (by decide))
  have hwing : s.endCycle.boundary.cycleGiven.wing (wingOf p) = s.cycled.wing (wingOf p) :=
    ((State.wing_congr s.cycleSettled_after (by decide) _).trans (State.wing_congr s.cycleSettled_first (by decide) _)).symm
  rw [State.live, State.live, State.present, State.present, hpos, s.cycled_pos, hwing]

theorem State.cycled_store : s.cycled.store = s.store := s.cycled_keeps .store (by decide)

theorem State.cycleGiven_sendsChunks (p : Pos) : s.endCycle.boundary.cycleGiven.sendsChunks p =
    (s.cycled.live p && !s.store.halted) := by
  have h : s.endCycle.boundary.cycleGiven.store = s.store := (State.cycleGiven_keeps _ .store (by decide)).trans
    ((State.boundary_keeps _ .store (by decide)).trans (s.endCycle_end .store (by decide)))
  rw [State.sendsChunks, s.cycleGiven_live, h]

/-- Every transfer is settled against what the seat's display then shows. -/
theorem State.cycled_delivery (p : Pos) : s.cycled.disp.delivery[p] =
    if (s.cycled.live p && !s.store.halted) = true then
      { (s.endCycle.disp.delivery[p]).settle (s.cycled.rendering (s.cycled.logical p)) with
        carried := ((s.endCycle.disp.delivery[p]).settle (s.cycled.rendering (s.cycled.logical p))).transfer.isSome }
    else { s.endCycle.disp.delivery[p] with carried := false } := by
  have after : s.cycled.disp.delivery = s.cycleSettled.disp.delivery := s.cycleSettled_after .delivery (by decide)
  have first : s.endCycle.boundary.cycleGiven.disp.delivery = s.endCycle.disp.delivery :=
    (State.cycleGiven_keeps _ .delivery (by decide)).trans (State.boundary_keeps _ .delivery (by decide))
  have shown : ∀ i, s.endCycle.boundary.cycleGiven.rendering i = s.cycled.rendering i := fun i =>
    (State.rendering_of_unseen s.cycleGiven_shown i).symm
  have logical : s.endCycle.boundary.cycleGiven.logical p = s.cycled.logical p :=
    (State.logical_congr (congrArg SeatTable.chair (s.cycleGiven_shown .seats (by decide))) p).symm
  rw [after, State.cycleSettled, State.settleTransfers]
  simp only [mapAll_get, s.cycleGiven_sendsChunks, first, shown, logical]

/-- The slots of the cycle that begins. -/
theorem State.cycled_down (p : Pos) : s.cycled.out.down[p] =
    if (s.cycled.wing (wingOf p)).state = .enumerating then ⟨silence, none⟩
    else if s.cycled.pos[p].presence = .present then
      { samples := if (s.cycled.live p && !s.store.halted) = true then s.feed (s.cycled.logical p) else silence
        control := some { indicator := s.cycled.indicator (s.cycled.logical p)
                          chunk := if (s.cycled.live p && !s.store.halted) = true then (s.cycled.disp.delivery[p]).chunk else none
                          enable := s.cycled.live p && !s.store.halted } }
    else DownSlot.silent := by
  set v := s.cycleSettled with hv
  have out : s.cycled.out = (v.sendCycle s).out := (State.keeps_trans (State.keeps_mono (State.clearSlots_keeps _) (by decide))
    (State.keeps_mono s.cycled_after (by decide)) : State.keeps _ _ [.pos, .early, .screens, .sending]) .out (by decide)
  have settle : s.endCycle.boundary.cycleGiven.keeps v [.delivery] := s.cycleSettled_first
  have wing : v.wing (wingOf p) = s.cycled.wing (wingOf p) := (State.wing_congr s.cycleSettled_after (by decide) _).symm
  have delivery : v.disp.delivery = s.cycled.disp.delivery := (s.cycleSettled_after .delivery (by decide)).symm
  have present : v.present p = decide (s.cycled.pos[p].presence = .present) := by
    have hpos : v.pos = s.endCycle.pos := (settle .pos (by decide)).trans
      ((State.cycleGiven_keeps _ .pos (by decide)).trans (State.boundary_keeps _ .pos (by decide)))
    rw [State.present, hpos, s.cycled_pos]
  have live : v.live p = s.cycled.live p := by
    rw [State.live, present, wing]
    rfl
  have store : v.store = s.store := (settle .store (by decide)).trans ((State.cycleGiven_keeps _ .store (by decide)).trans
    ((State.boundary_keeps _ .store (by decide)).trans (s.endCycle_end .store (by decide))))
  have logical : v.logical p = s.cycled.logical p :=
    (State.logical_congr (congrArg SeatTable.chair (s.cycleSettled_shown .seats (by decide))) p).symm
  have indicator : ∀ i, v.indicator i = s.cycled.indicator i := fun i => (State.indicator_of_unseen s.cycleSettled_shown i).symm
  have down : (v.sendCycle s).out.down = Vector.ofFn (v.downSlot s.feed) := rfl
  rw [out, down]
  have get : (Vector.ofFn (v.downSlot s.feed))[p] = v.downSlot s.feed p := Vector.getElem_ofFn _
  rw [get, State.downSlot]
  simp only [State.speakerOn, State.sendsChunks, live, store, present, decide_eq_true_eq, wing, delivery, logical, indicator]

end Cycle

end Sys2Proof.Machine

namespace Sys2Proof.Machine

theorem State.buffer_of_keeps {s t : State} {l : List Piece} (h : s.keeps t l) (hl : .audioReturn ∉ l) :
    t.link.buffer = s.link.buffer := (h .audioReturn hl).2.2

theorem MixBlock.transfer_congr {m n : MixBlock} (hlive : n.live = m.live) (himage : n.image = m.image)
    (hdue : n.due = m.due) : n.transfer.live = m.transfer.live ∧ n.transfer.due = m.transfer.due := by
  unfold MixBlock.transfer
  rw [hdue]
  cases m.due with
  | true => exact ⟨by simp only [if_true, himage, hlive], rfl⟩
  | false => exact ⟨hlive, hdue⟩

section Cycle
variable (s : State)

/-- The tables, the mapping and the return block of the cycle that begins. -/
theorem State.beginCycle_mix (before : State) : (s.beginCycle before).mix.cycleLive = s.mix.live ∧
    (s.beginCycle before).mix.live = s.mix.live ∧ (s.beginCycle before).mix.due = s.mix.due ∧
    (s.beginCycle before).mix.cycleChair = s.seats.chair ∧
    (s.beginCycle before).mix.cycleReturn = s.link.buffer.headD silence ∧
    (s.beginCycle before).link.buffer = s.link.buffer.tail := by
  set v := (s.setWing .a WingPort.beginCycle).setWing .b WingPort.beginCycle with hv
  have given : s.cycleGiven = v.latchFacts.giveReturn := rfl
  have latched : v.latchFacts.mix = { s.mix with cycleLive := s.mix.live, cycleChair := s.seats.chair } := rfl
  have buffer : v.latchFacts.link.buffer = s.link.buffer := rfl
  have mix : (s.beginCycle before).mix = { s.cycleGiven.mix with
      outClips := (s.beginCycle before).mix.outClips, sendClips := (s.beginCycle before).mix.sendClips } := rfl
  have link : (s.beginCycle before).link.buffer = s.cycleGiven.link.buffer :=
    State.buffer_of_keeps (s.cycleGiven_after before) (by decide)
  rw [link, mix, given]
  rcases v.latchFacts.giveReturn_cases with ⟨hb, hm, hl⟩ | ⟨b, rest, hb, hm, hl⟩
  · rw [hm, hl, latched, ← buffer, hb]
    exact ⟨rfl, rfl, rfl, rfl, rfl, rfl⟩
  · rw [hm, hl, latched, ← buffer, hb]
    exact ⟨rfl, rfl, rfl, rfl, rfl, rfl⟩

theorem State.cycled_mix : s.cycled.mix.cycleLive = s.cycled.mix.live ∧ s.cycled.mix.live = s.mix.transfer.live ∧
    s.cycled.mix.due = s.mix.transfer.due ∧ s.cycled.mix.cycleChair = s.cycled.seats.chair ∧
    s.cycled.mix.cycleReturn = s.link.buffer.headD silence ∧ s.cycled.link.buffer = s.link.buffer.tail := by
  obtain ⟨h1, h2, h3, h4, h5, h6⟩ := s.endCycle.boundary.beginCycle_mix s
  have mix : s.cycled.mix = (s.endCycle.boundary.beginCycle s).mix := by simp [State.cycled]
  have seats : s.cycled.seats = s.endCycle.boundary.seats :=
    (s.cycled_after .seats (by decide)).trans (State.beginCycle_rest _ s .seats (by decide))
  have buffer : s.cycled.link.buffer = (s.endCycle.boundary.beginCycle s).link.buffer :=
    State.buffer_of_keeps s.cycled_after (by decide)
  have before : s.endCycle.boundary.link.buffer = s.link.buffer :=
    (State.buffer_of_keeps (State.boundary_keeps _) (by decide)).trans (State.buffer_of_keeps s.endCycle_end (by decide))
  obtain ⟨hlive, himage, hpending, hdue⟩ := s.endCycle_end .tables (by decide)
  have transfer := MixBlock.transfer_congr hlive himage hdue
  obtain ⟨tlive, tdue⟩ := s.endCycle.boundary_tables
  rw [mix, seats, buffer, h1, h2, h3, h4, h5, h6, before, tlive, tdue]
  exact ⟨rfl, transfer.1, transfer.2, rfl, rfl, rfl⟩

/-- The clock's step, where the boundary is not the 200th. -/
theorem State.clockBoundary_plain (h : s.clock.cycles < 199) (he : Early.tenth ∉ s.early) :
    s.clockBoundary = { s with clock := { s.clock with cycles := s.clock.cycles + 1 }.holdover } := by
  unfold State.clockBoundary
  rw [if_neg (by simpa using he), if_neg (by omega)]

/-- The clock's step was taken already. -/
theorem State.clockBoundary_early (h : Early.tenth ∈ s.early) :
    s.clockBoundary = { s with clock := s.clock.holdover } := by
  unfold State.clockBoundary
  rw [if_pos (by simpa using h)]

theorem Clock.holdover_rest (c : Clock) : c.holdover.now = c.now ∧ c.holdover.cycles = c.cycles := by
  unfold Clock.holdover
  split <;> exact ⟨rfl, rfl⟩

/-- The clock's step of a cycle is taken after those of the tables, microphones, messages and screens. -/
theorem State.cycled_clock : ∃ v : State, s.cycled.clock = v.clockBoundary.clock ∧ s.cycled.cal = v.clockBoundary.cal ∧
    v.clock = s.clock ∧ v.early = s.early := by
  obtain ⟨v, hv, hk⟩ := s.endCycle.boundary_split
  have clock : v.clock = s.clock := (hk .clock (by decide)).trans
    ((State.transferDue_keeps _ .clock (by decide)).trans (s.endCycle_end .clock (by decide)))
  have early : v.early = s.early := (hk .early (by decide)).trans
    ((State.transferDue_keeps _ .early (by decide)).trans (s.endCycle_end .early (by decide)))
  refine ⟨v, ?_, ?_, clock, early⟩
  · rw [s.cycled_after .clock (by decide), State.beginCycle_rest _ s .clock (by decide), hv,
      State.staggerBoundary_keeps _ .clock (by decide)]
  · rw [s.cycled_after .cal (by decide), State.beginCycle_rest _ s .cal (by decide), hv,
      State.staggerBoundary_keeps _ .cal (by decide)]

/-- A transfer on its way to the text that is to be shown goes on; a text that is known is shown already; any other begins. -/
theorem Delivery.settle_towards {d : Delivery} {target : Text} (h : d.transfer.map (·.text) = some target) :
    d.settle target = d := by
  obtain ⟨t, ht, htext⟩ := Option.map_eq_some_iff.1 h
  simp only [Delivery.settle, ht, htext, if_true]

theorem Delivery.settle_known {d : Delivery} {target : Text} (h : d.transfer.map (·.text) ≠ some target)
    (k : d.known = some target) : d.settle target = { d with transfer := none } := by
  obtain ⟨known, transfer, carried⟩ := d
  cases transfer with
  | none => simp only [Delivery.settle, show known = some target from k, if_true]
  | some t =>
    have ht : t.text ≠ target := fun e => h (congrArg some e)
    simp only [Delivery.settle, show known = some target from k, if_true, ht, if_false]

theorem Delivery.settle_begins {d : Delivery} {target : Text} (h : d.transfer.map (·.text) ≠ some target)
    (k : d.known ≠ some target) : d.settle target = { d with transfer := some ⟨target, 0⟩ } := by
  obtain ⟨known, transfer, carried⟩ := d
  have k : known ≠ some target := k
  cases transfer with
  | none => simp only [Delivery.settle, k, if_false]
  | some t =>
    have ht : t.text ≠ target := fun e => h (congrArg some e)
    simp only [Delivery.settle, k, if_false, ht]

/-- The first clause of O22: what a cycle sends, receives and latches, from any state. -/
theorem State.cycled_sends :
    let t := s.cycled
    (∀ p : Pos, (t.wing (wingOf p)).state = .enumerating → t.out.down[p] = ⟨silence, none⟩) ∧
    (∀ p : Pos, (t.wing (wingOf p)).state ≠ .enumerating → t.pos[p].presence = .absent →
      t.out.down[p] = ⟨silence, some ⟨.off, none, false⟩⟩) ∧
    (∀ p : Pos, t.live p = true → s.store.halted = false →
      t.out.down[p].samples = s.feed (t.logical p) ∧
      ∃ c, t.out.down[p].control = some c ∧ c.enable = true ∧ c.indicator = t.indicator (t.logical p) ∧
        c.chunk = (t.disp.delivery[p]).chunk) ∧
    (∀ p : Pos, t.live p = true → s.store.halted = true →
      t.out.down[p] = ⟨silence, some ⟨t.indicator (t.logical p), none, false⟩⟩) := by
  have down := s.cycled_down
  generalize s.cycled = t at *
  have live : ∀ p : Pos, t.live p = true → (t.wing (wingOf p)).state ≠ .enumerating ∧ t.pos[p].presence = .present :=
    fun p h => ⟨t.live_not_enumerating p h, State.live_present h⟩
  refine ⟨fun p h => ?_, fun p h k => ?_, fun p h k => ?_, fun p h k => ?_⟩
  · rw [down, if_pos h]
  · rw [down, if_neg h, if_neg (by rw [k]; decide)]
    rfl
  · have sent : t.out.down[p] = ⟨s.feed (t.logical p), some ⟨t.indicator (t.logical p), (t.disp.delivery[p]).chunk, true⟩⟩ := by
      rw [down, if_neg (live p h).1, if_pos (live p h).2, h, k]
      simp only [Bool.not_false, Bool.and_self, if_true]
    rw [sent]
    exact ⟨rfl, _, rfl, rfl, rfl, rfl⟩
  · rw [down, if_neg (live p h).1, if_pos (live p h).2, h, k]
    simp only [Bool.not_true, Bool.and_false, Bool.false_eq_true, if_false]

end Cycle

end Sys2Proof.Machine

namespace Sys2Proof.Machine

/-! ## Limits -/

/-- What the limit of a turn is made of is the same in the two states. -/
structure State.SameLimits (s t : State) : Prop where
  classes : s.sameClasses t
  recs : ∀ p : Pos, (t.seats.recs[p]).limitInForce = (s.seats.recs[p]).limitInForce
  speakLimit : t.mic.speakLimit = s.mic.speakLimit
  limitAction : t.mic.limitAction = s.mic.limitAction
  cfg : t.cfg = s.cfg

theorem State.SameLimits.refl (s : State) : s.SameLimits s := ⟨s.sameClasses_refl, fun _ => rfl, rfl, rfl, rfl⟩

theorem State.SameLimits.trans {s t u : State} (h : s.SameLimits t) (k : t.SameLimits u) : s.SameLimits u :=
  ⟨State.sameClasses_trans h.classes k.classes, fun p => (k.recs p).trans (h.recs p), k.speakLimit.trans h.speakLimit,
    k.limitAction.trans h.limitAction, k.cfg.trans h.cfg⟩

theorem State.SameLimits.limitOf {s t : State} (h : s.SameLimits t) (i : Seat) : t.limitOf i = s.limitOf i := by
  have phys := State.phys_congr h.classes.1 i
  have force : (t.seatRec i).limitInForce = (s.seatRec i).limitInForce := by
    simp only [State.seatRec, phys]
    exact h.recs _
  rw [State.limitOf, State.limitOf, State.classOf_same h.classes, force, h.speakLimit]

/-- What leaves the seat table, the session, the settings and the session's limits leaves the limits. -/
theorem State.SameLimits.of_eq {s t : State} (hs : t.seats = s.seats) (hc : t.cal.session = s.cal.session)
    (hl : t.mic.speakLimit = s.mic.speakLimit) (ha : t.mic.limitAction = s.mic.limitAction) (hg : t.cfg = s.cfg) :
    s.SameLimits t := ⟨State.sameClasses_of hs hc, fun p => by rw [hs], hl, ha, hg⟩

section Limits
variable (s : State) (seat : Seat)

theorem State.setMic_limits (f : MicRec → MicRec) : s.SameLimits (s.setMic seat f) := .of_eq rfl rfl rfl rfl rfl

theorem State.notice_limits (k : Nat) (b : List Byte) : s.SameLimits (s.notice k b) := .of_eq rfl rfl rfl rfl rfl

theorem SeatRec.capture_limit (r : SeatRec) (n : Nat) : (r.capture n).limitInForce = r.limitInForce := rfl

theorem State.removeCore_limits (r : Reason) : s.SameLimits (s.removeCore seat r) := by
  obtain ⟨-, hl, ha⟩ := s.removeCore_chair seat r
  refine ⟨s.removeCore_classes seat r, fun p => ?_, hl, ha, by simp⟩
  cases h : s.holds seat with
  | false => rw [s.removeCore_of_not _ _ h]
  | true =>
    rw [s.removeCore_recs seat p r h]
    split
    · rw [SeatRec.capture_limit]
    · rfl

/-- The marks of a turn against its limit, and a LIMIT_WARN notice on a new warning. -/
def State.limitMarked (l : Nat) : State :=
  let m := s.micOf seat
  let warning : Bool := s.warnPoint l ≤ m.timer
  let overMark : Bool := s.mic.limitAction = .warn && decide (limitPoint l ≤ m.timer)
  let s1 := s.setMic seat fun m => { m with warning := warning, overMark := overMark }
  if warning && !m.warning then s1.notice 0x03 (be8 seat.val ++ be16 l ++ be16 m.timer) else s1

theorem State.evaluateLimit_closed (h : (s.micOf seat).state ≠ .opened) : s.evaluateLimit seat = s := by
  rw [State.evaluateLimit]
  exact if_pos h

theorem State.evaluateLimit_none (h : (s.micOf seat).state = .opened) (hl : s.limitOf seat = none) :
    s.evaluateLimit seat = s.setMic seat fun m => { m with warning := false, overMark := false } := by
  rw [State.evaluateLimit]
  simp only [h, ne_eq, not_true_eq_false, if_false, hl]

theorem State.evaluateLimit_some {l : Nat} (h : (s.micOf seat).state = .opened) (hl : s.limitOf seat = some l) :
    s.evaluateLimit seat = if (s.mic.limitAction = .auto && decide (limitPoint l ≤ (s.micOf seat).timer)) = true then
      (s.limitMarked seat l).removeThenAdvance seat .limit else s.limitMarked seat l := by
  rw [State.evaluateLimit]
  simp only [h, ne_eq, not_true_eq_false, if_false, hl]
  rfl

theorem State.limitMarked_micOf (l : Nat) (i : Seat) : (s.limitMarked seat l).micOf i = if i = seat then
    { s.micOf i with warning := decide (s.warnPoint l ≤ (s.micOf seat).timer)
                     overMark := s.mic.limitAction = .warn && decide (limitPoint l ≤ (s.micOf seat).timer) }
    else s.micOf i := by
  refine Eq.trans ?_ (s.micOf_setMic seat i fun m => { m with
    warning := decide (s.warnPoint l ≤ (s.micOf seat).timer)
    overMark := s.mic.limitAction = .warn && decide (limitPoint l ≤ (s.micOf seat).timer) })
  unfold State.limitMarked
  simp only
  split
  · exact State.micOf_congr (State.notice_keeps _ _ _ .mic (by decide)) i
  · rfl

theorem State.limitMarked_keeps (l : Nat) : s.keeps (s.limitMarked seat l) [.mic, .sending, .linkCounters] := by
  unfold State.limitMarked
  simp only
  split
  · exact State.keeps_trans (State.keeps_mono (s.setMic_keeps seat _) (by decide))
      (State.keeps_mono (State.notice_keeps _ _ _) (by decide))
  · exact State.keeps_mono (s.setMic_keeps seat _) (by decide)

theorem State.limitMarked_limits (l : Nat) : s.SameLimits (s.limitMarked seat l) := by
  unfold State.limitMarked
  simp only
  split
  · exact (s.setMic_limits seat _).trans (State.notice_limits _ _ _)
  · exact s.setMic_limits seat _

/-- The marks of a microphone in a turn against the limit that applies to it. -/
def State.turnMarked (limit : Option Nat) (m : MicRec) : MicRec :=
  match limit with
  | none => { m with warning := false, overMark := false }
  | some l => { m with warning := decide (s.warnPoint l ≤ m.timer), overMark := decide (limitPoint l ≤ m.timer) }

/-- Under WARN an evaluation marks the turn, and removes nobody. -/
theorem State.evaluateLimit_warn (hw : s.mic.limitAction = .warn) :
    (∀ i, (s.evaluateLimit seat).micOf i = if i = seat ∧ (s.micOf seat).state = .opened then
      s.turnMarked (s.limitOf seat) (s.micOf seat) else s.micOf i) ∧
    s.keeps (s.evaluateLimit seat) [.mic, .sending, .linkCounters] ∧ s.SameLimits (s.evaluateLimit seat) ∧
    (s.limitOf seat = none → (s.evaluateLimit seat).link = s.link) := by
  by_cases h : (s.micOf seat).state = .opened
  · cases hl : s.limitOf seat with
    | none =>
      rw [s.evaluateLimit_none seat h hl]
      refine ⟨fun i => ?_, State.keeps_mono (s.setMic_keeps seat _) (by decide), s.setMic_limits seat _, fun _ => rfl⟩
      rw [State.micOf_setMic]
      by_cases hi : i = seat <;> simp [hi, h, State.turnMarked]
    | some l =>
      have e : s.evaluateLimit seat = s.limitMarked seat l := by
        rw [s.evaluateLimit_some seat h hl, if_neg (by simp [hw])]
      rw [e]
      refine ⟨fun i => ?_, s.limitMarked_keeps seat l, s.limitMarked_limits seat l, fun k => by cases k⟩
      rw [s.limitMarked_micOf]
      by_cases hi : i = seat <;> simp [hi, h, State.turnMarked, hw]
  · rw [s.evaluateLimit_closed seat h]
    exact ⟨fun i => by simp [h], s.keeps_refl _, .refl s, fun _ => rfl⟩

end Limits

end Sys2Proof.Machine

namespace Sys2Proof.Machine

/-! ## A boundary at the microphones -/

section MicBoundary
variable (s : State)

/-- The counters of every microphone have moved, and no step has been taken yet. -/
def State.ticked : State :=
  { s with mic := { s.mic with recs := mapAll s.mic.recs fun i m => m.tick (s.early.contains (.mic i)) } }

/-- The seats whose gap ends or whose turn advances. -/
def State.micDue : List Seat :=
  (numbers 64).filter fun i => !s.early.contains (.mic i) && ((s.micOf i).gapDue || (s.micOf i).turnDue)

/-- The step of one seat that is due. -/
def State.micStep (t : State) (i : Seat) : State :=
  if (t.micOf i).state ≠ (s.micOf i).state then t
  else if (s.micOf i).gapDue then t.endGap i else t.advanceTurn i

theorem State.micBoundary_eq : s.micBoundary = s.micDue.foldl s.micStep s.ticked := rfl

theorem State.ticked_micOf (i : Seat) : s.ticked.micOf i = (s.micOf i).tick (s.early.contains (.mic i)) := by
  rw [State.micOf, State.ticked]
  simp only [mapAll_get]
  rfl

theorem State.ticked_keeps : s.keeps s.ticked [.mic] := by
  intro q hq; cases q <;> simp_all [State.agrees, State.ticked]

theorem State.ticked_limits : s.SameLimits s.ticked :=
  .of_eq (s.ticked_keeps .seats (by decide)) (congrArg Calendar.session (s.ticked_keeps .cal (by decide)))
    (by rw [State.ticked]) (by rw [State.ticked]) (s.ticked_keeps .cfg (by decide))

theorem State.mem_micDue (i : Seat) : i ∈ s.micDue ↔ s.early.contains (.mic i) = false ∧
    ((s.micOf i).gapDue = true ∨ (s.micOf i).turnDue = true) := by
  rw [State.micDue, List.mem_filter]
  simp

/-- A microphone whose own step is due, or was taken already, has its flash moved alone. -/
theorem MicRec.tick_due (m : MicRec) (b : Bool) (h : b = true ∨ m.gapDue = true ∨ m.turnDue = true) :
    m.tick b = { m with flash := m.flash - 1 } := by
  rw [MicRec.tick]
  exact if_pos (by rcases h with h | h | h <;> simp [h])

theorem MicRec.gapDue_iff (m : MicRec) : m.gapDue = true ↔ (m.state = .opening ∨ m.state = .closing) ∧ m.gap ≤ 1 := by
  simp [MicRec.gapDue]

theorem MicRec.turnDue_iff (m : MicRec) : m.turnDue = true ↔ m.state = .opened ∧ 199 ≤ m.cycles := by
  simp [MicRec.turnDue]

/-- What the step of a due seat makes of its microphone under WARN. -/
def State.micStepped (i : Seat) : MicRec :=
  let m := { s.micOf i with flash := (s.micOf i).flash - 1 }
  match m.state with
  | .opening => s.turnMarked (s.limitOf i) { m with state := .opened, gap := 0, timer := 0, cycles := 0 }
  | .closing => { m with state := .closed, gap := 0 }
  | .opened => s.turnMarked (s.limitOf i) { m with timer := satAdd m.timer 1, cycles := 0 }
  | .closed => m

/-- The record of a position whose seats of `done` have taken their steps: one that opened has spoken. -/
def State.recStepped (done : List Seat) (p : Pos) : SeatRec :=
  { s.seats.recs[p] with spoke := s.seats.recs[p].spoke ||
      (s.cal.session.runs && decide (s.logical p ∈ done ∧ (s.micOf (s.logical p)).state = .opening)) }

/-- Under WARN outside CLOSING the seats of `done` have taken their steps. -/
structure State.StepsWarn (u : State) (done : List Seat) : Prop where
  keeps : s.keeps u [.mic, .seats, .sending, .linkCounters]
  limits : s.SameLimits u
  seats : u.seats = { s.seats with recs := u.seats.recs }
  recs : ∀ p : Pos, u.seats.recs[p] = s.recStepped done p
  mics : ∀ i, u.micOf i = if i ∈ done then s.micStepped i else (s.micOf i).tick (s.early.contains (.mic i))
  link : (∀ i, s.limitOf i = none) → u.link = s.link

theorem State.turnMarked_congr {s t : State} (h : t.cfg = s.cfg) (l : Option Nat) (m : MicRec) :
    t.turnMarked l m = s.turnMarked l m := by
  cases l with
  | none => rfl
  | some l =>
    unfold State.turnMarked State.warnPoint
    rw [h]

theorem State.recStepped_cons {done : List Seat} {i : Seat} (p : Pos)
    (h : p ≠ s.phys i ∨ (s.micOf i).state ≠ .opening ∨ s.cal.session.runs = false) :
    s.recStepped (done ++ [i]) p = s.recStepped done p := by
  rw [State.recStepped, State.recStepped]
  congr 2
  cases hr : s.cal.session.runs with
  | false => rfl
  | true =>
    rw [Bool.true_and, Bool.true_and, decide_eq_decide, List.mem_append, List.mem_singleton]
    refine ⟨fun ⟨a, b⟩ => ⟨a.elim id fun e => ?_, b⟩, fun ⟨a, b⟩ => ⟨.inl a, b⟩⟩
    rcases h with h | h | h
    · exact absurd (by rw [← e, State.phys_logical]) h
    · exact absurd (e ▸ b) h
    · rw [hr] at h; cases h

theorem State.recStepped_opens {done : List Seat} {i : Seat} (h : (s.micOf i).state = .opening)
    (hr : s.cal.session.runs = true) :
    s.recStepped (done ++ [i]) (s.phys i) = { s.recStepped done (s.phys i) with spoke := true } := by
  simp [State.recStepped, s.logical_phys, h, hr]

variable {s}

/-- A due gap or turn of `i`, of which only the microphone, the seat's record and the line are touched. -/
theorem State.StepsWarn.next {u v : State} {done : List Seat} {i : Seat} (h : s.StepsWarn u done)
    (keeps : u.keeps v [.mic, .seats, .sending, .linkCounters]) (limits : u.SameLimits v)
    (seats : v.seats = { u.seats with recs := v.seats.recs })
    (recs : ∀ p : Pos, v.seats.recs[p] = s.recStepped (done ++ [i]) p)
    (mics : ∀ j, v.micOf j = if j = i then s.micStepped i else u.micOf j)
    (link : s.limitOf i = none → v.link = u.link) : s.StepsWarn v (done ++ [i]) where
  keeps := State.keeps_trans h.keeps keeps
  limits := h.limits.trans limits
  seats := by rw [seats, h.seats]
  recs := recs
  mics j := by
    rw [mics, h.mics]
    by_cases hj : j = i
    · simp [hj]
    · simp [hj]
  link k := (link (k i)).trans (h.link k)

theorem State.StepsWarn.step {u : State} {done : List Seat} {i : Seat} (hw : s.mic.limitAction = .warn)
    (hc : s.cal.session ≠ .closing) (hi : i ∈ s.micDue) (hd : i ∉ done) (h : s.StepsWarn u done) :
    s.StepsWarn (s.micStep u i) (done ++ [i]) := by
  obtain ⟨-, hdue⟩ := (s.mem_micDue i).1 hi
  have mic : u.micOf i = { s.micOf i with flash := (s.micOf i).flash - 1 } := by
    rw [h.mics, if_neg hd, MicRec.tick_due _ _ (.inr hdue)]
  have cal : u.cal = s.cal := h.keeps .cal (by decide)
  have phys : u.phys i = s.phys i := State.phys_congr h.limits.classes.1 i
  have warn : u.mic.limitAction = .warn := h.limits.limitAction.trans hw
  have same : ¬ (u.micOf i).state ≠ (s.micOf i).state := by rw [mic]; simp
  rw [State.micStep, if_neg same]
  -- an evaluation that follows a change `f` of the microphone into a turn
  have turn : ∀ (v : State) (f : MicRec → MicRec), v.mic = (u.setMic i f).mic → u.keeps v [.mic, .seats] → u.SameLimits v →
      (f (u.micOf i)).state = .opened → s.micStepped i = s.turnMarked (s.limitOf i) (f (u.micOf i)) →
      v.seats = { u.seats with recs := v.seats.recs } → v.link = u.link →
      (∀ p : Pos, v.seats.recs[p] = s.recStepped (done ++ [i]) p) → s.StepsWarn (v.evaluateLimit i) (done ++ [i]) := by
    intro v f vmic vkeeps vlimits opened stepped vseats vlink vrecs
    obtain ⟨emic, ekeeps, elimits, elink⟩ := v.evaluateLimit_warn i (vlimits.limitAction.trans warn)
    have vi : ∀ j, v.micOf j = if j = i then f (u.micOf j) else u.micOf j := fun j => by
      rw [State.micOf_congr vmic, State.micOf_setMic]
    have eseats : (v.evaluateLimit i).seats = v.seats := ekeeps .seats (by decide)
    have vlimit : v.limitOf i = s.limitOf i := (vlimits.limitOf i).trans (h.limits.limitOf i)
    refine h.next (State.keeps_trans (State.keeps_mono vkeeps (by decide)) (State.keeps_mono ekeeps (by decide)))
      (vlimits.trans elimits) (by rw [eseats]; exact vseats) (fun p => by rw [eseats]; exact vrecs p) (fun j => ?_)
      fun k => (elink (vlimit.trans k)).trans vlink
    rw [emic]
    by_cases hj : j = i
    · subst hj
      rw [if_pos rfl, vi, if_pos rfl, if_pos ⟨rfl, opened⟩, vlimit, stepped]
      exact State.turnMarked_congr ((vlimits.cfg.trans h.limits.cfg)) _ _
    · rw [if_neg fun k => hj k.1, if_neg hj, vi, if_neg hj]
  cases hst : (s.micOf i).state with
  | closed =>
    rw [MicRec.gapDue_iff, MicRec.turnDue_iff, hst] at hdue
    simp at hdue
  | opened =>
    have noGap : ¬ (s.micOf i).gapDue = true := by rw [MicRec.gapDue_iff, hst]; simp
    rw [if_neg noGap, State.advanceTurn]
    refine turn _ _ rfl (State.keeps_mono (u.setMic_keeps i _) (by decide)) (u.setMic_limits i _) (by rw [mic]; exact hst) ?_
      rfl rfl fun p => ?_
    · rw [State.micStepped, mic]
      simp only [hst]
    · rw [s.recStepped_cons p (.inr (.inl (by rw [hst]; simp)))]
      exact h.recs p
  | closing =>
    have gap : (s.micOf i).gapDue = true := by
      rcases hdue with hdue | hdue
      · exact hdue
      · rw [MicRec.turnDue_iff, hst] at hdue
        simp at hdue
    have quiet : (u.setMic i fun m => { m with state := .closed, gap := 0 }).reportClosed =
        u.setMic i fun m => { m with state := .closed, gap := 0 } := by
      rcases State.reportClosed_cases (u.setMic i fun m => { m with state := .closed, gap := 0 }) with e | ⟨k, -⟩
      · exact e
      · exact absurd (cal ▸ k) hc
    have ustate : (u.micOf i).state = .closing := by rw [mic]; exact hst
    rw [if_pos gap, State.endGap, ustate]
    simp only [quiet]
    refine h.next (State.keeps_mono (u.setMic_keeps i _) (by decide)) (u.setMic_limits i _) rfl (fun p => ?_) (fun j => ?_)
      fun _ => rfl
    · rw [s.recStepped_cons p (.inr (.inl (by rw [hst]; simp)))]
      exact h.recs p
    · rw [State.micOf_setMic]
      by_cases hj : j = i
      · subst hj
        rw [if_pos rfl, if_pos rfl, State.micStepped, mic]
        simp only [hst]
      · rw [if_neg hj, if_neg hj]
  | opening =>
    have gap : (s.micOf i).gapDue = true := by
      rcases hdue with hdue | hdue
      · exact hdue
      · rw [MicRec.turnDue_iff, hst] at hdue
        simp at hdue
    have ustate : (u.micOf i).state = .opening := by rw [mic]; exact hst
    have stepped : s.micStepped i =
        s.turnMarked (s.limitOf i) { u.micOf i with state := .opened, gap := 0, timer := 0, cycles := 0 } := by
      rw [State.micStepped, mic]
      simp only [hst]
    rw [if_pos gap, State.endGap, ustate]
    simp only [cal]
    cases hr : s.cal.session.runs with
    | false =>
      rw [if_neg (by simp)]
      refine turn _ _ rfl (State.keeps_mono (u.setMic_keeps i _) (by decide)) (u.setMic_limits i _) rfl stepped rfl rfl
        fun p => ?_
      rw [s.recStepped_cons p (.inr (.inr hr))]
      exact h.recs p
    | true =>
      rw [if_pos rfl]
      set w := u.setMic i fun m => { m with state := .opened, gap := 0, timer := 0, cycles := 0 } with hw'
      have wphys : w.phys i = s.phys i := phys
      have recsOf : ∀ p : Pos, (w.setRec (w.phys i) fun r => { r with spoke := true }).seats.recs[p] =
          if p = s.phys i then { u.seats.recs[p] with spoke := true } else u.seats.recs[p] := fun p => by
        rw [wphys]
        exact modify_get u.seats.recs _ p _
      refine turn (w.setRec (w.phys i) fun r => { r with spoke := true }) _ rfl
        (State.keeps_trans (State.keeps_mono (u.setMic_keeps i _) (by decide)) (State.keeps_mono (State.setRec_keeps _ _ _) (by decide)))
        ⟨⟨rfl, rfl, fun p => ?_⟩, fun p => ?_, rfl, rfl, rfl⟩ rfl stepped rfl rfl fun p => ?_
      · rw [recsOf]
        split <;> exact ⟨rfl, rfl⟩
      · rw [recsOf]
        split <;> rfl
      · rw [recsOf]
        by_cases hp : p = s.phys i
        · subst hp
          rw [if_pos rfl, s.recStepped_opens hst hr, h.recs]
        · rw [if_neg hp, s.recStepped_cons p (.inl hp), h.recs]

end MicBoundary

end Sys2Proof.Machine

namespace Sys2Proof.Machine

/-- What each step of a fold carries on, for one more entry done, holds when all are done. -/
theorem foldl_done {α β : Type} {f : β → α → β} {P : β → List α → Prop} {l : List α}
    (step : ∀ u done a, a ∈ l → a ∉ done → P u done → P (f u a) (done ++ [a])) (hn : l.Nodup) {u : β} (h : P u []) :
    P (l.foldl f u) l := by
  have all : ∀ (rest done : List α) (v : β), done ++ rest = l → P v done → P (rest.foldl f v) l := by
    intro rest
    induction rest with
    | nil =>
      intro done v hl hv
      rw [List.append_nil] at hl
      exact hl ▸ hv
    | cons a rest ih =>
      intro done v hl hv
      have ha : a ∉ done := fun k => by
        rw [← hl] at hn
        exact (List.nodup_append.1 hn).2.2 a k a (by simp) rfl
      exact ih (done ++ [a]) (f v a) (by simpa using hl) (step v done a (by rw [← hl]; simp) ha hv)
  exact all l [] u rfl h

section MicBoundary
variable {s : State}

theorem State.micDue_nodup : s.micDue.Nodup := List.Nodup.filter _ (List.nodup_finRange 64)

theorem State.recStepped_nil (p : Pos) : s.recStepped [] p = s.seats.recs[p] := by
  simp [State.recStepped]

theorem State.StepsWarn.start : s.StepsWarn s.ticked [] where
  keeps := State.keeps_mono s.ticked_keeps (by decide)
  limits := s.ticked_limits
  seats := by rw [s.ticked_keeps .seats (by decide)]
  recs p := by
    have h : s.ticked.seats = s.seats := s.ticked_keeps .seats (by decide)
    rw [h, State.recStepped_nil]
  mics i := by rw [s.ticked_micOf, if_neg (by simp)]
  link _ := by rw [State.ticked]

/-- A boundary at the microphones under WARN, outside CLOSING. -/
theorem State.micBoundary_warn (hw : s.mic.limitAction = .warn) (hc : s.cal.session ≠ .closing) :
    s.StepsWarn s.micBoundary s.micDue := by
  rw [State.micBoundary_eq]
  exact foldl_done (P := s.StepsWarn) (fun u done i hi hd h => h.step hw hc hi hd) State.micDue_nodup .start

/-- The microphone of a seat after a boundary under WARN. -/
def State.micAfter (s : State) (i : Seat) : MicRec :=
  if i ∈ s.micDue then s.micStepped i else (s.micOf i).tick (s.early.contains (.mic i))

end MicBoundary

/-! ## A cycle that finds no slots to take, no voice operation and no end of a pass -/

section Quiet
variable {s : State}

theorem State.slotEvent_none {p : Pos} (h : s.pos[p].answer = none ∧ s.pos[p].event = none) : s.slotEvent p = s := by
  have ha : s.slotAnswer p = s := by simp only [State.slotAnswer, h.1]
  simp only [State.slotEvent, ha, h.2]

theorem State.takeSlots_none (h : ∀ p : Pos, s.pos[p].answer = none ∧ s.pos[p].event = none) : s.takeSlots = s :=
  List.foldl_fixed' (fun p => State.slotEvent_none (h p)) _

theorem State.voiceCycle_off (h : s.floor.mode ≠ .voice) :
    s.voiceCycle = s.setFloor fun f => { f with seen := Vector.ofFn s.voiceStart } := by
  rw [State.voiceCycle]
  simp only [h, if_false]

theorem State.moveScan_keeps (s : State) :
    s.keeps ((s.setWing .a WingPort.moveScan).setWing .b WingPort.moveScan) [.wings] :=
  State.keeps_trans (s.setWing_keeps _ _) (State.setWing_keeps _ _ _)

theorem State.moveScan_wing (s : State) (w : Wing) :
    ((s.setWing .a WingPort.moveScan).setWing .b WingPort.moveScan).wing w = (s.wing w).moveScan := by
  cases w
  · rw [State.setWing_wing_ne _ (by decide), State.setWing_wing]
  · rw [State.setWing_wing, State.setWing_wing_ne _ (by decide)]

/-- The end of a quiet cycle moves the scan and the voice-seen marks alone. -/
theorem State.quiet.endCycle (h : s.quiet) : s.keeps s.endCycle [.floor, .wings] ∧
    s.endCycle.floor = { s.floor with seen := s.endCycle.floor.seen } ∧
    ∀ w, s.endCycle.wing w = (s.wing w).moveScan := by
  obtain ⟨-, -, hslots, hmode, ha, hb⟩ := h
  have e := s.endCycle_noPass ha hb
  rw [State.takeSlots_none hslots, State.voiceCycle_off hmode] at e
  rw [e]
  refine ⟨State.keeps_trans (State.keeps_mono (s.setFloor_keeps _) (by decide))
    (State.keeps_mono (State.moveScan_keeps _) (by decide)), ?_, fun w => ?_⟩
  · rw [State.moveScan_keeps _ .floor (by decide)]
    rfl
  · rw [State.moveScan_wing, State.wing_congr (s.setFloor_keeps _) (by decide)]

/-- Where the steps of a boundary begin. -/
def State.atBoundary (s : State) : State := s.endCycle.transferDue

theorem State.quiet.atBoundary (h : s.quiet) : s.keeps s.atBoundary [.floor, .wings, .tables] :=
  State.keeps_trans (State.keeps_mono h.endCycle.1 (by decide)) (State.keeps_mono (State.transferDue_keeps _) (by decide))

theorem State.quiet.floor (h : s.quiet) : s.atBoundary.floor = { s.floor with seen := s.atBoundary.floor.seen } := by
  have e : s.atBoundary.floor = s.endCycle.floor := State.transferDue_keeps _ .floor (by decide)
  rw [e]
  exact h.endCycle.2.1

/-- The limits, the microphones and the marks of steps already taken are those of the state. -/
theorem State.quiet.limits (h : s.quiet) : s.SameLimits s.atBoundary :=
  have mic : s.atBoundary.mic = s.mic := h.atBoundary .mic (by decide)
  .of_eq (h.atBoundary .seats (by decide)) (congrArg Calendar.session (h.atBoundary .cal (by decide)))
    (congrArg MicBlock.speakLimit mic) (congrArg MicBlock.limitAction mic) (h.atBoundary .cfg (by decide))

theorem State.micDue_congr {s t : State} (hm : t.mic = s.mic) (he : t.early = s.early) : t.micDue = s.micDue := by
  have mic : t.micOf = s.micOf := funext fun j => State.micOf_congr hm j
  rw [State.micDue, State.micDue, mic, he]

theorem State.micStepped_congr {s t : State} (h : s.SameLimits t) (hm : t.mic = s.mic) (i : Seat) :
    t.micStepped i = s.micStepped i := by
  have marked : t.turnMarked (t.limitOf i) = s.turnMarked (s.limitOf i) := funext fun m => by
    rw [h.limitOf, State.turnMarked_congr h.cfg]
  rw [State.micStepped, State.micStepped, State.micOf_congr hm, marked]

theorem State.quiet.micAfter (h : s.quiet) : s.atBoundary.micAfter = s.micAfter := funext fun i => by
  have mic : s.atBoundary.mic = s.mic := h.atBoundary .mic (by decide)
  have early : s.atBoundary.early = s.early := h.atBoundary .early (by decide)
  rw [State.micAfter, State.micAfter, State.micDue_congr mic early, State.micStepped_congr h.limits mic,
    State.micOf_congr mic, early]

/-- The clock's step of this boundary is not the end of a tenth, or was taken already. -/
def State.noTenth (s : State) : Prop := s.clock.cycles < 199 ∨ Early.tenth ∈ s.early

/-- Where no tenth ends, the clock's step moves the clock alone. -/
theorem State.clockBoundary_noTenth (h : s.noTenth) : s.keeps s.clockBoundary [.clock] := by
  by_cases he : Early.tenth ∈ s.early
  · rw [s.clockBoundary_early he]
    intro q hq; cases q <;> simp_all [State.agrees]
  · rw [s.clockBoundary_plain (h.resolve_right he) he]
    intro q hq; cases q <;> simp_all [State.agrees]

/-- The displays, the clock and the stagger after the microphones. -/
theorem State.boundary_after (s : State) (h : s.noTenth) :
    s.transferDue.micBoundary.keeps s.boundary [.messages, .screens, .sending, .clock, .mgmt] := by
  obtain ⟨v, hv, hk⟩ := s.boundary_split
  have before : s.transferDue.micBoundary.keeps ((s.transferDue.micBoundary.messageBoundary).screenBoundary s)
      [.messages, .screens, .sending] :=
    State.keeps_trans (State.keeps_mono (State.messageBoundary_keeps _) (by decide))
      (State.keeps_mono (State.screenBoundary_keeps _ _) (by decide))
  have stays : ((s.transferDue.micBoundary.messageBoundary).screenBoundary s).noTenth := by
    have k := State.keeps_trans (State.keeps_trans (State.keeps_mono s.transferDue_keeps (by decide))
      (State.keeps_mono (State.micBoundary_keeps _) (by decide)))
      (State.keeps_mono before (by decide)) (l := .tables :: sessionPieces)
    rw [State.noTenth, k .clock (by decide), k .early (by decide)]
    exact h
  exact State.keeps_trans (State.keeps_mono before (by decide)) (State.keeps_trans
    (State.keeps_mono (State.clockBoundary_noTenth stays) (by decide)) (State.keeps_mono (State.staggerBoundary_keeps _) (by decide)))

/-- After the microphones' steps a cycle without the end of a tenth touches no floor, no seat table and no calendar. -/
theorem State.cycled_from_mics (s : State) (h : s.noTenth) : s.atBoundary.micBoundary.keeps s.cycled [.messages, .screens, .sending,
    .clock, .mgmt, .wings, .pos, .mic, .mixCycle, .audioReturn, .linkCounters, .delivery, .out, .outCounter, .early] := by
  have stays : s.endCycle.noTenth := by
    rw [State.noTenth, s.endCycle_end .clock (by decide), s.endCycle_end .early (by decide)]
    exact h
  exact State.keeps_trans (State.keeps_mono (State.boundary_after _ stays) (by decide)) (State.keeps_trans
    (State.keeps_mono (State.beginCycle_rest _ s) (by decide)) (State.keeps_mono s.cycled_after (by decide)))

theorem MicRec.eq_latched {m n : MicRec} {o : Bool} {d : DuckClass} (h : n = { m with cycleOpen := o, cycleDuck := d }) :
    n = { m with cycleOpen := n.cycleOpen, cycleDuck := n.cycleDuck } := by
  subst h; rfl

/-- The microphones of the command are those after their steps, with the facts of the cycle that begins. -/
theorem State.cycled_mics (s : State) (h : s.noTenth) (i : Seat) : s.cycled.micOf i = { s.atBoundary.micBoundary.micOf i with
    cycleOpen := (s.cycled.micOf i).cycleOpen, cycleDuck := (s.cycled.micOf i).cycleDuck } := by
  have stays : s.endCycle.noTenth := by
    rw [State.noTenth, s.endCycle_end .clock (by decide), s.endCycle_end .early (by decide)]
    exact h
  have latched := MicRec.eq_latched (s.cycled_micOf i)
  rwa [State.micOf_congr (State.boundary_after _ stays .mic (by decide))] at latched

/-- A quiet cycle under WARN, outside CLOSING, without the end of a tenth: the calendar and the floor are as they were, and
the microphones and records have taken their steps. -/
theorem State.quiet.cycled_warn (h : s.quiet) (hw : s.mic.limitAction = .warn) (hc : s.cal.session ≠ .closing)
    (hn : s.noTenth) : s.cycled.cal = s.cal ∧ s.cycled.floor = { s.floor with seen := s.cycled.floor.seen } ∧
    (∀ i, s.cycled.micOf i = { s.micAfter i with
      cycleOpen := (s.cycled.micOf i).cycleOpen, cycleDuck := (s.cycled.micOf i).cycleDuck }) ∧
    (∀ i, s.cycled.seatRec i = { s.seatRec i with spoke := (s.seatRec i).spoke ||
      (s.cal.session.runs && decide (i ∈ s.micDue ∧ (s.micOf i).state = .opening)) }) := by
  have bmic : s.atBoundary.mic = s.mic := h.atBoundary .mic (by decide)
  have bcal : s.atBoundary.cal = s.cal := h.atBoundary .cal (by decide)
  have bseats : s.atBoundary.seats = s.seats := h.atBoundary .seats (by decide)
  have bdue := State.micDue_congr bmic (h.atBoundary .early (by decide))
  have steps := State.micBoundary_warn (s := s.atBoundary) (by rw [bmic]; exact hw) (by rw [bcal]; exact hc)
  have after := s.cycled_from_mics hn
  refine ⟨?_, ?_, fun i => ?_, fun i => ?_⟩
  · rw [after .cal (by decide), steps.keeps .cal (by decide), bcal]
  · rw [after .floor (by decide), steps.keeps .floor (by decide), h.floor]
  · have mid : s.atBoundary.micBoundary.micOf i = s.micAfter i := (steps.mics i).trans (congrFun h.micAfter i)
    have latched := s.cycled_mics hn i
    rwa [mid] at latched
  · have seats : s.cycled.seats = s.atBoundary.micBoundary.seats := after .seats (by decide)
    have phys : s.cycled.phys i = s.phys i := State.phys_congr (by rw [seats, steps.seats, bseats]) i
    rw [State.seatRec]
    simp only [phys, seats]
    rw [steps.recs, State.recStepped]
    have logical : s.atBoundary.logical (s.phys i) = i :=
      (State.logical_congr (congrArg SeatTable.chair bseats) _).trans (s.logical_phys i)
    rw [logical, bseats, bcal, bdue, State.micOf_congr bmic]
    rfl

end Quiet

end Sys2Proof.Machine

namespace Sys2Proof.Machine

/-! ## What a boundary makes of each microphone -/

section Tick
variable {m : MicRec}

/-- A microphone that differs in the facts latched for the cycle agrees in everything else. -/
theorem MicRec.of_latched {n : MicRec} {o : Bool} {d : DuckClass} (h : n = { m with cycleOpen := o, cycleDuck := d }) :
    n.state = m.state ∧ n.gap = m.gap ∧ n.timer = m.timer ∧ n.cycles = m.cycles ∧ n.warning = m.warning ∧
      n.overMark = m.overMark ∧ n.flash = m.flash ∧ n.queued = m.queued := by
  subst h
  exact ⟨rfl, rfl, rfl, rfl, rfl, rfl, rfl, rfl⟩

theorem MicRec.tick_closed (h : m.state = .closed) (b : Bool) : m.tick b = { m with flash := m.flash - 1 } := by
  rw [MicRec.tick]
  simp only [h]
  split <;> rfl

theorem MicRec.tick_gap (h : m.state = .opening ∨ m.state = .closing) (hg : 2 ≤ m.gap) :
    m.tick false = { m with flash := m.flash - 1, gap := m.gap - 1 } := by
  have noGap : m.gapDue = false := by
    rw [← Bool.not_eq_true, MicRec.gapDue_iff]; omega
  have noTurn : m.turnDue = false := by
    rw [← Bool.not_eq_true, MicRec.turnDue_iff]
    rintro ⟨k, -⟩
    rcases h with h | h <;> rw [h] at k <;> cases k
  rw [MicRec.tick, noGap, noTurn]
  rcases h with h | h <;> simp only [h, Bool.or_self, Bool.false_eq_true, if_false]

theorem MicRec.tick_turn (h : m.state = .opened) (hc : m.cycles < 199) :
    m.tick false = { m with flash := m.flash - 1, cycles := m.cycles + 1 } := by
  have noGap : m.gapDue = false := by
    rw [← Bool.not_eq_true, MicRec.gapDue_iff, h]; simp
  have noTurn : m.turnDue = false := by
    rw [← Bool.not_eq_true, MicRec.turnDue_iff]; omega
  rw [MicRec.tick, noGap, noTurn]
  simp only [h, Bool.or_self, Bool.false_eq_true, if_false]

theorem MicRec.tick_flash (b : Bool) : (m.tick b).flash = m.flash - 1 ∧ (m.tick b).queued = m.queued := by
  rw [MicRec.tick]
  simp only
  split
  · exact ⟨rfl, rfl⟩
  · split <;> exact ⟨rfl, rfl⟩

end Tick

section MicAfter
variable (s : State) (i : Seat)

theorem State.turnMarked_rest (l : Option Nat) (m : MicRec) : (s.turnMarked l m).flash = m.flash ∧
    (s.turnMarked l m).queued = m.queued ∧ (s.turnMarked l m).state = m.state ∧ (s.turnMarked l m).timer = m.timer ∧
    (s.turnMarked l m).cycles = m.cycles := by
  cases l <;> exact ⟨rfl, rfl, rfl, rfl, rfl⟩

theorem State.micAfter_flash : (s.micAfter i).flash = (s.micOf i).flash - 1 ∧ (s.micAfter i).queued = (s.micOf i).queued := by
  rw [State.micAfter]
  split
  · rw [State.micStepped]
    simp only
    split
    · obtain ⟨h, k, -⟩ := s.turnMarked_rest (s.limitOf i) { s.micOf i with
        flash := (s.micOf i).flash - 1, state := .opened, gap := 0, timer := 0, cycles := 0 }
      exact ⟨h, k⟩
    · exact ⟨rfl, rfl⟩
    · obtain ⟨h, k, -⟩ := s.turnMarked_rest (s.limitOf i) { s.micOf i with
        flash := (s.micOf i).flash - 1, timer := satAdd (s.micOf i).timer 1, cycles := 0 }
      exact ⟨h, k⟩
    · exact ⟨rfl, rfl⟩
  · exact MicRec.tick_flash _

/-- A CLOSED microphone, and one whose step was taken already, has its flash moved alone. -/
theorem State.micAfter_rests (h : (s.micOf i).state = .closed ∨ s.early.contains (.mic i) = true) :
    i ∉ s.micDue ∧ s.micAfter i = { s.micOf i with flash := (s.micOf i).flash - 1 } := by
  have out : i ∉ s.micDue := fun k => by
    obtain ⟨he, hd⟩ := (s.mem_micDue i).1 k
    rcases h with h | h
    · rw [MicRec.gapDue_iff, MicRec.turnDue_iff, h] at hd
      simp at hd
    · rw [h] at he; cases he
  refine ⟨out, ?_⟩
  rw [State.micAfter, if_neg out]
  rcases h with h | h
  · exact MicRec.tick_closed h _
  · rw [h]
    exact MicRec.tick_due _ _ (.inl rfl)

variable (he : s.early.contains (.mic i) = false)
include he

/-- A gap that goes on. -/
theorem State.micAfter_gap (h : (s.micOf i).state = .opening ∨ (s.micOf i).state = .closing) (hg : 2 ≤ (s.micOf i).gap) :
    i ∉ s.micDue ∧ s.micAfter i = { s.micOf i with flash := (s.micOf i).flash - 1, gap := (s.micOf i).gap - 1 } := by
  have out : i ∉ s.micDue := fun k => by
    rw [s.mem_micDue, MicRec.gapDue_iff, MicRec.turnDue_iff] at k
    rcases k.2 with ⟨-, k⟩ | ⟨k, -⟩
    · omega
    · rcases h with h | h <;> rw [h] at k <;> cases k
  refine ⟨out, ?_⟩
  rw [State.micAfter, if_neg out, he, MicRec.tick_gap h hg]

/-- A turn that goes on within its tenth. -/
theorem State.micAfter_turn (h : (s.micOf i).state = .opened) (hc : (s.micOf i).cycles < 199) :
    s.micAfter i = { s.micOf i with flash := (s.micOf i).flash - 1, cycles := (s.micOf i).cycles + 1 } := by
  have out : i ∉ s.micDue := fun k => by
    rw [s.mem_micDue, MicRec.gapDue_iff, MicRec.turnDue_iff, h] at k
    rcases k.2 with ⟨k, -⟩ | ⟨-, k⟩
    · simp at k
    · omega
  rw [State.micAfter, if_neg out, he, MicRec.tick_turn h hc]

/-- A microphone opens. -/
theorem State.micAfter_opens (h : (s.micOf i).state = .opening) (hg : (s.micOf i).gap ≤ 1) :
    i ∈ s.micDue ∧ s.micAfter i = s.turnMarked (s.limitOf i) { s.micOf i with
      flash := (s.micOf i).flash - 1, state := .opened, gap := 0, timer := 0, cycles := 0 } := by
  have due : i ∈ s.micDue := (s.mem_micDue i).2 ⟨he, .inl ((MicRec.gapDue_iff _).2 ⟨.inl h, hg⟩)⟩
  refine ⟨due, ?_⟩
  rw [State.micAfter, if_pos due, State.micStepped]
  simp only [h]

/-- A microphone closes. -/
theorem State.micAfter_closes (h : (s.micOf i).state = .closing) (hg : (s.micOf i).gap ≤ 1) :
    s.micAfter i = { s.micOf i with flash := (s.micOf i).flash - 1, state := .closed, gap := 0 } := by
  have due : i ∈ s.micDue := (s.mem_micDue i).2 ⟨he, .inl ((MicRec.gapDue_iff _).2 ⟨.inr h, hg⟩)⟩
  rw [State.micAfter, if_pos due, State.micStepped]
  simp only [h]

/-- A turn ends a tenth. -/
theorem State.micAfter_tenth (h : (s.micOf i).state = .opened) (hc : 199 ≤ (s.micOf i).cycles) :
    s.micAfter i = s.turnMarked (s.limitOf i) { s.micOf i with
      flash := (s.micOf i).flash - 1, timer := min 65535 ((s.micOf i).timer + 1), cycles := 0 } := by
  have due : i ∈ s.micDue := (s.mem_micDue i).2 ⟨he, .inr ((MicRec.turnDue_iff _).2 ⟨h, hc⟩)⟩
  rw [State.micAfter, if_pos due, State.micStepped]
  simp only [h]
  rfl

end MicAfter

/-- The second clause of O22, for one seat: what a quiet cycle under WARN makes of its microphone and record. -/
theorem State.quiet.cycled_mic {s : State} (h : s.quiet) (hw : s.mic.limitAction = .warn) (hc : s.cal.session ≠ .closing)
    (hn : s.noTenth) (seat : Seat) :
    let m := s.micOf seat
    let n := s.cycled.micOf seat
    let spoke := (s.seatRec seat).spoke
    n.flash = m.flash - 1 ∧ n.queued = m.queued ∧
    (m.state = .closed ∨ s.early.contains (.mic seat) = true →
      n.state = m.state ∧ n.gap = m.gap ∧ n.timer = m.timer ∧ n.cycles = m.cycles ∧
        s.cycled.seatRec seat = s.seatRec seat) ∧
    (s.early.contains (.mic seat) = false →
      (m.state = .opening ∨ m.state = .closing → 2 ≤ m.gap →
        n.state = m.state ∧ n.gap = m.gap - 1 ∧ s.cycled.seatRec seat = s.seatRec seat) ∧
      (m.state = .opening → m.gap ≤ 1 → n.state = .opened ∧ n.timer = 0 ∧ n.cycles = 0 ∧
        s.cycled.seatRec seat = { s.seatRec seat with spoke := s.cal.session.runs || spoke }) ∧
      (m.state = .closing → m.gap ≤ 1 → n.state = .closed ∧ n.gap = 0 ∧ s.cycled.seatRec seat = s.seatRec seat) ∧
      (m.state = .opened → m.cycles < 199 → n.state = .opened ∧ n.cycles = m.cycles + 1 ∧ n.timer = m.timer ∧
        n.warning = m.warning ∧ n.overMark = m.overMark) ∧
      (m.state = .opened → 199 ≤ m.cycles →
        n.state = .opened ∧ n.cycles = 0 ∧ n.timer = min 65535 (m.timer + 1) ∧
        (s.limitOf seat = none → n.warning = false ∧ n.overMark = false) ∧
        ∀ l, s.limitOf seat = some l → n.warning = decide ((l - s.cfg.warnTime) * 10 ≤ n.timer) ∧
          n.overMark = decide (l * 10 ≤ n.timer))) := by
  obtain ⟨-, -, mics, recs⟩ := h.cycled_warn hw hc hn
  obtain ⟨nstate, ngap, ntimer, ncycles, nwarning, nover, nflash, nqueued⟩ := MicRec.of_latched (mics seat)
  have same : seat ∉ s.micDue ∨ (s.micOf seat).state ≠ .opening → s.cycled.seatRec seat = s.seatRec seat := fun k => by
    have no : decide (seat ∈ s.micDue ∧ (s.micOf seat).state = .opening) = false :=
      decide_eq_false fun ⟨a, b⟩ => k.elim (fun k => k a) fun k => k b
    rw [recs, no, Bool.and_false, Bool.or_false]
  intro m n spoke
  rw [nstate, ngap, ntimer, ncycles, nwarning, nover, nflash, nqueued]
  obtain ⟨aflash, aqueued⟩ := s.micAfter_flash seat
  refine ⟨aflash, aqueued, fun k => ?_, fun he => ⟨fun k hg => ?_, fun k hg => ?_, fun k hg => ?_, fun k hk => ?_,
    fun k hk => ?_⟩⟩
  · obtain ⟨hout, e⟩ := s.micAfter_rests seat k
    rw [e]
    exact ⟨rfl, rfl, rfl, rfl, same (.inl hout)⟩
  · obtain ⟨hout, e⟩ := s.micAfter_gap seat he k hg
    rw [e]
    exact ⟨rfl, rfl, same (.inl hout)⟩
  · obtain ⟨hdue, e⟩ := s.micAfter_opens seat he k hg
    obtain ⟨-, -, h3, h4, h5⟩ := s.turnMarked_rest (s.limitOf seat) { s.micOf seat with
      flash := (s.micOf seat).flash - 1, state := .opened, gap := 0, timer := 0, cycles := 0 }
    rw [e, h3, h4, h5]
    refine ⟨rfl, rfl, rfl, ?_⟩
    rw [recs, decide_eq_true (show seat ∈ s.micDue ∧ (s.micOf seat).state = .opening from ⟨hdue, k⟩), Bool.and_true,
      Bool.or_comm]
  · rw [s.micAfter_closes seat he k hg]
    exact ⟨rfl, rfl, same (.inr (by rw [show (s.micOf seat).state = .closing from k]; decide))⟩
  · rw [s.micAfter_turn seat he k hk]
    exact ⟨k, rfl, rfl, rfl, rfl⟩
  · have e := s.micAfter_tenth seat he k hk
    obtain ⟨-, -, h3, h4, h5⟩ := s.turnMarked_rest (s.limitOf seat) { s.micOf seat with
      flash := (s.micOf seat).flash - 1, timer := min 65535 ((s.micOf seat).timer + 1), cycles := 0 }
    rw [e, h3, h4, h5]
    refine ⟨k, rfl, rfl, fun hl => ?_, fun l hl => ?_⟩
    · rw [hl]
      exact ⟨rfl, rfl⟩
    · rw [hl]
      exact ⟨rfl, rfl⟩

end Sys2Proof.Machine

namespace Sys2Proof.Machine

/-! ## O22, the first clause: any cycle -/

theorem MixBlock.transfer_due (m : MixBlock) : m.transfer.due = false := by
  unfold MixBlock.transfer
  split
  · rfl
  · exact Bool.not_eq_true _ ▸ ‹_›

theorem MixBlock.transfer_live_due {m : MixBlock} (h : m.due = true) {t : MixTables} (ht : m.image = some t) :
    m.transfer.live = t := by
  simp [MixBlock.transfer, h, ht]

theorem MixBlock.transfer_live_off {m : MixBlock} (h : m.due = false) : m.transfer.live = m.live := by
  simp [MixBlock.transfer, h]

section Cycle
variable (s : State)

/-- Every transfer of a cycle in which no pass ends, settled against the rendering that is then shown. -/
theorem State.cycled_settles (ha : s.wingA.passEnds = false) (hb : s.wingB.passEnds = false) (p : Pos) :
    let before := s.disp.delivery[p]
    let target := s.cycled.rendering (s.cycled.logical p)
    let towards := decide (before.transfer.map (·.text) = some target)
    (s.cycled.live p = false ∨ s.store.halted = true → s.cycled.disp.delivery[p] = { before with carried := false }) ∧
    (s.cycled.live p = true → s.store.halted = false →
      (towards = true → s.cycled.disp.delivery[p] = { before with carried := true }) ∧
      (towards = false → before.known = some target →
        s.cycled.disp.delivery[p] = { before with transfer := none, carried := false }) ∧
      (towards = false → before.known ≠ some target →
        s.cycled.disp.delivery[p] = { before with transfer := some ⟨target, 0⟩, carried := true })) := by
  have settled := s.cycled_delivery p
  rw [s.endCycle_delivery ha hb] at settled
  generalize s.cycled = t at *
  generalize t.rendering (t.logical p) = target at *
  intro before target' towards
  rw [settled]
  refine ⟨fun h => ?_, fun hl hh => ?_⟩
  · rw [if_neg (by rcases h with h | h <;> simp [h])]
  · rw [if_pos (by simp [hl, hh])]
    refine ⟨fun k => ?_, fun k kn => ?_, fun k kn => ?_⟩
    · have k := of_decide_eq_true k
      obtain ⟨tr, htr, -⟩ := Option.map_eq_some_iff.1 k
      have sent : before.transfer.isSome = true := by rw [htr]; rfl
      rw [Delivery.settle_towards k]
      exact congrArg (fun b => { before with carried := b }) sent
    · rw [Delivery.settle_known (of_decide_eq_false k) kn]
      rfl
    · rw [Delivery.settle_begins (of_decide_eq_false k) kn]
      rfl

/-- The room clock of a cycle that does not end a tenth. -/
theorem State.cycled_now : (s.clock.cycles < 199 → Early.tenth ∉ s.early →
      s.cycled.clock.now = s.clock.now ∧ s.cycled.clock.cycles = s.clock.cycles + 1) ∧
    (Early.tenth ∈ s.early → s.cycled.clock.now = s.clock.now ∧ s.cycled.clock.cycles = s.clock.cycles) := by
  obtain ⟨v, hclock, -, vclock, vearly⟩ := s.cycled_clock
  rw [hclock]
  refine ⟨fun h he => ?_, fun he => ?_⟩
  · rw [v.clockBoundary_plain (by rw [vclock]; exact h) (by rw [vearly]; exact he)]
    obtain ⟨hnow, hcycles⟩ := Clock.holdover_rest { v.clock with cycles := v.clock.cycles + 1 }
    rw [hnow, hcycles, vclock]
    exact ⟨rfl, rfl⟩
  · rw [v.clockBoundary_early (by rw [vearly]; exact he)]
    obtain ⟨hnow, hcycles⟩ := Clock.holdover_rest v.clock
    rw [hnow, hcycles, vclock]
    exact ⟨rfl, rfl⟩

theorem State.cycled_early : s.cycled.early = [] :=
  (s.cycled_after .early (by decide)).trans (State.beginCycle_early _ s)

end Cycle

theorem MicRec.latched_open {m n : MicRec} {d : DuckClass}
    (h : n = { m with cycleOpen := decide (m.state = .opened), cycleDuck := d }) : n.cycleOpen = decide (n.state = .opened) := by
  subst h; rfl

theorem State.cycled_addresses (s : State) : s.cycled.link.station = s.link.station ∧ s.cycled.link.groups = s.link.groups := by
  have h : s.agrees s.cycled .addresses := s.cycled_keeps .addresses (by decide)
  exact ⟨h.1, h.2.1⟩

end Sys2Proof.Machine

namespace Sys2Proof.Machine

/-! ## A cycle that ends a pass -/

section PassEnds
variable (s : State) (w : Wing)

theorem State.endPass_wing_ne {v : Wing} (h : v ≠ w) : (s.endPass w).wing v = s.wing v := by
  unfold State.endPass
  split
  · exact State.finishPass_wing_ne _ h
  · rfl

theorem State.endPass_pos_ne {p : Pos} (h : wingOf p ≠ w) : (s.endPass w).pos[p] = s.pos[p] := by
  unfold State.endPass
  split
  · rw [s.finishPass_pos, if_neg h]
  · rfl

/-- What the pass of the wing decides of its state. -/
def WingPort.anyFound (port : WingPort) : WingState := if (∃ i : Fin 32, (port.found i).isSome = true) then .running else .down

theorem State.endPass_wing (h : (s.wing w).passEnds = true) : (s.endPass w).wing w = { s.wing w with
    state := (s.wing w).anyFound, recorded := (s.wing w).passCount.getD 0
    assigned := min 32 ((s.wing w).passCount.getD 0)
    scanPos := 0, passCycle := 0, passCount := none, reports := Vector.replicate 32 none } := by
  have any : (if (numbers 32).any fun i => (s.posDecided w).present (wingPos w i) then WingState.running else .down) =
      (s.wing w).anyFound := if_congr (s.posDecided_any w) rfl rfl
  rw [State.endPass, if_pos h, s.finishPass_wing, any]

theorem State.endPass_pos (h : (s.wing w).passEnds = true) (i : Fin 32) :
    (s.endPass w).pos[wingPos w i] = (s.pos[wingPos w i]).afterPass ((s.wing w).found i) := by
  rw [State.endPass, if_pos h, s.finishPass_pos, if_pos (wingOf_wingPos w i), place_wingPos]

/-- The ends of the passes of both wings; what one wing's pass decides is not touched by the other's. -/
theorem State.endPasses (h : (s.wing w).passEnds = true) : ((s.endPass .a).endPass .b).wing w = (s.endPass w).wing w ∧
    ∀ i, ((s.endPass .a).endPass .b).pos[wingPos w i] = (s.endPass w).pos[wingPos w i] := by
  cases w with
  | a =>
    refine ⟨State.endPass_wing_ne _ _ (by decide), fun i => State.endPass_pos_ne _ _ ?_⟩
    rw [wingOf_wingPos]; decide
  | b =>
    have wing : (s.endPass .a).wing .b = s.wing .b := s.endPass_wing_ne _ (by decide)
    have still : ((s.endPass .a).wing .b).passEnds = true := by rw [wing]; exact h
    refine ⟨?_, fun i => ?_⟩
    · rw [State.endPass_wing _ _ still, s.endPass_wing _ h, wing]
    · rw [State.endPass_pos _ _ still, s.endPass_pos _ h, wing, s.endPass_pos_ne _ (by rw [wingOf_wingPos]; decide)]

theorem WingPort.moveScan_idle {p : WingPort} (h : p.command ≠ .normal) : p.moveScan = p := by
  rw [WingPort.moveScan, if_neg fun k => h k.2.1]

theorem WingPort.moveScan_rest (p : WingPort) : p.moveScan = { p with scanPos := p.moveScan.scanPos } := by
  unfold WingPort.moveScan
  split <;> rfl

theorem WingPort.anyFound_ne (p : WingPort) : p.anyFound ≠ .enumerating := by
  unfold WingPort.anyFound
  split <;> decide

theorem WingPort.beginCycle_normal {p : WingPort} (h : p.state ≠ .enumerating) : p.beginCycle = { p with command := .normal } := by
  rw [WingPort.beginCycle, if_neg h]

/-- The end of a cycle that finds no slots to take and no voice operation. -/
theorem State.endCycle_slots (hm : s.floor.mode ≠ .voice) (hs : ∀ p : Pos, s.pos[p].answer = none ∧ s.pos[p].event = none) :
    s.endCycle = ((((s.setFloor fun f => { f with seen := Vector.ofFn s.voiceStart }).endPass .a).endPass .b).setWing .a
      WingPort.moveScan).setWing .b WingPort.moveScan := by
  rw [State.endCycle, State.takeSlots_none hs, State.voiceCycle_off hm]

/-- The sixth clause of O22: the end of a pass decides the wing and its positions. -/
theorem State.cycled_passEnds (hm : s.floor.mode ≠ .voice) (hs : ∀ p : Pos, s.pos[p].answer = none ∧ s.pos[p].event = none)
    (h : (s.wing w).passEnds = true) (hc : (s.wing w).command = .identify) :
    s.cycled.wing w = { s.wing w with
      state := (s.wing w).anyFound, recorded := (s.wing w).passCount.getD 0
      assigned := min 32 ((s.wing w).passCount.getD 0)
      scanPos := 0, command := .normal, passCycle := 0, passCount := none, reports := Vector.replicate 32 none } ∧
    ∀ i, s.cycled.pos[wingPos w i].presence = ((s.pos[wingPos w i]).afterPass ((s.wing w).found i)).presence ∧
      s.cycled.pos[wingPos w i].serial = ((s.pos[wingPos w i]).afterPass ((s.wing w).found i)).serial := by
  set v := s.setFloor fun f => { f with seen := Vector.ofFn s.voiceStart } with hv
  have vwing : v.wing w = s.wing w := State.wing_congr (s.setFloor_keeps _) (by decide) w
  have vpos : v.pos = s.pos := s.setFloor_keeps _ .pos (by decide)
  have vends : (v.wing w).passEnds = true := by rw [vwing]; exact h
  obtain ⟨wing, pos⟩ := v.endPasses w vends
  have e := s.endCycle_slots hm hs
  refine ⟨?_, fun i => ?_⟩
  · rw [s.cycled_wing, e, State.moveScan_wing, ← hv, wing, v.endPass_wing w vends, vwing, WingPort.moveScan_idle,
      WingPort.beginCycle_normal (WingPort.anyFound_ne _)]
    rw [hc]; decide
  · have kept : s.endCycle.pos = ((v.endPass .a).endPass .b).pos := by
      rw [e]
      exact State.moveScan_keeps _ .pos (by decide)
    rw [s.cycled_pos, kept, pos, v.endPass_pos w vends, vwing, vpos]
    exact ⟨rfl, rfl⟩

end PassEnds

/-! ## A cycle with one slot to take -/

section OneSlot
variable (s : State) (p : Pos)

theorem State.startPass_pos (w : Wing) : (s.startPass w).pos = s.pos := s.startPass_keeps w .pos (by decide)

/-- A status word that is taken touches the record of its own position alone. -/
theorem State.slotAnswer_pos : (s.slotAnswer p).pos = s.pos ∨ ∃ f, (s.slotAnswer p).pos = (s.setPos p f).pos := by
  unfold State.slotAnswer
  split
  · split
    · refine .inr ?_
      unfold State.takeAnswer
      split
      · exact ⟨_, State.startPass_pos _ _⟩
      · exact ⟨_, (State.permissionChange_keeps _ _ _ .pos (by decide)).trans (congrArg State.pos (State.setPos_setPos s p _ _))⟩
    · exact .inl rfl
  · exact .inl rfl

/-- A press that is taken touches no status-valid mark and no card. -/
theorem State.slotEvent_pos : (s.slotEvent p).pos = (s.slotAnswer p).pos ∨
    (s.slotEvent p).pos = ((s.slotAnswer p).setPos p fun r => { r with event := none }).pos := by
  unfold State.slotEvent
  simp only
  split
  · exact .inl rfl
  · split
    · refine .inr ?_
      split
      · exact State.press_keeps _ _ .pos (by decide)
      · exact State.priorityPress_keeps _ _ .pos (by decide)
    · exact .inl rfl

theorem State.setPos_pos_ne {q : Pos} (h : q ≠ p) (f : PosRec → PosRec) : (s.setPos p f).pos[q] = s.pos[q] :=
  modify_get_ne s.pos h f

theorem State.slotEvent_pos_ne {q : Pos} (h : q ≠ p) : (s.slotEvent p).pos[q] = s.pos[q] := by
  have answer : (s.slotAnswer p).pos[q] = s.pos[q] := by
    rcases s.slotAnswer_pos p with e | ⟨f, e⟩
    · simp only [e]
    · simp only [e, s.setPos_pos_ne p h]
  rcases s.slotEvent_pos p with e | e
  · simp only [e, answer]
  · simp only [e, State.setPos_pos_ne _ p h, answer]

/-- What the slot's status word has set stands after its press. -/
theorem State.slotEvent_card : (s.slotEvent p).pos[p].statusValid = (s.slotAnswer p).pos[p].statusValid ∧
    (s.slotEvent p).pos[p].card = (s.slotAnswer p).pos[p].card := by
  rcases s.slotEvent_pos p with e | e
  · simp only [e, and_self]
  · simp only [e, State.setPos_pos, modify_get_self, and_self]

/-- Where one position alone has something to take, the slots of the cycle are that one's. -/
theorem State.takeSlots_one (h : ∀ q : Pos, q ≠ p → s.pos[q].answer = none ∧ s.pos[q].event = none) :
    s.takeSlots = s.slotEvent p := by
  have idle : ∀ (l : List Pos) (u : State), p ∉ l → (∀ q : Pos, q ≠ p → u.pos[q].answer = none ∧ u.pos[q].event = none) →
      l.foldl State.slotEvent u = u := by
    intro l u hl hu
    induction l with
    | nil => rfl
    | cons q l ih =>
      have hq : q ≠ p := fun e => hl (e ▸ List.mem_cons_self)
      rw [List.foldl_cons, State.slotEvent_none (hu q hq)]
      exact ih fun k => hl (List.mem_cons_of_mem _ k)
  obtain ⟨l, m, e⟩ := List.append_of_mem (List.mem_finRange p)
  have nodup : (numbers 64).Nodup := List.nodup_finRange 64
  have e : numbers 64 = l ++ p :: m := e
  rw [e] at nodup
  obtain ⟨-, hm, hl⟩ := List.nodup_append.1 nodup
  rw [State.takeSlots, e, List.foldl_append, List.foldl_cons, idle l s (fun k => hl p k p List.mem_cons_self rfl) h]
  refine idle m _ (List.nodup_cons.1 hm).1 fun q hq => ?_
  rw [s.slotEvent_pos_ne p hq]
  exact h q hq

end OneSlot

end Sys2Proof.Machine

namespace Sys2Proof.Machine

section OneSlot
variable {s : State} {p : Pos}

/-- The end of a cycle with one slot to take, and no pass that ends. -/
theorem State.endCycle_one (ha : s.wingA.passEnds = false) (hb : s.wingB.passEnds = false)
    (h : ∀ q : Pos, q ≠ p → s.pos[q].answer = none ∧ s.pos[q].event = none) :
    s.endCycle = (((s.slotEvent p).voiceCycle).setWing .a WingPort.moveScan).setWing .b WingPort.moveScan := by
  rw [s.endCycle_noPass ha hb, s.takeSlots_one p h]

theorem State.endCycle_one_keeps (ha : s.wingA.passEnds = false) (hb : s.wingB.passEnds = false)
    (h : ∀ q : Pos, q ≠ p → s.pos[q].answer = none ∧ s.pos[q].event = none) :
    (s.slotEvent p).keeps s.endCycle (.wings :: sessionPieces) := by
  rw [State.endCycle_one ha hb h]
  exact State.keeps_trans (State.keeps_mono (State.voiceCycle_keeps _) (by decide))
    (State.keeps_mono (State.moveScan_keeps _) (by decide))

theorem State.cardKnown_pos (s : State) (p : Pos) (card : Option Key) :
    (s.cardKnown p card).pos[p] = { s.pos[p] with answer := none, statusValid := true, card := card } := by
  rw [State.cardKnown, State.setPos_pos, modify_get_self]

/-- A status word with the position's own serial is that of the position's card at the end of the cycle. -/
theorem State.cycled_card (ha : s.wingA.passEnds = false) (hb : s.wingB.passEnds = false)
    (h : ∀ q : Pos, q ≠ p → s.pos[q].answer = none ∧ s.pos[q].event = none) (hl : s.live p = true)
    {card : Option Key} {serial : Serial} (hans : s.pos[p].answer = some (card, serial)) (hs : s.pos[p].serial = some serial) :
    s.cycled.pos[p].statusValid = true ∧ s.cycled.pos[p].card = card := by
  have pos : s.endCycle.pos = (s.slotEvent p).pos := State.endCycle_one_keeps ha hb h .pos (by decide)
  have answer : (s.slotAnswer p).pos = (s.cardKnown p card).pos := by
    rw [s.slotAnswer_own p hl hans hs]
    exact State.permissionChange_keeps _ _ _ .pos (by decide)
  obtain ⟨valid, known⟩ := s.slotEvent_card p
  rw [s.cycled_pos]
  simp only [pos, valid, known, answer, s.cardKnown_pos, and_self]

/-- One with a foreign serial starts a pass, whose first cycle begins. -/
theorem State.cycled_foreign (ha : s.wingA.passEnds = false) (hb : s.wingB.passEnds = false)
    (h : ∀ q : Pos, q ≠ p → s.pos[q].answer = none ∧ s.pos[q].event = none) (hl : s.live p = true)
    {card : Option Key} {serial : Serial} (hans : s.pos[p].answer = some (card, serial)) (hs : s.pos[p].serial ≠ some serial) :
    (s.cycled.wing (wingOf p)).state = .enumerating ∧ (s.cycled.wing (wingOf p)).command = .assign := by
  set u := s.setPos p fun r => { r with answer := none } with hu
  have taken : s.slotEvent p = u.startPass (wingOf p) :=
    s.slotEvent_off p (s.slotAnswer_foreign p hl hans hs) (State.startPass_live p rfl)
  rw [s.cycled_wing, State.endCycle_one ha hb h, State.moveScan_wing, State.wing_congr (State.voiceCycle_keeps _) (by decide),
    taken, State.startPass_wing, WingPort.moveScan_rest, WingPort.beginCycle, if_pos rfl, if_pos rfl]
  exact ⟨rfl, rfl⟩

/-- A press alone in a slot, outside a session: it is refused. -/
theorem State.slotEvent_noSession (hl : s.live p = true) (hans : s.pos[p].answer = none) (he : s.pos[p].event = some .button)
    (hh : s.store.halted = false) (hses : s.cal.session = .vacant ∨ s.cal.session = .armed) :
    s.slotEvent p = (s.setPos p fun r => { r with event := none }).refuse (s.logical p) .noSession .button := by
  have quiet : s.slotAnswer p = s := by simp only [State.slotAnswer, hans]
  rw [s.slotEvent_after_answer p quiet he hl]
  set v := s.setPos p fun r => { r with event := none } with hv
  have refused : v.pressRefusal (v.logical p) = some .noSession := by
    have halted : v.store.halted = false := hh
    have session : v.cal.session.runs = false := by
      rcases hses with k | k <;> (rw [show v.cal.session = _ from k]; rfl)
    rw [State.pressRefusal, halted, session]
    rfl
  simp only [if_true, State.press, refused]
  rfl

/-- Its flash runs from the boundary on, and its tally has counted it. -/
theorem State.cycled_noSession (hm : s.floor.mode ≠ .voice) (ha : s.wingA.passEnds = false) (hb : s.wingB.passEnds = false)
    (hw : s.mic.limitAction = .warn) (hc : s.clock.cycles < 199)
    (h : ∀ q : Pos, q ≠ p → s.pos[q].answer = none ∧ s.pos[q].event = none) (hl : s.live p = true)
    (hans : s.pos[p].answer = none) (he : s.pos[p].event = some .button) (hh : s.store.halted = false)
    (hses : s.cal.session = .vacant ∨ s.cal.session = .armed) :
    s.cycled.cal = { s.cal with tally := s.cal.tally.set 5 (min 65535 (s.cal.tally[5] + 1)) } ∧
    (s.cycled.micOf (s.logical p)).flash = 1999 := by
  set v := s.setPos p fun r => { r with event := none } with hv
  set u := v.refuse (s.logical p) .noSession .button with hu
  have taken : s.slotEvent p = u := State.slotEvent_noSession hl hans he hh hses
  have refuses : v.keeps u [.mic, .cal, .sending, .linkCounters] := v.refuse_keeps _ _ _
  have mode : u.floor.mode ≠ .voice := by
    rw [refuses .floor (by decide)]
    exact hm
  have ends : u.keeps s.endCycle [.floor, .wings] := by
    rw [State.endCycle_one ha hb h, taken, State.voiceCycle_off mode]
    exact State.keeps_trans (State.keeps_mono (u.setFloor_keeps _) (by decide)) (State.keeps_mono (State.moveScan_keeps _) (by decide))
  have bounds : u.keeps s.atBoundary [.floor, .wings, .tables] :=
    State.keeps_trans (State.keeps_mono ends (by decide)) (State.keeps_mono (State.transferDue_keeps _) (by decide))
  have mic : s.atBoundary.mic = u.mic := bounds .mic (by decide)
  have cal : s.atBoundary.cal = u.cal := bounds .cal (by decide)
  have ucal : u.cal = { s.cal with tally := s.cal.tally.set 5 (min 65535 (s.cal.tally[5] + 1)) } := v.refuse_cal _ _ _
  have warn : s.atBoundary.mic.limitAction = .warn := by rw [mic]; exact hw
  have steps := State.micBoundary_warn warn (by rw [cal, ucal]; rcases hses with k | k <;> (rw [show s.cal.session = _ from k]; decide))
  have flash : (u.micOf (s.logical p)).flash = 2000 := by
    rw [hu, v.refuse_micOf, if_pos rfl]
  refine ⟨?_, ?_⟩
  · rw [s.cycled_from_mics (.inl hc) .cal (by decide), steps.keeps .cal (by decide), cal, ucal]
  · obtain ⟨-, -, -, -, -, -, e, -⟩ := MicRec.of_latched (s.cycled_mics (.inl hc) (s.logical p))
    rw [e, show s.atBoundary.micBoundary.micOf (s.logical p) = s.atBoundary.micAfter (s.logical p) from steps.mics _,
      (s.atBoundary.micAfter_flash _).1, State.micOf_congr mic, flash]

end OneSlot

end Sys2Proof.Machine

namespace Sys2Proof.Machine

/-! ## Steps of the room screens, entry by entry -/

section Entry
variable (s : State)

theorem State.setScreen_ne {e g : Fin 4} (h : e ≠ g) (f : Screen → Screen) :
    (s.setScreen g f).disp.screens[e] = s.disp.screens[e] := modify_get_ne _ h f

theorem State.setScreen_self (e : Fin 4) (f : Screen → Screen) : (s.setScreen e f).disp.screens[e] = f s.disp.screens[e] :=
  modify_get_self _ e f

theorem State.offerScreen_ne {e g : Fin 4} (h : e ≠ g) : (s.offerScreen g).disp.screens[e] = s.disp.screens[e] := by
  unfold State.offerScreen
  split
  · unfold State.admitScreen
    split
    · rfl
    · exact s.setScreen_ne h _
  · exact s.setScreen_ne h _

theorem State.refreshScreen_ne {e g : Fin 4} (h : e ≠ g) : (s.refreshScreen g).disp.screens[e] = s.disp.screens[e] := by
  unfold State.refreshScreen
  simp only
  split
  · rfl
  · split
    · exact s.setScreen_ne h _
    · split
      · exact s.offerScreen_ne h
      · rfl

/-- An entry whose window runs has its pending mark set at most. -/
theorem State.refreshScreen_running {e : Fin 4} (h : 0 < s.disp.screens[e].window) : s.refreshScreen e =
    if (s.disp.screens[e].addr.isNone || s.disp.screens[e].waiting) = true then s
    else s.setScreen e fun sc => { sc with
      pending := s.disp.screens[e].lastSent != some (s.screenText s.disp.screens[e].template) } := by
  rw [State.refreshScreen]
  simp only [h, if_true]

theorem State.refreshScreen_window {e : Fin 4} (h : 0 < s.disp.screens[e].window) :
    (s.refreshScreen e).disp.screens[e].window = s.disp.screens[e].window ∧ (s.refreshScreen e).link = s.link := by
  rw [s.refreshScreen_running h]
  split
  · exact ⟨rfl, rfl⟩
  · exact ⟨by rw [s.setScreen_self], rfl⟩

/-- An entry that has sent what it shows has nothing to send. -/
theorem State.refreshScreen_shown {e : Fin 4}
    (h : s.disp.screens[e].lastSent = some (s.screenText s.disp.screens[e].template)) :
    (s.refreshScreen e).disp.screens[e] = { s.disp.screens[e] with pending := (s.refreshScreen e).disp.screens[e].pending } ∧
    (s.disp.screens[e].pending = false → (s.refreshScreen e).disp.screens[e] = s.disp.screens[e]) := by
  have no : (s.disp.screens[e].lastSent != some (s.screenText s.disp.screens[e].template)) = false := by
    rw [h]; exact bne_self_eq_false _
  have same : s.disp.screens[e] = { s.disp.screens[e] with pending := s.disp.screens[e].pending } := rfl
  unfold State.refreshScreen
  simp only [no, Bool.false_eq_true, if_false]
  split
  · exact ⟨same, fun _ => rfl⟩
  · split
    · refine ⟨by rw [s.setScreen_self], fun k => ?_⟩
      rw [s.setScreen_self, ← k]
    · exact ⟨same, fun _ => rfl⟩

/-- A step of one entry: it touches that entry and the transmit queue, which gets at most one frame, alone. -/
structure EntryStep (f : State → Fin 4 → State) : Prop where
  keeps : ∀ u e, State.keeps u (f u e) screenPieces
  other : ∀ (u : State) {e g : Fin 4}, e ≠ g → (f u g).disp.screens[e] = u.disp.screens[e]
  queue : ∀ (u : State) (e : Fin 4), u.link.queue <+: (f u e).link.queue
  length : ∀ (u : State) (e : Fin 4), (f u e).link.queue.length ≤ u.link.queue.length + 1

theorem entryStep_refresh : EntryStep State.refreshScreen where
  keeps u e := u.refreshScreen_keeps e
  other u _ _ h := u.refreshScreen_ne h
  queue u e := u.refreshScreen_queue e
  length u e := u.refreshScreen_length e

/-- The entry whose window has ended, before it hands its frame. -/
def State.windowOff (e : Fin 4) : State := (s.refreshScreen e).setScreen e fun sc => { sc with window := 0 }

theorem State.endWindow_eq (e : Fin 4) : s.endWindow e =
    if (s.refreshScreen e).disp.screens[e].pending = true then (s.windowOff e).offerScreen e else s.windowOff e := rfl

theorem State.windowOff_queue {e : Fin 4} (h : 0 < s.disp.screens[e].window) : (s.windowOff e).link = s.link := by
  have e1 : (s.windowOff e).link = (s.refreshScreen e).link := rfl
  rw [e1, (s.refreshScreen_window h).2]

theorem State.windowOff_ne {e g : Fin 4} (h : e ≠ g) : (s.windowOff g).disp.screens[e] = s.disp.screens[e] := by
  rw [State.windowOff, State.setScreen_ne _ h, s.refreshScreen_ne h]

theorem State.endWindow_ne {e g : Fin 4} (h : e ≠ g) : (s.endWindow g).disp.screens[e] = s.disp.screens[e] := by
  by_cases hp : (s.refreshScreen g).disp.screens[g].pending = true
  · simp only [s.endWindow_eq, if_pos hp, State.offerScreen_ne _ h, s.windowOff_ne h]
  · simp only [s.endWindow_eq, if_neg hp, s.windowOff_ne h]

/-- The step of one entry at a boundary. -/
theorem State.windowBoundary_cases (e : Fin 4) : s.windowBoundary e = s ∨
    (s.disp.screens[e].window = 1 ∧ s.windowBoundary e = s.endWindow e) ∨
    (s.disp.screens[e].window ≠ 0 ∧ s.disp.screens[e].window ≠ 1 ∧
      s.windowBoundary e = s.setScreen e fun sc => { sc with window := s.disp.screens[e].window - 1 }) := by
  unfold State.windowBoundary
  simp only
  by_cases h1 : s.disp.screens[e].window = 1
  · rw [if_pos h1]
    split
    · exact .inl rfl
    · exact .inr (.inl ⟨h1, rfl⟩)
  · rw [if_neg h1]
    split
    · exact .inl rfl
    · next h => exact .inr (.inr ⟨fun k => h (by rw [decide_eq_true k, Bool.or_true]), h1, rfl⟩)

theorem entryStep_window : EntryStep State.windowBoundary where
  keeps u e := u.windowBoundary_keeps e
  other u e g h := by
    rcases u.windowBoundary_cases g with k | ⟨-, k⟩ | ⟨-, -, k⟩ <;> simp only [k]
    · exact u.endWindow_ne h
    · exact u.setScreen_ne h _
  queue u e := by
    rcases u.windowBoundary_cases e with k | ⟨h, k⟩ | ⟨-, -, k⟩ <;> rw [k]
    · have off := congrArg Link.queue (u.windowOff_queue (e := e) (by omega))
      rw [u.endWindow_eq]
      split
      · rw [← off]
        exact State.offerScreen_queue _ e
      · rw [off]
    · simp
  length u e := by
    rcases u.windowBoundary_cases e with k | ⟨h, k⟩ | ⟨-, -, k⟩ <;> rw [k]
    · omega
    · have off := congrArg Link.queue (u.windowOff_queue (e := e) (by omega))
      rw [u.endWindow_eq]
      split
      · rw [← off]
        exact State.offerScreen_length _ e
      · rw [off]
        omega
    · simp

/-- A step that only some entries take. -/
theorem EntryStep.some {f : State → Fin 4 → State} (h : EntryStep f) (c : Fin 4 → Bool) :
    EntryStep fun u e => if c e = true then f u e else u where
  keeps u e := by
    split
    · exact h.keeps u e
    · exact u.keeps_refl _
  other u _ g k := by
    by_cases hc : c g = true
    · simp only [if_pos hc, h.other u k]
    · simp only [if_neg hc]
  queue u e := by
    split
    · exact h.queue u e
    · exact List.prefix_refl _
  length u e := by
    split
    · exact h.length u e
    · omega

variable {s} {f : State → Fin 4 → State}

/-- The steps of a list of entries. -/
theorem EntryStep.fold (h : EntryStep f) (l : List (Fin 4)) (s : State) : s.keeps (l.foldl f s) screenPieces ∧
    (∀ e, e ∉ l → (l.foldl f s).disp.screens[e] = s.disp.screens[e]) ∧ s.link.queue <+: (l.foldl f s).link.queue ∧
    (l.foldl f s).link.queue.length ≤ s.link.queue.length + l.length := by
  induction l generalizing s with
  | nil => exact ⟨s.keeps_refl _, fun _ _ => rfl, List.prefix_refl _, Nat.le_refl _⟩
  | cons g l ih =>
    obtain ⟨keeps, other, queue, length⟩ := ih (f s g)
    refine ⟨State.keeps_trans (h.keeps s g) keeps, fun e he => ?_, (h.queue s g).trans queue, ?_⟩
    · rw [List.mem_cons, not_or] at he
      exact (other e he.2).trans (h.other s he.1)
    · have := h.length s g
      rw [List.foldl_cons, List.length_cons]
      omega

/-- The steps of all entries are, for one of them, its own after at most three others. -/
theorem EntryStep.entry (h : EntryStep f) (s : State) (e : Fin 4) : ∃ v, s.keeps v screenPieces ∧
    v.disp.screens[e] = s.disp.screens[e] ∧ v.link.queue.length ≤ s.link.queue.length + 3 ∧
    ((numbers 4).foldl f s).disp.screens[e] = (f v e).disp.screens[e] ∧
    (f v e).link.queue <+: ((numbers 4).foldl f s).link.queue := by
  obtain ⟨l, m, cut⟩ := List.append_of_mem (List.mem_finRange e)
  have cut : numbers 4 = l ++ e :: m := cut
  have nodup : (numbers 4).Nodup := List.nodup_finRange 4
  have total : (numbers 4).length = 4 := List.length_finRange
  rw [cut] at nodup
  rw [cut, List.length_append, List.length_cons] at total
  obtain ⟨-, hm, hl⟩ := List.nodup_append.1 nodup
  obtain ⟨keeps, other, -, length⟩ := h.fold l s
  obtain ⟨-, other', queue', -⟩ := h.fold m (f (l.foldl f s) e)
  refine ⟨l.foldl f s, keeps, other e fun k => hl e k e List.mem_cons_self rfl, by omega, ?_, ?_⟩ <;>
    rw [cut, List.foldl_append, List.foldl_cons]
  · exact other' e (List.nodup_cons.1 hm).1
  · exact queue'

end Entry

end Sys2Proof.Machine

namespace Sys2Proof.Machine

section Windows
variable {v : State} {e : Fin 4} {a : Addr}

/-- What an entry holds once its frame is in the queue. -/
def Screen.sent (sc : Screen) (shown : Text) : Screen :=
  { sc with lastSent := some shown, pending := false, window := 200, waiting := false }

/-- The frame of an entry that is on. -/
def State.frameOf (v : State) (e : Fin 4) (a : Addr) (shown : Text) : Frame :=
  ⟨a, v.link.station, .screen, screenPayload e shown⟩

theorem State.offerScreen_room (ha : v.disp.screens[e].addr = some a) (hq : v.link.queue.length < 8) :
    let shown := v.screenText v.disp.screens[e].template
    (v.offerScreen e).disp.screens[e] = (v.disp.screens[e]).sent shown ∧
    (v.offerScreen e).link.queue = v.link.queue ++ [v.frameOf e a shown] := by
  intro shown
  have admits : v.offerScreen e = v.admitScreen e := if_pos hq
  rw [admits, State.admitScreen]
  simp only [ha]
  exact ⟨v.setScreen_self e _, rfl⟩

/-- Where the window of an entry ends, and whether its text is another than the one last sent is known. -/
theorem State.windowOff_entry (ha : v.disp.screens[e].addr = some a) (hw : v.disp.screens[e].window = 1)
    (hn : v.disp.screens[e].waiting = false) :
    let differs := v.disp.screens[e].lastSent != some (v.screenText v.disp.screens[e].template)
    (v.refreshScreen e).disp.screens[e].pending = differs ∧
    (v.windowOff e).disp.screens[e] = { v.disp.screens[e] with window := 0, pending := differs } := by
  intro differs
  have off : (v.disp.screens[e].addr.isNone || v.disp.screens[e].waiting) = false := by rw [ha, hn]; rfl
  have marked : v.refreshScreen e = v.setScreen e fun sc => { sc with pending := differs } := by
    rw [v.refreshScreen_running (by omega), off]
    rfl
  refine ⟨by rw [marked, v.setScreen_self], ?_⟩
  rw [State.windowOff, State.setScreen_self, marked, v.setScreen_self]

/-- What an entry shows does not depend on what the entries hold, nor on the transmit queue. -/
theorem State.screenText_of_screens {s t : State} (h : s.keeps t screenPieces) (k : Fin 4) : t.screenText k = s.screenText k := by
  have floor : t.floor = s.floor := h .floor (by decide)
  have clock : t.clock = s.clock := h .clock (by decide)
  have seats : t.seats = s.seats := h .seats (by decide)
  exact State.screenText_congr (by rw [floor]) (by rw [floor]) (by rw [clock]) (h .cal (by decide))
    (funext fun i => by simp only [State.nameOf, State.seatRec, State.phys, seats]) (h .templates (by decide)) k

theorem State.windowBoundary_ends (hw : v.disp.screens[e].window = 1) (he : v.early.contains (.screen e) = false) :
    v.windowBoundary e = v.endWindow e := by
  rw [State.windowBoundary]
  simp only [he, hw, Nat.one_ne_zero, decide_false, Bool.or_self, Bool.false_eq_true, if_false, if_true]

variable (ha : v.disp.screens[e].addr = some a) (hw : v.disp.screens[e].window = 1)
  (hn : v.disp.screens[e].waiting = false) (he : v.early.contains (.screen e) = false)
include ha hw hn he

/-- A window ends and the entry hands what it shows. -/
theorem State.windowBoundary_sends (hd : v.disp.screens[e].lastSent ≠ some (v.screenText v.disp.screens[e].template))
    (hq : v.link.queue.length < 8) :
    let shown := v.screenText v.disp.screens[e].template
    (v.windowBoundary e).disp.screens[e] = (v.disp.screens[e]).sent shown ∧
    (v.windowBoundary e).link.queue = v.link.queue ++ [v.frameOf e a shown] := by
  intro shown
  obtain ⟨pending, entry⟩ := State.windowOff_entry ha hw hn
  have differs : (v.refreshScreen e).disp.screens[e].pending = true := pending.trans (by simpa using hd)
  have link : (v.windowOff e).link = v.link := v.windowOff_queue (by omega)
  have text := State.screenText_of_screens (State.keeps_trans (v.refreshScreen_keeps e)
    (State.setScreen_keeps _ e fun sc => { sc with window := 0 }) : v.keeps (v.windowOff e) screenPieces)
  rw [State.windowBoundary_ends hw he, v.endWindow_eq, if_pos differs]
  obtain ⟨sent, queue⟩ := State.offerScreen_room (v := v.windowOff e) (e := e) (a := a) (by rw [entry]; exact ha) (by rw [link]; exact hq)
  rw [sent, queue, text, entry, link, State.frameOf, link]
  exact ⟨rfl, rfl⟩

/-- A window ends and there is nothing to send. -/
theorem State.windowBoundary_rests (hd : v.disp.screens[e].lastSent = some (v.screenText v.disp.screens[e].template)) :
    (v.windowBoundary e).disp.screens[e] = { v.disp.screens[e] with window := 0, pending := false } := by
  obtain ⟨pending, entry⟩ := State.windowOff_entry ha hw hn
  have same : (v.disp.screens[e].lastSent != some (v.screenText v.disp.screens[e].template)) = false := by
    rw [hd]; exact bne_self_eq_false _
  rw [same] at pending entry
  rw [State.windowBoundary_ends hw he, v.endWindow_eq, if_neg (by rw [pending]; decide), entry]

end Windows

/-- A window that goes on. -/
theorem State.windowBoundary_runs {v : State} {e : Fin 4} (hw : 2 ≤ v.disp.screens[e].window)
    (he : v.early.contains (.screen e) = false) :
    (v.windowBoundary e).disp.screens[e] = { v.disp.screens[e] with window := v.disp.screens[e].window - 1 } := by
  have some : ¬ v.disp.screens[e].window = 0 := by omega
  have more : ¬ v.disp.screens[e].window = 1 := by omega
  have runs : v.windowBoundary e = v.setScreen e fun sc => { sc with window := v.disp.screens[e].window - 1 } := by
    rw [State.windowBoundary]
    simp only [he, some, more, decide_false, Bool.or_self, Bool.false_eq_true, if_false]
  rw [runs, v.setScreen_self]

/-! ## The transmit queue from the screens' steps to the end of the cycle -/

section Queue
variable (s : State)

theorem State.offerReply_queue : s.link.queue <+: s.offerReply.link.queue := by
  unfold State.offerReply
  simp only
  split
  · unfold State.admitReply
    split
    · exact List.prefix_refl _
    · exact List.prefix_append _ _
  · exact List.prefix_refl _

theorem State.staggerBoundary_queue : s.link.queue <+: s.staggerBoundary.link.queue := by
  unfold State.staggerBoundary
  split
  · exact List.prefix_refl _
  · split
    · exact s.offerReply_queue
    · exact List.prefix_refl _

theorem State.beginCycle_queue (before : State) : (s.beginCycle before).link.queue = s.link.queue := by
  have given : s.cycleGiven.link.queue = s.link.queue := (s.cycleGiven_keeps .sending (by decide)).1
  have settled : s.cycleGiven.settleTransfers.link = s.cycleGiven.link := by simp
  have sent : ∀ u : State, (u.sendCycle before).link.queue = u.link.queue := fun u => by
    unfold State.sendCycle
    exact (Link.sendCycle_frame _ _ _).2.2.2.2.2.2.2.2.1
  rw [State.beginCycle_eq, State.clearSlots, sent, settled, given]

end Queue

end Sys2Proof.Machine

namespace Sys2Proof.Machine

section QuietCycle
variable {s : State}

/-- The microphones and the messages have taken their steps. -/
def State.atWindows (s : State) : State := s.atBoundary.micBoundary.messageBoundary

/-- The room screens have taken theirs. -/
def State.atClock (s : State) : State := s.atWindows.screenBoundary s.endCycle

/-- The cycle has begun, and the screens are still to be rendered again. -/
def State.cycleBegun (s : State) : State := s.endCycle.boundary.beginCycle s

theorem State.boundary_eq : s.endCycle.boundary = s.atClock.clockBoundary.staggerBoundary := rfl

theorem State.cycled_eq : s.cycled = s.cycleBegun.refreshScreens.ended := rfl

/-- What is left of the cycle moves no clock and sends nothing before its end. -/
theorem State.atClock_noTenth (h : s.noTenth) : s.atClock.noTenth := by
  have start : s.keeps s.atBoundary (.tables :: endPieces) :=
    State.keeps_trans (State.keeps_mono s.endCycle_end (by decide)) (State.keeps_mono (State.transferDue_keeps _) (by decide))
  have steps : s.atBoundary.keeps s.atClock sessionPieces :=
    State.keeps_trans (State.micBoundary_keeps _) (State.keeps_trans (State.keeps_mono (State.messageBoundary_keeps _) (by decide))
      (State.keeps_mono (State.screenBoundary_keeps _ _) (by decide)))
  rw [State.noTenth, steps .clock (by decide), steps .early (by decide), start .clock (by decide), start .early (by decide)]
  exact h

/-- From the windows' steps on, without the end of a tenth. -/
theorem State.cycleBegun_keeps (h : s.noTenth) : s.atClock.keeps s.cycleBegun [.clock, .mgmt, .sending,
    .wings, .pos, .mic, .mixCycle, .audioReturn, .linkCounters, .delivery, .out, .outCounter, .early] :=
  State.keeps_trans (State.keeps_mono (State.clockBoundary_noTenth (State.atClock_noTenth h)) (by decide))
    (State.keeps_trans (State.keeps_mono (State.staggerBoundary_keeps _) (by decide))
    (State.keeps_mono (State.beginCycle_rest _ s) (by decide)))

theorem State.cycleBegun_queue (h : s.noTenth) : s.atClock.link.queue <+: s.cycleBegun.link.queue := by
  have clock : s.atClock.clockBoundary.link.queue = s.atClock.link.queue :=
    (State.clockBoundary_noTenth (State.atClock_noTenth h) .sending (by decide)).1
  rw [State.cycleBegun, State.beginCycle_queue, State.boundary_eq, ← clock]
  exact State.staggerBoundary_queue _

/-- The time of day does not move in the cycle. -/
theorem State.cycleBegun_now (hn : s.noTenth) : s.cycleBegun.clock.now = s.clock.now := by
  have same : s.cycled.clock = s.cycleBegun.clock := s.cycled_after .clock (by decide)
  obtain ⟨plain, early⟩ := s.cycled_now
  rw [← same]
  by_cases he : Early.tenth ∈ s.early
  · exact (early he).1
  · exact (plain (hn.resolve_right he) he).1

variable (h : s.quiet) (hw : s.mic.limitAction = .warn) (hc : s.cal.session ≠ .closing)
include h hw hc

/-- What the steps of the microphones and of the messages leave. -/
theorem State.quiet.atWindows : s.keeps s.atWindows
    [.floor, .wings, .tables, .mic, .seats, .sending, .linkCounters, .messages] := by
  have bmic : s.atBoundary.mic = s.mic := h.atBoundary .mic (by decide)
  have bcal : s.atBoundary.cal = s.cal := h.atBoundary .cal (by decide)
  have steps := State.micBoundary_warn (s := s.atBoundary) (by rw [bmic]; exact hw) (by rw [bcal]; exact hc)
  exact State.keeps_trans (State.keeps_mono h.atBoundary (by decide)) (State.keeps_trans (State.keeps_mono steps.keeps (by decide))
    (State.keeps_mono (State.messageBoundary_keeps _) (by decide)))

/-- Where no limit applies, nothing of the room link has moved when the windows do. -/
theorem State.quiet.atWindows_link (hl : ∀ i, s.limitOf i = none) : s.atWindows.link.queue = s.link.queue := by
  have bmic : s.atBoundary.mic = s.mic := h.atBoundary .mic (by decide)
  have bcal : s.atBoundary.cal = s.cal := h.atBoundary .cal (by decide)
  have steps := State.micBoundary_warn (s := s.atBoundary) (by rw [bmic]; exact hw) (by rw [bcal]; exact hc)
  have message : s.atWindows.link = s.atBoundary.micBoundary.link := by simp [State.atWindows]
  have limits : ∀ i, s.atBoundary.limitOf i = none := fun i => (h.limits.limitOf i).trans (hl i)
  rw [message, steps.link limits]
  exact (h.atBoundary .sending (by decide)).1

variable (hn : s.noTenth)
include hn

/-- A room screen shows the same at each of its steps in the cycle. -/
theorem State.quiet.shown {v : State} (hfloor : v.floor = s.cycled.floor) (hseats : v.seats = s.cycled.seats)
    (hcal : v.cal = s.cycled.cal) (hnow : v.clock.now = s.clock.now) (htemplates : v.disp.templates = s.disp.templates)
    (k : Fin 4) : v.screenText k = s.screenText k := by
  obtain ⟨cal, floor, -, recs⟩ := h.cycled_warn hw hc hn
  have names : v.nameOf = s.nameOf := funext fun i => by
    have record : v.seatRec i = s.cycled.seatRec i := by simp only [State.seatRec, State.phys, hseats]
    rw [State.nameOf, State.nameOf, record, recs]
  exact State.screenText_congr (by rw [hfloor, floor]) (by rw [hfloor, floor]) (by rw [hnow]) (hcal.trans cal) names
    htemplates k

theorem State.quiet.shown_windows (k : Fin 4) : s.atWindows.screenText k = s.screenText k := by
  have after := s.cycled_from_mics hn
  have message : s.atBoundary.micBoundary.keeps s.atWindows [.messages] := State.messageBoundary_keeps _
  have start := h.atWindows hw hc
  refine h.shown hw hc hn ?_ ?_ ?_ (congrArg Clock.now (start .clock (by decide))) (start .templates (by decide)) k
  · rw [after .floor (by decide), message .floor (by decide)]
  · rw [after .seats (by decide), message .seats (by decide)]
  · rw [after .cal (by decide), message .cal (by decide)]

theorem State.quiet.shown_begun (k : Fin 4) : s.cycleBegun.screenText k = s.screenText k := by
  have after : s.cycleBegun.keeps s.cycled screenPieces := s.cycled_after
  have templates : s.cycleBegun.disp.templates = s.disp.templates :=
    (after .templates (by decide)).symm.trans (s.cycled_keeps .templates (by decide))
  exact h.shown hw hc hn (after .floor (by decide)).symm (after .seats (by decide)).symm (after .cal (by decide)).symm
    (State.cycleBegun_now hn) templates k

end QuietCycle

end Sys2Proof.Machine

namespace Sys2Proof.Machine

section Refreshed
variable (s : State) {e : Fin 4}

theorem State.refreshScreens_running (h : 0 < s.disp.screens[e].window) :
    s.refreshScreens.disp.screens[e].window = s.disp.screens[e].window := by
  obtain ⟨v, -, entry, -, after, -⟩ := entryStep_refresh.entry s e
  have after : s.refreshScreens.disp.screens[e] = (v.refreshScreen e).disp.screens[e] := after
  rw [after, (v.refreshScreen_window (by rw [entry]; exact h)).1, entry]

/-- An entry that has sent what it shows, and has nothing pending, stays as it is. -/
theorem State.refreshScreens_shown (h : s.disp.screens[e].lastSent = some (s.screenText s.disp.screens[e].template))
    (hp : s.disp.screens[e].pending = false) : s.refreshScreens.disp.screens[e] = s.disp.screens[e] := by
  obtain ⟨v, keeps, entry, -, after, -⟩ := entryStep_refresh.entry s e
  have after : s.refreshScreens.disp.screens[e] = (v.refreshScreen e).disp.screens[e] := after
  have shown : v.disp.screens[e].lastSent = some (v.screenText v.disp.screens[e].template) := by
    rw [entry, State.screenText_of_screens keeps, h]
  rw [after, (v.refreshScreen_shown shown).2 (by rw [entry]; exact hp), entry]

/-- The step of an entry whose window ran before the boundary, among those of the others. -/
theorem State.screenBoundary_entry (before : State) {e : Fin 4} (h : 0 < before.disp.screens[e].window) :
    ∃ v : State, s.keeps v screenPieces ∧ v.disp.screens[e] = s.disp.screens[e] ∧
    v.link.queue.length ≤ s.link.queue.length + 3 ∧
    (s.screenBoundary before).disp.screens[e] = (v.windowBoundary e).disp.screens[e] ∧
    (v.windowBoundary e).link.queue <+: (s.screenBoundary before).link.queue := by
  have steps : s.screenBoundary before = (numbers 4).foldl (fun (u : State) (g : Fin 4) =>
      if decide (0 < before.disp.screens[g].window) = true then u.windowBoundary g else u) s := by
    simp only [State.screenBoundary, decide_eq_true_eq]
  obtain ⟨v, keeps, entry, length, after, queue⟩ :=
    (entryStep_window.some fun g => decide (0 < before.disp.screens[g].window)).entry s e
  rw [← steps, if_pos (decide_eq_true h)] at after queue
  exact ⟨v, keeps, entry, length, after, queue⟩

end Refreshed

section QuietScreens
variable {s : State} {e : Fin 4}

theorem State.cycled_screens : s.cycled.disp.screens = s.cycleBegun.refreshScreens.refreshScreens.disp.screens := by
  rw [s.cycled_eq, State.ended]
  exact State.startSending_keeps _ .screens (by decide)

/-- A window that runs when the cycle has begun is not touched when the screens are rendered again. -/
theorem State.cycled_running (h : 0 < s.cycleBegun.disp.screens[e].window) :
    s.cycled.disp.screens[e].window = s.cycleBegun.disp.screens[e].window := by
  have first := s.cycleBegun.refreshScreens_running h
  simp only [s.cycled_screens]
  rw [State.refreshScreens_running _ (by rw [first]; exact h), first]

/-- An entry that has sent what it shows when the cycle has begun has nothing to send at its end. -/
theorem State.cycled_shown (h : s.cycleBegun.disp.screens[e].lastSent =
    some (s.cycleBegun.screenText s.cycleBegun.disp.screens[e].template))
    (hp : s.cycleBegun.disp.screens[e].pending = false) : s.cycled.disp.screens[e] = s.cycleBegun.disp.screens[e] := by
  have first := s.cycleBegun.refreshScreens_shown h hp
  have text := State.screenText_of_screens s.cycleBegun.refreshScreens_keeps
  simp only [s.cycled_screens]
  rw [State.refreshScreens_shown _ (by rw [first, text, h]) (by rw [first]; exact hp), first]

/-- A frame that the windows' steps put into the transmit queue stands there at the end. -/
theorem State.cycled_queue (hn : s.noTenth) : s.atClock.link.queue <+: s.cycled.link.queue := by
  rw [s.cycled_eq]
  exact ((State.cycleBegun_queue hn).trans (State.refreshScreens_queue _)).trans (State.ended_queue _)

variable (h : s.quiet) (hw : s.mic.limitAction = .warn) (hc : s.cal.session ≠ .closing) (hn : s.noTenth) (hearly : s.early = [])
include h hw hc hn hearly

/-- The step of one entry in the cycle, where its window runs. -/
theorem State.quiet.window (he : 0 < s.disp.screens[e].window) : ∃ v : State, s.atWindows.keeps v screenPieces ∧
    v.disp.screens[e] = s.disp.screens[e] ∧ v.link.queue.length ≤ s.atWindows.link.queue.length + 3 ∧
    v.early.contains (.screen e) = false ∧ (∀ k, v.screenText k = s.screenText k) ∧ v.link.station = s.link.station ∧
    s.cycleBegun.disp.screens[e] = (v.windowBoundary e).disp.screens[e] ∧
    (v.windowBoundary e).link.queue <+: s.cycled.link.queue := by
  have start := h.atWindows hw hc
  have before : s.endCycle.disp.screens = s.disp.screens := h.endCycle.1 .screens (by decide)
  have same : s.atWindows.disp.screens = s.disp.screens := start .screens (by decide)
  obtain ⟨v, keeps, entry, length, after, queue⟩ := s.atWindows.screenBoundary_entry s.endCycle (e := e) (by
    simp only [before]
    exact he)
  rw [← State.atClock] at after queue
  have begun : s.cycleBegun.disp.screens = s.atClock.disp.screens := State.cycleBegun_keeps hn .screens (by decide)
  have early : v.early = [] := by
    rw [keeps .early (by decide), start .early (by decide), hearly]
  have station : v.link.station = s.link.station := (keeps .addresses (by decide)).1.trans (start .addresses (by decide)).1
  refine ⟨v, keeps, ?_, length, by rw [early]; rfl, fun k => ?_, station, ?_, queue.trans (State.cycled_queue hn)⟩
  · simp only [entry, same]
  · rw [State.screenText_of_screens keeps, h.shown_windows hw hc hn]
  · simp only [begun]
    exact after

theorem State.quiet.cycled_window (he : 2 ≤ s.disp.screens[e].window) :
    s.cycled.disp.screens[e].window = s.disp.screens[e].window - 1 := by
  obtain ⟨v, -, entry, -, early, -, -, after, -⟩ := h.window hw hc hn hearly (e := e) (by omega)
  have begun : s.cycleBegun.disp.screens[e].window = s.disp.screens[e].window - 1 := by
    rw [after, State.windowBoundary_runs (by rw [entry]; exact he) early, entry]
  rw [State.cycled_running (by omega), begun]

variable {a : Addr} (ha : s.disp.screens[e].addr = some a) (h1 : s.disp.screens[e].window = 1)
  (hnot : s.disp.screens[e].waiting = false)
include ha h1 hnot

theorem State.quiet.cycled_sends (hd : s.disp.screens[e].lastSent ≠ some (s.screenText s.disp.screens[e].template))
    (hq : s.link.queue.length < 4) (hl : ∀ i, s.limitOf i = none) :
    s.cycled.disp.screens[e].window = 200 ∧
    s.cycled.disp.screens[e].lastSent = some (s.screenText s.disp.screens[e].template) ∧
    s.frameOf e a (s.screenText s.disp.screens[e].template) ∈ s.cycled.link.queue := by
  obtain ⟨v, -, entry, length, early, text, station, after, queue⟩ := h.window hw hc hn hearly (e := e) (by omega)
  rw [h.atWindows_link hw hc hl] at length
  obtain ⟨sent, frame⟩ := State.windowBoundary_sends (v := v) (by rw [entry]; exact ha) (by rw [entry]; exact h1)
    (by rw [entry]; exact hnot) early (by rw [entry, text]; exact hd) (by omega)
  rw [entry, text] at sent frame
  have begun : s.cycleBegun.disp.screens[e] = (s.disp.screens[e]).sent (s.screenText s.disp.screens[e].template) :=
    after.trans sent
  have shown := h.shown_begun hw hc hn
  have last : s.cycled.disp.screens[e] = (s.disp.screens[e]).sent (s.screenText s.disp.screens[e].template) := by
    rw [State.cycled_shown (by rw [begun, shown]; rfl) (by rw [begun]; rfl), begun]
  rw [last]
  refine ⟨rfl, rfl, queue.subset ?_⟩
  rw [frame, State.frameOf, State.frameOf, station]
  exact List.mem_append_right _ List.mem_cons_self

theorem State.quiet.cycled_rests (hd : s.disp.screens[e].lastSent = some (s.screenText s.disp.screens[e].template)) :
    s.cycled.disp.screens[e] = { s.disp.screens[e] with window := 0, pending := false } := by
  obtain ⟨v, -, entry, -, early, text, -, after, -⟩ := h.window hw hc hn hearly (e := e) (by omega)
  have rests := State.windowBoundary_rests (v := v) (by rw [entry]; exact ha) (by rw [entry]; exact h1)
    (by rw [entry]; exact hnot) early (by rw [entry, text]; exact hd)
  rw [entry] at rests
  have begun := after.trans rests
  have shown := h.shown_begun hw hc hn
  rw [State.cycled_shown (by rw [begun, shown]; exact hd) (by rw [begun]), begun]

end QuietScreens

end Sys2Proof.Machine

namespace Sys2Proof.Machine

/-! ## Messages, wings, clock and stagger in a quiet cycle -/

theorem State.screenBoundary_length (s before : State) :
    (s.screenBoundary before).link.queue.length ≤ s.link.queue.length + 4 := by
  have steps : s.screenBoundary before = (numbers 4).foldl (fun (u : State) (g : Fin 4) =>
      if decide (0 < before.disp.screens[g].window) = true then u.windowBoundary g else u) s := by
    simp only [State.screenBoundary, decide_eq_true_eq]
  rw [steps]
  exact ((entryStep_window.some fun g => decide (0 < before.disp.screens[g].window)).fold (numbers 4) s).2.2.2

theorem State.messageBoundary_messages {s : State} (h : s.early = []) (i : Seat) :
    s.messageBoundary.disp.messages[i] = s.disp.messages[i].bind Message.tick := by
  have plain : ∀ m : Option Message, (if s.early.contains (.message i) then m else m.bind Message.tick) = m.bind Message.tick :=
    fun m => by rw [h]; rfl
  rw [State.messageBoundary]
  simp only [mapAll_get, plain]

theorem Message.tick_runs {m : Message} (h : 2 ≤ m.counter) : m.tick = some { m with counter := m.counter - 1 } := by
  rw [Message.tick, if_neg (by omega)]

theorem Message.tick_steps {m : Message} (h : m.counter ≤ 1) : m.tick =
    if m.step < m.text.length + 24 then some { m with step := m.step + 1, counter := 400 } else none := by
  rw [Message.tick, if_pos h, Message.nextStep]

theorem State.staggerBoundary_off {s : State} (h : s.mgmt.engine ≠ .stagger) : s.staggerBoundary.mgmt = s.mgmt := by
  rw [State.staggerBoundary, if_pos (.inl h)]

section Stagger
variable {s : State} (he : s.early = [])
include he

theorem State.staggerBoundary_runs (h : s.mgmt.engine = .stagger) (hs : 2 ≤ s.mgmt.stagger) :
    s.staggerBoundary.mgmt = { s.mgmt with stagger := s.mgmt.stagger - 1 } := by
  rw [State.staggerBoundary, if_neg (by simp [h, he]), if_neg (by omega), State.setMgmt_mgmt]

/-- The stagger is over: the reply enters the transmit queue where there is room for it. -/
theorem State.staggerBoundary_ends (h : s.mgmt.engine = .stagger) (hs : s.mgmt.stagger ≤ 1) {f : Frame}
    (hf : s.mgmt.reply = some f) : s.staggerBoundary.mgmt.stagger = 0 ∧
    (s.link.queue.length < 8 → s.staggerBoundary.link.queue = s.link.queue ++ [f] ∧
      s.staggerBoundary.mgmt.requests = s.mgmt.requests.tail) := by
  set u := s.setMgmt fun m => { m with engine := .replyWait, stagger := 0, restart := m.restart.offered } with hu
  have reply : u.mgmt.reply = some f := hf
  have ends : s.staggerBoundary = if s.link.queue.length < 8 then u.admitReply else u := by
    rw [State.staggerBoundary, if_neg (by simp [h, he]), if_pos hs, State.offerReply]
  have admitted : u.admitReply.mgmt = Mgmt.leaveHead u.mgmt ∧ u.admitReply.link.queue = s.link.queue ++ [f] := by
    unfold State.admitReply
    rw [reply]
    exact ⟨rfl, rfl⟩
  rw [ends]
  by_cases hq : s.link.queue.length < 8
  · rw [if_pos hq, admitted.1, admitted.2]
    exact ⟨rfl, fun _ => ⟨rfl, rfl⟩⟩
  · rw [if_neg hq]
    exact ⟨rfl, fun k => absurd k hq⟩

end Stagger

section QuietRest
variable {s : State}

theorem State.quiet.cycled_wing (h : s.quiet) (w : Wing) : s.cycled.wing w = ((s.wing w).moveScan).beginCycle := by
  rw [s.cycled_wing, h.endCycle.2.2]

theorem WingPort.beginCycle_rest (p : WingPort) : p.beginCycle.scanPos = p.scanPos ∧ p.beginCycle.state = p.state := by
  unfold WingPort.beginCycle
  split
  · split <;> exact ⟨rfl, rfl⟩
  · exact ⟨rfl, rfl⟩

theorem WingPort.moveScan_scanPos (p : WingPort) : p.moveScan.scanPos =
    if p.inUse = true ∧ p.command = .normal ∧ p.assigned ≠ 0 ∧ p.scanPos + 1 < p.assigned then p.scanPos + 1
    else if p.inUse = true ∧ p.command = .normal ∧ p.assigned ≠ 0 then 0 else p.scanPos := by
  unfold WingPort.moveScan
  by_cases hm : p.inUse = true ∧ p.command = .normal ∧ p.assigned ≠ 0
  · rw [if_pos hm, if_pos hm]
    refine if_congr ⟨fun k => ⟨hm.1, hm.2.1, hm.2.2, k⟩, fun k => k.2.2.2⟩ rfl rfl
  · rw [if_neg hm, if_neg hm, if_neg fun k => hm ⟨k.1, k.2.1, k.2.2.1⟩]

/-- The commands of the cycle that begins, in and outside a pass. -/
theorem WingPort.beginCycle_command (p : WingPort) : (p.state ≠ .enumerating → p.beginCycle.command = .normal) ∧
    (p.state = .enumerating → p.passCycle = 0 → p.beginCycle.passCycle = 1 ∧ p.beginCycle.command = .assign) ∧
    (p.state = .enumerating → 1 ≤ p.passCycle → p.passCycle ≤ 3 →
      p.beginCycle.passCycle = p.passCycle + 1 ∧ p.beginCycle.command = .identify) := by
  refine ⟨fun k => by rw [WingPort.beginCycle_normal k], fun k k0 => ?_, fun k k1 k3 => ?_⟩
  · rw [WingPort.beginCycle, if_pos k, if_pos k0]
    exact ⟨rfl, rfl⟩
  · rw [WingPort.beginCycle, if_pos k, if_neg (by omega)]
    exact ⟨Nat.min_eq_right (by omega), rfl⟩

variable (h : s.quiet) (hw : s.mic.limitAction = .warn) (hc : s.cal.session ≠ .closing) (hn : s.clock.cycles < 199)
  (hearly : s.early = [])
include h hw hc hn hearly

theorem State.quiet.cycled_messages (i : Seat) : s.cycled.disp.messages[i] = s.disp.messages[i].bind Message.tick := by
  have bmic : s.atBoundary.mic = s.mic := h.atBoundary .mic (by decide)
  have bcal : s.atBoundary.cal = s.cal := h.atBoundary .cal (by decide)
  have steps := State.micBoundary_warn (s := s.atBoundary) (by rw [bmic]; exact hw) (by rw [bcal]; exact hc)
  have start : s.keeps s.atBoundary.micBoundary [.floor, .wings, .tables, .mic, .seats, .sending, .linkCounters] :=
    State.keeps_trans (State.keeps_mono h.atBoundary (by decide)) (State.keeps_mono steps.keeps (by decide))
  have windows : s.atWindows.keeps s.atClock screenPieces := State.screenBoundary_keeps _ _
  have same : s.cycled.disp.messages = s.atWindows.disp.messages :=
    (s.cycled_after .messages (by decide)).trans ((State.cycleBegun_keeps (.inl hn) .messages (by decide)).trans
      (windows .messages (by decide)))
  have before : s.atBoundary.micBoundary.disp.messages = s.disp.messages := start .messages (by decide)
  have early : s.atBoundary.micBoundary.early = [] := (start .early (by decide)).trans hearly
  simp only [same, State.atWindows]
  rw [State.messageBoundary_messages early]
  simp only [before]

/-- Where the clock's step has been taken. -/
theorem State.quiet.atStagger : s.atClock.clockBoundary = { s.atClock with
    clock := { s.clock with cycles := s.clock.cycles + 1 }.holdover } ∧
    s.atClock.mgmt = s.mgmt ∧ s.atClock.early = [] ∧
    ((∀ i, s.limitOf i = none) → s.atClock.link.queue.length ≤ s.link.queue.length + 4) := by
  have start := h.atWindows hw hc
  have windows : s.atWindows.keeps s.atClock screenPieces := State.screenBoundary_keeps _ _
  have clock : s.atClock.clock = s.clock := (windows .clock (by decide)).trans (start .clock (by decide))
  have early : s.atClock.early = [] := (windows .early (by decide)).trans ((start .early (by decide)).trans hearly)
  refine ⟨?_, (windows .mgmt (by decide)).trans (start .mgmt (by decide)), early, fun hl => ?_⟩
  · rw [s.atClock.clockBoundary_plain (by rw [clock]; exact hn) (by rw [early]; exact List.not_mem_nil), clock]
  · have length := s.atWindows.screenBoundary_length s.endCycle
    rwa [← State.atClock, h.atWindows_link hw hc hl] at length

theorem State.quiet.cycled_sync : s.cycled.clock.sync =
    if s.clock.sync = .synced ∧ 36000 ≤ s.clock.age then .holdover else s.clock.sync := by
  obtain ⟨step, -⟩ := h.atStagger hw hc hn hearly
  have same : s.cycled.clock = s.atClock.clockBoundary.clock := by
    rw [s.cycled_after .clock (by decide), State.beginCycle_rest _ s .clock (by decide), s.boundary_eq,
      State.staggerBoundary_keeps _ .clock (by decide)]
  rw [same, step, Clock.holdover]
  split <;> rfl

end QuietRest

theorem State.cycled_mgmt (s : State) : s.cycled.mgmt = s.atClock.clockBoundary.staggerBoundary.mgmt := by
  rw [s.cycled_after .mgmt (by decide), State.beginCycle_rest _ s .mgmt (by decide), s.boundary_eq]

end Sys2Proof.Machine

namespace Sys2Proof.Machine

/-! ## A boundary at the microphones under AUTO -/

/-- The turn of the seat reaches its limit with the tenth that ends. -/
def State.turnReached (s : State) (i : Seat) : Bool :=
  decide ((s.micOf i).state = .opened) && decide (199 ≤ (s.micOf i).cycles) && match s.limitOf i with
    | none => false
    | some l => decide (limitPoint l ≤ satAdd (s.micOf i).timer 1)

theorem State.turnReached_iff (s : State) (i : Seat) : s.turnReached i = true ↔ (s.micOf i).state = .opened ∧
    199 ≤ (s.micOf i).cycles ∧ ∃ l, s.limitOf i = some l ∧ limitPoint l ≤ satAdd (s.micOf i).timer 1 := by
  rw [State.turnReached, Bool.and_eq_true, Bool.and_eq_true, decide_eq_true_eq, decide_eq_true_eq, and_assoc]
  refine and_congr_right fun _ => and_congr_right fun _ => ?_
  cases s.limitOf i with
  | none => simp
  | some l => simp

/-- A limit is never 0. -/
theorem State.limitOf_pos {s : State} {i : Seat} {l : Nat} (h : s.limitOf i = some l) : 0 < l := by
  unfold State.limitOf at h
  simp only at h
  split at h
  · cases h
  · split at h
    · cases h
    · cases h; omega

section EvaluateAuto
variable {v : State} {i : Seat}

/-- What an evaluation under AUTO, outside GRACE and without auto-advance, does of a turn: one that reached its limit loses
the floor. -/
structure State.EvaluatesAuto (v w : State) (i : Seat) (hit : Prop) : Prop where
  keeps : v.keeps w floorPieces
  limits : v.SameLimits w
  queue : w.floor.queue = v.floor.queue ∧ w.floor.mode = v.floor.mode
  stays : ¬ hit → w.floor.openList = v.floor.openList
  leaves : hit → w.floor.openList = v.floor.openList.filter fun e => e.seat ≠ i
  others : ∀ j, j ≠ i → w.micOf j = v.micOf j
  closes : hit → v.holds i = true → (w.micOf i).state = .closing ∧ (w.micOf i).gap = v.cfg.closeGap

theorem State.limitMarked_floor (l : Nat) : (v.limitMarked i l).floor = v.floor := v.limitMarked_keeps i l .floor (by decide)

theorem State.evaluateLimit_auto (ha : v.mic.limitAction = .auto) (hs : v.cal.session ≠ .grace) (hq : v.noAdvance)
    (ho : (v.micOf i).state = .opened) :
    v.EvaluatesAuto (v.evaluateLimit i) i (∃ l, v.limitOf i = some l ∧ limitPoint l ≤ (v.micOf i).timer) := by
  cases hl : v.limitOf i with
  | none =>
    have no : ¬ ∃ l, (none : Option Nat) = some l ∧ limitPoint l ≤ (v.micOf i).timer := fun ⟨_, k, _⟩ => by cases k
    rw [v.evaluateLimit_none i ho hl]
    refine ⟨State.keeps_mono (v.setMic_keeps i _) (by decide), v.setMic_limits i _, ⟨rfl, rfl⟩, fun _ => rfl,
      fun k => absurd k no, fun j hj => ?_, fun k => absurd k no⟩
    rw [State.micOf_setMic, if_neg hj]
  | some l =>
    set m := v.limitMarked i l with hm
    have floor : m.floor = v.floor := State.limitMarked_floor l
    have keeps : v.keeps m floorPieces := State.keeps_mono (v.limitMarked_keeps i l) (by decide)
    have others : ∀ j, j ≠ i → m.micOf j = v.micOf j := fun j hj => by rw [hm, v.limitMarked_micOf, if_neg hj]
    by_cases hit : limitPoint l ≤ (v.micOf i).timer
    · have yes : ∃ k, some l = some k ∧ limitPoint k ≤ (v.micOf i).timer := ⟨l, rfl, hit⟩
      have cal : m.cal = v.cal := v.limitMarked_keeps i l .cal (by decide)
      have cfg : m.cfg = v.cfg := v.limitMarked_keeps i l .cfg (by decide)
      have e : v.evaluateLimit i = m.removeCore i .limit := by
        rw [v.evaluateLimit_some i ho hl, if_pos (by simp [ha, hit]), ← hm, m.removeThenAdvance_plain i .limit (by rw [cal]; exact hs)
          (State.noAdvance_congr hq (by rw [floor]) cfg)]
      rw [e]
      refine ⟨State.keeps_trans keeps (m.removeCore_keeps i .limit), (v.limitMarked_limits i l).trans (m.removeCore_limits i .limit),
        ?_, fun k => absurd yes k, fun _ => ?_, fun j hj => ?_, fun _ hh => ?_⟩
      · obtain ⟨queue, mode, -⟩ := m.removeCore_queue i .limit
        rw [queue, mode, floor]
        exact ⟨rfl, rfl⟩
      · rw [m.removeCore_openList, floor]
      · rw [m.removeCore_micOf_ne i j .limit hj, others j hj]
      · have holds : m.holds i = true := (State.holds_congr (by rw [floor]) i).trans hh
        have opened : (m.micOf i).state = .opened := by
          rw [hm, v.limitMarked_micOf, if_pos rfl]; exact ho
        rw [m.removeCore_micOf i i .limit rfl holds, m.micRemove_micOf, if_pos ⟨rfl, .inr opened⟩, cfg]
        exact ⟨rfl, rfl⟩
    · have no : ¬ ∃ k, some l = some k ∧ limitPoint k ≤ (v.micOf i).timer := fun ⟨_, k, hk⟩ => by cases k; exact hit hk
      have e : v.evaluateLimit i = m := by
        rw [v.evaluateLimit_some i ho hl, if_neg (by simp [hit])]
      rw [e]
      exact ⟨keeps, v.limitMarked_limits i l, by rw [floor]; exact ⟨rfl, rfl⟩, fun _ => by rw [floor], fun k => absurd k no,
        others, fun k => absurd k no⟩

end EvaluateAuto

/-- Under AUTO, in session and without auto-advance, the seats of `done` have taken their steps. -/
structure State.StepsAuto (s u : State) (done : List Seat) : Prop where
  keeps : s.keeps u floorPieces
  limits : s.SameLimits u
  queue : u.floor.queue = s.floor.queue ∧ u.floor.mode = s.floor.mode
  openList : u.floor.openList = s.floor.openList.filter fun e => !(decide (e.seat ∈ done) && s.turnReached e.seat)
  mics : ∀ i, i ∉ done → u.micOf i = (s.micOf i).tick (s.early.contains (.mic i))
  closes : ∀ i ∈ done, s.holds i = true → s.turnReached i = true →
    (u.micOf i).state = .closing ∧ (u.micOf i).gap = s.cfg.closeGap

section StepsAuto
variable {s u : State} {done : List Seat} {i : Seat}

theorem State.StepsAuto.start (s : State) : s.StepsAuto s.ticked [] where
  keeps := State.keeps_mono s.ticked_keeps (by decide)
  limits := s.ticked_limits
  queue := by
    have h : s.ticked.floor = s.floor := s.ticked_keeps .floor (by decide)
    rw [h]; exact ⟨rfl, rfl⟩
  openList := by
    have h : s.ticked.floor = s.floor := s.ticked_keeps .floor (by decide)
    rw [h]; simp
  mics i _ := s.ticked_micOf i
  closes i hi := absurd hi List.not_mem_nil

/-- A seat whose step has not been taken holds the floor as before. -/
theorem State.StepsAuto.holds (h : s.StepsAuto u done) (hd : i ∉ done) (hh : s.holds i = true) : u.holds i = true := by
  rw [State.holds_iff] at hh ⊢
  obtain ⟨e, he, rfl⟩ := hh
  refine ⟨e, ?_, rfl⟩
  rw [h.openList, List.mem_filter]
  exact ⟨he, by simp [hd]⟩

/-- The step of one more seat, which does not touch the others' microphones. -/
theorem State.StepsAuto.next (h : s.StepsAuto u done) {v : State} (hd : i ∉ done) (keeps : u.keeps v floorPieces)
    (limits : u.SameLimits v) (queue : v.floor.queue = u.floor.queue ∧ v.floor.mode = u.floor.mode)
    (stays : s.turnReached i = false → v.floor.openList = u.floor.openList)
    (leaves : s.turnReached i = true → v.floor.openList = u.floor.openList.filter fun e => e.seat ≠ i)
    (others : ∀ j, j ≠ i → v.micOf j = u.micOf j)
    (closes : s.turnReached i = true → u.holds i = true → (v.micOf i).state = .closing ∧ (v.micOf i).gap = s.cfg.closeGap) :
    s.StepsAuto v (done ++ [i]) where
  keeps := State.keeps_trans h.keeps keeps
  limits := h.limits.trans limits
  queue := ⟨queue.1.trans h.queue.1, queue.2.trans h.queue.2⟩
  openList := by
    cases hr : s.turnReached i with
    | false =>
      rw [stays hr, h.openList]
      refine List.filter_congr fun e _ => ?_
      by_cases he : e.seat = i
      · simp [he, hr]
      · simp [he]
    | true =>
      rw [leaves hr, h.openList, List.filter_filter]
      refine List.filter_congr fun e _ => ?_
      by_cases he : e.seat = i
      · simp [he, hr]
      · simp [he]
  mics j hj := by
    rw [List.mem_append, List.mem_singleton, not_or] at hj
    rw [others j hj.2, h.mics j hj.1]
  closes j hj hh hr := by
    by_cases he : j = i
    · subst he
      exact closes hr (h.holds hd hh)
    · rw [others j he]
      exact h.closes j ((List.mem_append.1 hj).resolve_right fun k => he (List.mem_singleton.1 k)) hh hr

/-- An evaluation that follows a change of the seat's own microphone into a turn. -/
theorem State.StepsAuto.turn (h : s.StepsAuto u done) (ha : s.mic.limitAction = .auto) (hs : s.cal.session = .inSession)
    (hq : s.noAdvance) (hd : i ∉ done) {v : State} {f : MicRec → MicRec} (vmic : v.mic = (u.setMic i f).mic)
    (vkeeps : u.keeps v [.mic, .seats]) (vlimits : u.SameLimits v) (opened : (f (u.micOf i)).state = .opened)
    (hit : s.turnReached i = true ↔ ∃ l, s.limitOf i = some l ∧ limitPoint l ≤ (f (u.micOf i)).timer) :
    s.StepsAuto (v.evaluateLimit i) (done ++ [i]) := by
  have floor : v.floor = u.floor := vkeeps .floor (by decide)
  have cfg : v.cfg = s.cfg := vlimits.cfg.trans h.limits.cfg
  have mics : ∀ j, v.micOf j = if j = i then f (u.micOf j) else u.micOf j := fun j => by
    rw [State.micOf_congr vmic, State.micOf_setMic]
  have own : v.micOf i = f (u.micOf i) := by rw [mics, if_pos rfl]
  have cal : v.cal = s.cal := (vkeeps .cal (by decide)).trans (h.keeps .cal (by decide))
  have limit : v.limitOf i = s.limitOf i := (vlimits.limitOf i).trans (h.limits.limitOf i)
  have e := v.evaluateLimit_auto (i := i) ((vlimits.limitAction.trans h.limits.limitAction).trans ha)
    (by rw [cal, hs]; decide) (State.noAdvance_congr hq (by rw [floor, h.queue.2]) cfg) (by rw [own]; exact opened)
  rw [limit, own, ← hit] at e
  refine h.next hd (State.keeps_trans (State.keeps_mono vkeeps (by decide)) e.keeps) (vlimits.trans e.limits)
    (by rw [e.queue.1, e.queue.2, floor]; exact ⟨rfl, rfl⟩) (fun k => ?_) (fun k => ?_) (fun j hj => ?_) fun k hh => ?_
  · rw [e.stays (by simp [k]), floor]
  · rw [e.leaves k, floor]
  · rw [e.others j hj, mics, if_neg hj]
  · rw [← cfg]
    exact e.closes k ((State.holds_congr (by rw [floor]) i).trans hh)

theorem State.StepsAuto.step (ha : s.mic.limitAction = .auto) (hs : s.cal.session = .inSession) (hq : s.noAdvance)
    (hi : i ∈ s.micDue) (hd : i ∉ done) (h : s.StepsAuto u done) : s.StepsAuto (s.micStep u i) (done ++ [i]) := by
  obtain ⟨-, hdue⟩ := (s.mem_micDue i).1 hi
  have mic : u.micOf i = { s.micOf i with flash := (s.micOf i).flash - 1 } := by
    rw [h.mics i hd, MicRec.tick_due _ _ (.inr hdue)]
  have state : (u.micOf i).state = (s.micOf i).state := by rw [mic]
  have cal : u.cal = s.cal := h.keeps .cal (by decide)
  have notOpen : (s.micOf i).state ≠ .opened → s.turnReached i = false := fun k => by
    rw [Bool.eq_false_iff, ne_eq, State.turnReached_iff]
    exact fun x => k x.1
  have gap : (s.micOf i).state ≠ .opened → (s.micOf i).gapDue = true := fun k =>
    hdue.resolve_right fun x => k ((MicRec.turnDue_iff _).1 x).1
  rw [State.micStep, if_neg (not_not.2 state)]
  cases hst : (s.micOf i).state with
  | closed =>
    rw [MicRec.gapDue_iff, MicRec.turnDue_iff, hst] at hdue
    simp at hdue
  | opened =>
    have noGap : ¬ (s.micOf i).gapDue = true := by rw [MicRec.gapDue_iff, hst]; simp
    have turn : 199 ≤ (s.micOf i).cycles := ((MicRec.turnDue_iff _).1 (hdue.resolve_left noGap)).2
    rw [if_neg noGap, State.advanceTurn]
    refine h.turn ha hs hq hd (f := fun m => { m with timer := satAdd m.timer 1, cycles := 0 }) rfl
      (State.keeps_mono (u.setMic_keeps i _) (by decide)) (u.setMic_limits i _) (state.trans hst) ?_
    rw [State.turnReached_iff, mic]
    exact ⟨fun x => x.2.2, fun x => ⟨hst, turn, x⟩⟩
  | closing =>
    have notGrace : u.cal.session ≠ .closing := by rw [cal, hs]; decide
    have quiet : (u.setMic i fun m => { m with state := .closed, gap := 0 }).reportClosed =
        u.setMic i fun m => { m with state := .closed, gap := 0 } :=
      (State.reportClosed_cases (u.setMic i fun m => { m with state := .closed, gap := 0 })).resolve_right fun k => notGrace k.1
    have no := notOpen (by rw [hst]; decide)
    rw [if_pos (gap (by rw [hst]; decide)), State.endGap, state, hst]
    simp only [quiet]
    refine h.next hd (State.keeps_mono (u.setMic_keeps i _) (by decide)) (u.setMic_limits i _) ⟨rfl, rfl⟩ (fun _ => rfl)
      (fun k => by rw [no] at k; cases k) (fun j hj => ?_) fun k => by rw [no] at k; cases k
    rw [State.micOf_setMic, if_neg hj]
  | opening =>
    have no := notOpen (by rw [hst]; decide)
    have runs : u.cal.session.runs = true := by rw [cal, hs]; rfl
    rw [if_pos (gap (by rw [hst]; decide)), State.endGap, state, hst]
    simp only [runs, if_true]
    set w := u.setMic i fun m => { m with state := .opened, gap := 0, timer := 0, cycles := 0 } with hw
    have recs : ∀ p : Pos, (w.setRec (w.phys i) fun r => { r with spoke := true }).seats.recs[p] =
        if p = w.phys i then { u.seats.recs[p] with spoke := true } else u.seats.recs[p] := fun p =>
      modify_get u.seats.recs _ p _
    refine h.turn ha hs hq hd (v := w.setRec (w.phys i) fun r => { r with spoke := true })
      (f := fun m => { m with state := .opened, gap := 0, timer := 0, cycles := 0 }) rfl
      (State.keeps_trans (State.keeps_mono (u.setMic_keeps i _) (by decide)) (State.keeps_mono (State.setRec_keeps _ _ _) (by decide)))
      ⟨⟨rfl, rfl, fun p => ?_⟩, fun p => ?_, rfl, rfl, rfl⟩ rfl ?_
    · rw [recs]
      split <;> exact ⟨rfl, rfl⟩
    · rw [recs]
      split <;> rfl
    · rw [no]
      refine ⟨nofun, fun ⟨l, hl, k⟩ => ?_⟩
      have := State.limitOf_pos hl
      have k : l * 10 ≤ 0 := k
      omega

/-- A boundary at the microphones under AUTO, in session and without auto-advance. -/
theorem State.micBoundary_auto (ha : s.mic.limitAction = .auto) (hs : s.cal.session = .inSession) (hq : s.noAdvance) :
    s.StepsAuto s.micBoundary s.micDue := by
  rw [State.micBoundary_eq]
  exact foldl_done (P := s.StepsAuto) (fun u done i hi hd h => h.step ha hs hq hi hd) State.micDue_nodup (.start s)

end StepsAuto

end Sys2Proof.Machine

namespace Sys2Proof.Machine

theorem State.turnReached_congr {s t : State} (hm : t.mic = s.mic) (hl : s.SameLimits t) (i : Seat) :
    t.turnReached i = s.turnReached i := by
  rw [State.turnReached, State.turnReached, State.micOf_congr hm, hl.limitOf]

/-- A quiet cycle under AUTO, in session and without auto-advance: the turns that reach their limits lose the floor. -/
theorem State.quiet.cycled_auto {s : State} (h : s.quiet) (ha : s.mic.limitAction = .auto) (hs : s.cal.session = .inSession)
    (hq : s.noAdvance) (hn : s.clock.cycles < 199) (he : s.early = []) :
    s.cycled.cal = s.cal ∧ s.cycled.floor.queue = s.floor.queue ∧
    s.cycled.floor.openList = s.floor.openList.filter (fun e => !s.turnReached e.seat) ∧
    ∀ i, s.holds i = true → s.turnReached i = true →
      (s.cycled.micOf i).state = .closing ∧ (s.cycled.micOf i).gap = s.cfg.closeGap := by
  have bmic : s.atBoundary.mic = s.mic := h.atBoundary .mic (by decide)
  have bcal : s.atBoundary.cal = s.cal := h.atBoundary .cal (by decide)
  have bcfg : s.atBoundary.cfg = s.cfg := h.atBoundary .cfg (by decide)
  have bdue := State.micDue_congr bmic (h.atBoundary .early (by decide))
  have breached : ∀ i, s.atBoundary.turnReached i = s.turnReached i := State.turnReached_congr bmic h.limits
  have steps := State.micBoundary_auto (s := s.atBoundary) (by rw [bmic]; exact ha) (by rw [bcal]; exact hs)
    (State.noAdvance_congr hq (by rw [h.floor]) bcfg)
  have after := s.cycled_from_mics (.inl hn)
  have floor : s.cycled.floor = s.atBoundary.micBoundary.floor := after .floor (by decide)
  have due : ∀ i, s.turnReached i = true → i ∈ s.micDue := fun i hr => by
    obtain ⟨hopen, hcycles, -⟩ := (s.turnReached_iff i).1 hr
    exact (s.mem_micDue i).2 ⟨by rw [he]; rfl, .inr ((MicRec.turnDue_iff _).2 ⟨hopen, hcycles⟩)⟩
  refine ⟨?_, ?_, ?_, fun i hh hr => ?_⟩
  · rw [after .cal (by decide), steps.keeps .cal (by decide), bcal]
  · rw [floor, steps.queue.1, h.floor]
  · rw [floor, steps.openList, h.floor, bdue]
    refine List.filter_congr fun e _ => ?_
    rw [breached]
    cases hr : s.turnReached e.seat with
    | false => rw [Bool.and_false]
    | true => rw [decide_eq_true (due _ hr), Bool.and_true]
  · obtain ⟨state, gap, -⟩ := MicRec.of_latched (s.cycled_mics (.inl hn) i)
    rw [state, gap, ← bcfg]
    exact steps.closes i (by rw [bdue]; exact due i hr) ((State.holds_congr (by rw [h.floor]) i).trans hh)
      ((breached i).trans hr)

end Sys2Proof.Machine

namespace Sys2Proof.Machine

/-! ## The binding of a roster (02 R24) -/

/-- One slot of a roster binds its entry's position. -/
def bindSlot (recs : Vector SeatRec 64) (slot : Option RosterEntry) : Vector SeatRec 64 :=
  match slot with
  | none => recs
  | some e => modify recs e.position fun r => { r with participant := some ⟨e.name, e.key, e.role, e.limit⟩ }

/-- Every record is unbound. -/
def State.unbound (s : State) : Vector SeatRec 64 := mapAll s.seats.recs fun _ r => { r with participant := none }

theorem State.bindRoster_none (s : State) : (s.bindRoster none).seats.recs = s.unbound := rfl

theorem State.bindRoster_some (s : State) (n : Fin 8) :
    (s.bindRoster (some n)).seats.recs = s.cal.rosters[n].toList.foldl bindSlot s.unbound := rfl

theorem State.unbound_participant (s : State) (p : Pos) : s.unbound[p].participant = none := by
  rw [State.unbound, mapAll_get]

section Bind
variable {l : List (Option RosterEntry)} {p : Pos}

/-- Slots of other positions leave a record as it is. -/
theorem bindSlots_other (recs : Vector SeatRec 64) (h : ∀ x ∈ l, x.map (·.position) ≠ some p) :
    (l.foldl bindSlot recs)[p] = recs[p] := by
  induction l generalizing recs with
  | nil => rfl
  | cons x l ih =>
    rw [List.foldl_cons, ih _ fun y hy => h y (List.mem_cons_of_mem _ hy)]
    cases x with
    | none => rfl
    | some e =>
      have ne : p ≠ e.position := fun k => h (some e) List.mem_cons_self (by rw [k]; rfl)
      exact modify_get_ne recs ne _

/-- The one slot of a position binds it. -/
theorem bindSlots_one (recs : Vector SeatRec 64) {m : List (Option RosterEntry)} {e : RosterEntry} (he : e.position = p)
    (h : ∀ x ∈ m, x.map (·.position) ≠ some p) :
    ((l ++ some e :: m).foldl bindSlot recs)[p].participant = some ⟨e.name, e.key, e.role, e.limit⟩ := by
  subst he
  rw [List.foldl_append, List.foldl_cons, bindSlots_other _ h, bindSlot, modify_get_self]

end Bind

section BindRoster
variable (s : State) (p : Pos)

theorem State.bindRoster_unbound : ((s.bindRoster none).seats.recs[p]).participant = none := by
  rw [s.bindRoster_none, s.unbound_participant]

theorem State.bindRoster_absent (r : Fin 8)
    (h : ∀ slot : Fin 64, ((s.cal.rosters[r])[slot]).map (·.position) ≠ some p) :
    ((s.bindRoster (some r)).seats.recs[p]).participant = none := by
  rw [s.bindRoster_some, bindSlots_other, s.unbound_participant]
  intro x hx
  obtain ⟨i, hi, rfl⟩ := List.getElem_of_mem hx
  rw [Vector.getElem_toList]
  exact h ⟨i, by simpa using hi⟩

theorem State.bindRoster_bound {r : Fin 8} {slot : Fin 64} {e : RosterEntry} (hs : (s.cal.rosters[r])[slot] = some e)
    (he : e.position = p) (h : ∀ other : Fin 64, other ≠ slot → ((s.cal.rosters[r])[other]).map (·.position) ≠ some p) :
    ((s.bindRoster (some r)).seats.recs[p]).participant = some ⟨e.name, e.key, e.role, e.limit⟩ := by
  have size : s.cal.rosters[r].toList.length = 64 := Vector.length_toList
  have cut : s.cal.rosters[r].toList =
      s.cal.rosters[r].toList.take slot ++ some e :: s.cal.rosters[r].toList.drop (slot + 1) := by
    have at' : s.cal.rosters[r].toList[slot.val]'(by rw [size]; exact slot.2) = some e := by
      rw [Vector.getElem_toList]; exact hs
    rw [← at', List.getElem_cons_drop, List.take_append_drop]
  rw [s.bindRoster_some, cut]
  refine bindSlots_one _ he fun x hx => ?_
  obtain ⟨j, hj, rfl⟩ := List.getElem_of_mem hx
  rw [List.length_drop, size] at hj
  rw [List.getElem_drop, Vector.getElem_toList]
  refine h ⟨slot + 1 + j, by omega⟩ fun k => ?_
  have := congrArg Fin.val k
  simp only at this
  omega

end BindRoster

/-! ## An evaluation outside a session (03 R52–R54, R63) -/

section Idle
variable (s : State)

/-- What is past goes as MISSED. -/
def State.remaining (s : State) : List Booking :=
  s.cal.bookings.filter fun b => b.active || decide (s.clock.now.minute < b.start + b.duration)

theorem State.removeMissed_cal : s.removeMissed.cal = { s.cal with bookings := s.remaining } := by
  have left : s.cal.bookings.filter (fun b => !(!b.active && decide (b.finish ≤ s.clock.now.minute))) = s.remaining := by
    refine List.filter_congr fun b _ => ?_
    rw [Bool.not_and, Bool.not_not, Booking.finish, ← decide_not, decide_eq_decide.2 Nat.not_le]
  unfold State.removeMissed
  simp only
  split
  · next none =>
    have all : s.remaining = s.cal.bookings := by
      rw [← left, List.filter_eq_self]
      intro b hb
      have gone := List.filter_eq_nil_iff.1 (List.isEmpty_iff.1 none) b hb
      rw [Bool.not_eq_true] at gone
      rw [gone]
      rfl
    rw [all]
  · rw [State.notice_keeps _ _ _ .cal (by decide), ← left]

theorem State.removeMissed_rest : s.keeps s.removeMissed [.cal, .sending, .linkCounters] := by
  unfold State.removeMissed
  simp only
  split
  · exact s.keeps_refl _
  · refine State.keeps_trans (t := { s with cal := _ }) ?_ (State.keeps_mono (State.notice_keeps _ _ _) (by decide))
    intro q hq; cases q <;> simp_all [State.agrees]

/-- Where nothing is ACTIVE, everything in the table waits. -/
theorem waitingOf_all {bs : List Booking} (h : ∀ b ∈ bs, b.active = false) : waitingOf bs = bs :=
  List.filter_eq_self.2 fun b hb => by rw [h b hb]; rfl

variable (b : Booking) (rest : List Booking)

theorem State.startSession_bookings (hs : s.cal.bookings = b :: rest)
    (hn : ((b :: rest).map (·.number)).Nodup) : (s.startSession b).cal.bookings = { b with active := true } :: rest := by
  have others : rest.map (fun r : Booking => if r.number = b.number then { r with active := true } else r) = rest := by
    rw [List.map_cons, List.nodup_cons] at hn
    conv_rhs => rw [← List.map_id rest]
    refine List.map_congr_left fun r hr => if_neg fun k => hn.1 ?_
    exact k ▸ List.mem_map_of_mem hr
  have mapped : (s.startSession b).cal.bookings =
      s.cal.bookings.map fun r : Booking => if r.number = b.number then { r with active := true } else r := rfl
  rw [mapped, hs, List.map_cons, if_pos rfl, others]

/-- The records of a session that starts are bound, with their marks and accumulations cleared. -/
theorem State.startSession_recs (p : Pos) : (s.startSession b).seats.recs[p] =
    ((({ s with seats := { s.seats with chair := b.chair } } : State).bindRoster b.roster).seats.recs[p]).clearMarks := by
  have recs : (s.startSession b).seats.recs = mapAll
      (({ s with seats := { s.seats with chair := b.chair } } : State).bindRoster b.roster).seats.recs
      fun _ r => r.clearMarks := rfl
  rw [recs, mapAll_get]

theorem SeatRec.clearMarks_participant (r : SeatRec) : r.clearMarks.participant = r.participant := rfl

/-- The next booking of a table with nothing ACTIVE starts its session. -/
theorem State.startSession_started (hs : s.cal.bookings = b :: rest) (ha : ∀ x ∈ b :: rest, x.active = false)
    (hn : ((b :: rest).map (·.number)).Nodup) : s.Started (s.startSession b) b rest := by
  have bookings := s.startSession_bookings b rest hs hn
  set u : State := { s with seats := { s.seats with chair := b.chair } } with hu
  have recs := s.startSession_recs b
  rw [← hu] at recs
  refine ⟨rfl, rfl, rfl, ?_, ?_, fun r => ?_, rfl, rfl, rfl, fun i => ?_, rfl, rfl, rfl, fun i => ?_, fun p => ?_, fun k p => ?_,
    fun r k p => ⟨fun h => ?_, fun slot e hslot he h => ?_⟩⟩
  · rw [State.activeBooking, bookings]
    rfl
  · rw [bookings]
    exact waitingOf_all fun x hx => ha x (List.mem_cons_of_mem _ hx)
  · have tally : (s.startSession b).cal.tally = Vector.replicate 8 0 := rfl
    rw [tally]
    exact Vector.getElem_replicate _
  · have blocked : (s.startSession b).floor.blocked = Vector.replicate 64 false := rfl
    rw [blocked]
    exact Vector.getElem_replicate _
  · have messages : (s.startSession b).disp.messages = Vector.replicate 64 none := rfl
    rw [messages]
    exact Vector.getElem_replicate _
  · rw [recs]
    exact ⟨rfl, rfl, rfl, rfl, rfl⟩
  · rw [recs, k, SeatRec.clearMarks_participant]
    exact u.bindRoster_unbound p
  · rw [recs, k, SeatRec.clearMarks_participant]
    exact u.bindRoster_absent p r h
  · rw [recs, k, SeatRec.clearMarks_participant]
    exact u.bindRoster_bound p hslot he h

end Idle

end Sys2Proof.Machine

namespace Sys2Proof.Machine

section Evaluate
variable {s : State}

/-- Of the state before, the start of a session is about the rosters alone. -/
theorem State.Started.from {u t : State} {b : Booking} {rest : List Booking} (h : u.Started t b rest)
    (hr : u.cal.rosters = s.cal.rosters) : s.Started t b rest := by
  unfold State.Started at h ⊢
  rw [← hr]
  exact h

/-- What the start of a session shows is in both states. -/
theorem State.Started.to {t u : State} {b : Booking} {rest : List Booking} (h : s.Started t b rest)
    (hcal : u.cal = t.cal) (hnow : u.clock.now = t.clock.now) (hseats : u.seats = t.seats) (hfloor : u.floor = t.floor)
    (hlimit : u.mic.speakLimit = t.mic.speakLimit) (haction : u.mic.limitAction = t.mic.limitAction)
    (hsend : u.mix.roomSend = t.mix.roomSend) (hmessages : u.disp.messages = t.disp.messages) : s.Started u b rest := by
  unfold State.Started State.activeBooking at h ⊢
  simp only [hcal, hnow, hseats, hfloor, hlimit, haction, hsend, hmessages]
  exact h

/-- The next booking starts when its start has come. -/
theorem State.testNext_starts {b : Booking} (hb : s.nextBooking = some b) (h : b.start ≤ s.clock.now.minute) :
    s.testNext = s.startSession b := by
  simp only [State.testNext, hb, h, if_true]

/-- Before that it arms the table, or leaves it VACANT. -/
theorem State.testNext_waits {b : Booking} (hb : s.nextBooking = some b) (h : s.clock.now.minute < b.start) :
    s.testNext = { s with cal := { s.cal with
      session := if b.start ≤ s.clock.now.minute + s.cfg.lead then .armed else .vacant } } := by
  have before : ¬ b.start ≤ s.clock.now.minute := by omega
  simp only [State.testNext, hb, before, if_false]
  split <;> rfl

theorem State.testNext_none (hb : s.nextBooking = none) :
    s.testNext = { s with cal := { s.cal with session := .vacant } } := by
  simp only [State.testNext, hb]

/-- An evaluation outside a session with the clock set, of a table with nothing ACTIVE. -/
theorem State.evaluateIdle_evaluated (hsync : s.clock.sync ≠ .unsynced) (ha : ∀ b ∈ s.cal.bookings, b.active = false)
    (hn : (s.cal.bookings.map (·.number)).Nodup) : s.EvaluatedIdle s.evaluateIdle := by
  have clock : s.evaluateIdle.clock = s.clock := s.evaluateIdle_keeps .clock (by decide)
  have cfg : s.evaluateIdle.cfg = s.cfg := s.evaluateIdle_keeps .cfg (by decide)
  have sub : s.remaining.Sublist s.cal.bookings := List.filter_sublist
  have idle : ∀ b ∈ s.remaining, b.active = false := fun b hb => ha b (sub.subset hb)
  have unique : (s.remaining.map (·.number)).Nodup := hn.sublist (sub.map _)
  set v := s.removeMissed with hv
  have vrest : s.keeps v [.cal, .sending, .linkCounters] := s.removeMissed_rest
  have vcal : v.cal = { s.cal with bookings := s.remaining } := s.removeMissed_cal
  have vclock : v.clock = s.clock := vrest .clock (by decide)
  have vcfg : v.cfg = s.cfg := vrest .cfg (by decide)
  have next : v.nextBooking = s.remaining.head? := by
    rw [State.nextBooking, vcal, waitingOf_all idle]
  have e : s.evaluateIdle = v.testNext := by rw [State.evaluateIdle, if_neg hsync]
  unfold State.EvaluatedIdle
  rw [clock, cfg]
  refine ⟨s.evaluateIdle_rests.openList, s.evaluateIdle_rests.queue, ?_⟩
  have left : (s.cal.bookings.filter fun b => b.active || decide (s.clock.now.minute < b.start + b.duration)) = s.remaining := rfl
  simp only [left, waitingOf_all idle]
  cases hr : s.remaining with
  | nil =>
    rw [e, State.testNext_none (by rw [next, hr]; rfl)]
    exact ⟨rfl, by rw [vcal, hr], vrest .seats (by decide), congrArg Floor.mode (vrest .floor (by decide))⟩
  | cons b rest =>
    have head : v.nextBooking = some b := by rw [next, hr]; rfl
    rw [hr] at idle unique
    refine ⟨fun h => ?_, fun h => ?_⟩
    · rw [e, State.testNext_starts head (by rw [vclock]; exact h)]
      exact (v.startSession_started b rest (by rw [vcal, hr]) idle unique).from (by rw [vcal])
    · rw [e, State.testNext_waits head (by rw [vclock]; exact h), vclock, vcfg]
      exact ⟨rfl, by rw [vcal, hr], vrest .seats (by decide), congrArg Floor.mode (vrest .floor (by decide))⟩

/-- An evaluation of another state with the same calendar, seats and floor. -/
theorem State.EvaluatedIdle.from {u t : State} (h : u.EvaluatedIdle t) (hcal : u.cal = s.cal) (hseats : u.seats = s.seats)
    (hopen : u.floor.openList = s.floor.openList) (hqueue : u.floor.queue = s.floor.queue) (hmode : u.floor.mode = s.floor.mode) :
    s.EvaluatedIdle t := by
  unfold State.EvaluatedIdle State.Started at h ⊢
  rw [← hcal, ← hseats, ← hopen, ← hqueue, ← hmode]
  exact h

/-- What an evaluation shows is in both states. -/
theorem State.EvaluatedIdle.to {t u : State} (h : s.EvaluatedIdle t)
    (hcal : u.cal = t.cal) (hnow : u.clock.now = t.clock.now) (hseats : u.seats = t.seats) (hfloor : u.floor = t.floor)
    (hlimit : u.mic.speakLimit = t.mic.speakLimit) (haction : u.mic.limitAction = t.mic.limitAction)
    (hsend : u.mix.roomSend = t.mix.roomSend) (hmessages : u.disp.messages = t.disp.messages) (hcfg : u.cfg = t.cfg) :
    s.EvaluatedIdle u := by
  unfold State.EvaluatedIdle at h ⊢
  simp only [hcal, hnow, hseats, hfloor, hcfg]
  obtain ⟨hopen, hqueue, h⟩ := h
  refine ⟨hopen, hqueue, ?_⟩
  split at h
  · exact h
  · exact ⟨fun k => (h.1 k).to hcal hnow hseats hfloor hlimit haction hsend hmessages, h.2⟩

end Evaluate

end Sys2Proof.Machine

namespace Sys2Proof.Machine

/-! ## The end of a tenth (03 R43, R52) -/

section Tenth
variable (s : State)

/-- The clock has advanced one tenth, and no evaluation has been made. -/
def State.advanced : State :=
  { s.holdRoll s.clock.now.next with clock := { s.clock with now := s.clock.now.next, cycles := 0, age := satAdd s.clock.age 1 } }

theorem State.advanceClock_eq : s.advanceClock =
    if s.clock.now.next.minute ≠ s.clock.now.minute then s.advanced.evaluate else s.advanced := rfl

theorem State.advanced_keeps : s.keeps s.advanced [.clock, .cal] := by
  unfold State.advanced State.holdRoll
  intro q hq
  split <;> cases q <;> simp_all [State.agrees]

/-- A step is held pending in CLOSING alone, and only where the minute rolls to 0. -/
theorem State.advanced_cal (h : s.cal.session ≠ .closing ∨ s.clock.now.next.minute = s.clock.now.minute) :
    s.advanced.cal = s.cal := by
  unfold State.advanced State.holdRoll
  rw [if_neg fun k => h.elim (fun x => x k.2) fun x => by omega]

theorem State.advanceClock_clock : s.advanceClock.clock =
    { s.clock with now := s.clock.now.next, cycles := 0, age := satAdd s.clock.age 1 } := by
  rw [s.advanceClock_eq]
  split
  · exact s.advanced.evaluate_keeps .clock (by decide)
  · rfl

theorem State.clockBoundary_tenth (h : 199 ≤ s.clock.cycles) (he : Early.tenth ∉ s.early) :
    s.clockBoundary = { s.advanceClock with clock := s.advanceClock.clock.holdover } := by
  rw [State.clockBoundary, if_neg (by simpa using he), if_pos h]

/-- One tenth later. -/
theorem RoomTime.next_count {t : RoomTime} (hm : t.minute < minutes) (hs : t.second ≤ 59) (ht : t.tenth ≤ 9) :
    t.next.minute * 600 + t.next.second * 10 + t.next.tenth =
      (t.minute * 600 + t.second * 10 + t.tenth + 1) % (4294967296 * 600) ∧ t.next.second < 60 ∧ t.next.tenth < 10 := by
  unfold minutes at hm
  unfold RoomTime.next minutes
  split
  · exact ⟨by simp only; omega, by simp only; omega, by simp only; omega⟩
  · split
    · exact ⟨by simp only; omega, by simp only; omega, by simp only; omega⟩
    · exact ⟨by simp only; omega, by simp only; omega, by simp only; omega⟩

end Tenth

/-! ## The test of a session's end (03 R55) -/

section TestEnd
variable {s : State} {b : Booking}

/-- The ACTIVE record is never MISSED. -/
theorem State.removeMissed_active : s.removeMissed.activeBooking = s.activeBooking := by
  rw [State.activeBooking, s.removeMissed_cal, State.activeBooking]
  refine List.find?_filter.trans ?_
  congr 1
  funext b
  cases b.active <;> simp

theorem State.evaluate_inSession (hs : s.cal.session = .inSession) (hy : s.clock.sync ≠ .unsynced) :
    s.evaluate = s.removeMissed.testEnd := by
  simp only [State.evaluate, hs, hy, if_false]

theorem State.evaluate_idle (hs : s.cal.session = .vacant ∨ s.cal.session = .armed) : s.evaluate = s.evaluateIdle := by
  rcases hs with hs | hs <;> simp only [State.evaluate, hs]

theorem State.testEnd_before (hs : s.cal.session = .inSession) (hb : s.activeBooking = some b)
    (h : s.clock.now.minute < b.finish) : s.testEnd = s := by
  have before : ¬ b.finish ≤ s.clock.now.minute := Nat.not_le.2 h
  simp only [State.testEnd, hb, hs, before, if_false]

theorem State.testEnd_closes (hs : s.cal.session = .inSession) (hb : s.activeBooking = some b)
    (h : b.finish ≤ s.clock.now.minute) (hg : b.grace = 0 ∨ s.floor.openList = []) :
    s.testEnd = s.startClosing .endTime := by
  have no : ¬ (0 < b.grace ∧ s.clock.now.minute < s.graceEndOf b ∧ s.floor.openList ≠ []) := fun ⟨k, _, k'⟩ =>
    hg.elim (fun x => by omega) fun x => k' x
  simp only [State.testEnd, hb, hs, h, if_true, no, if_false]

/-- CLOSING begins, and may complete: the open list is empty and the report says why. -/
theorem State.startClosing_told (cause : EndCause) : (s.startClosing cause).floor.openList = [] ∧
    (s.startClosing cause).cal.lastReport.map (·.cause) = some cause := by
  have rests := (s.closingBegun cause).reportClosed_rests
  obtain ⟨r, cal, hr, -⟩ := s.closingBegun_cal cause
  rw [s.startClosing_eq, rests.openList, rests.report, cal]
  exact ⟨(s.closingBegun_floor cause).1, congrArg some hr⟩

end TestEnd

/-! ## A quiet cycle that ends a tenth, with every microphone CLOSED -/

section Minute
variable {s : State}

theorem State.micBoundary_closed (h : ∀ i, (s.micOf i).state = .closed) : s.micBoundary = s.ticked := by
  have none : s.micDue = [] := List.eq_nil_iff_forall_not_mem.2 fun i k => by
    obtain ⟨-, hd⟩ := (s.mem_micDue i).1 k
    rw [MicRec.gapDue_iff, MicRec.turnDue_iff, h] at hd
    simp at hd
  rw [State.micBoundary_eq, none]
  rfl

/-- The clock's step is all that matters of such a boundary. -/
theorem State.quiet.atClock (h : s.quiet) (hm : ∀ i, (s.micOf i).state = .closed) :
    s.keeps s.atClock [.floor, .wings, .tables, .mic, .messages, .screens, .sending] ∧
    s.atClock.floor = { s.floor with seen := s.atClock.floor.seen } := by
  have bmic : s.atBoundary.mic = s.mic := h.atBoundary .mic (by decide)
  have ticked := State.micBoundary_closed (s := s.atBoundary) fun i => by rw [State.micOf_congr bmic]; exact hm i
  have mics : s.atBoundary.keeps s.atBoundary.micBoundary [.mic] := by
    rw [ticked]
    exact State.ticked_keeps _
  have steps : s.atBoundary.keeps s.atClock [.mic, .messages, .screens, .sending] :=
    State.keeps_trans (State.keeps_mono mics (by decide)) (State.keeps_trans
      (State.keeps_mono (State.messageBoundary_keeps _) (by decide)) (State.keeps_mono (State.screenBoundary_keeps _ _) (by decide)))
  refine ⟨State.keeps_trans (State.keeps_mono h.atBoundary (by decide)) (State.keeps_mono steps (by decide)), ?_⟩
  rw [steps .floor (by decide)]
  exact h.floor

/-- What follows the clock's step. -/
theorem State.cycled_from_clock (s : State) : s.atClock.clockBoundary.keeps s.cycled [.mgmt, .sending, .wings, .pos, .mic,
    .mixCycle, .audioReturn, .linkCounters, .delivery, .out, .outCounter, .early, .screens] :=
  State.keeps_trans (State.keeps_mono (State.staggerBoundary_keeps _) (by decide)) (State.keeps_trans
    (State.keeps_mono (State.beginCycle_rest _ s) (by decide)) (State.keeps_mono s.cycled_after (by decide)))

theorem MixBlock.roomSend_of_clips {m n : MixBlock} {o : Vector Nat 64} {c : Nat}
    (h : n = { m with outClips := o, sendClips := c }) : n.roomSend = m.roomSend := by
  subst h; rfl

theorem State.beginCycle_session (s before : State) : (s.beginCycle before).mic.speakLimit = s.mic.speakLimit ∧
    (s.beginCycle before).mic.limitAction = s.mic.limitAction ∧
    (s.beginCycle before).mix.roomSend = s.mix.roomSend := by
  set v := (s.setWing .a WingPort.beginCycle).setWing .b WingPort.beginCycle with hv
  have mic : v.mic = s.mic := s.beginWings_keeps .mic (by decide)
  obtain ⟨limit, action⟩ := v.latchFacts_limits
  rw [s.beginCycle_mic before, ← hv, limit, action, mic]
  refine ⟨rfl, rfl, ?_⟩
  have given : s.cycleGiven = v.latchFacts.giveReturn := rfl
  have mix : (s.beginCycle before).mix = { s.cycleGiven.mix with
      outClips := (s.beginCycle before).mix.outClips, sendClips := (s.beginCycle before).mix.sendClips } := rfl
  have send : (s.beginCycle before).mix.roomSend = s.cycleGiven.mix.roomSend := MixBlock.roomSend_of_clips mix
  have latched : v.latchFacts.mix.roomSend = s.mix.roomSend := rfl
  rw [send, given]
  rcases v.latchFacts.giveReturn_cases with ⟨-, hm, -⟩ | ⟨b, rest, -, hm, -⟩
  · rw [hm]; exact latched
  · rw [hm]; exact latched

/-- The session's limits and its room send stand from the clock's step on. -/
theorem State.cycled_session (s : State) : s.cycled.mic.speakLimit = s.atClock.clockBoundary.mic.speakLimit ∧
    s.cycled.mic.limitAction = s.atClock.clockBoundary.mic.limitAction ∧
    s.cycled.mix.roomSend = s.atClock.clockBoundary.mix.roomSend := by
  have mic : s.cycled.mic = s.cycleBegun.mic := s.cycled_after .mic (by decide)
  have mixes : s.cycleBegun.agrees s.cycled .mixCycle := s.cycled_after .mixCycle (by decide)
  have mix : s.cycled.mix.roomSend = s.cycleBegun.mix.roomSend := mixes.2.2.1
  have stagger := State.staggerBoundary_keeps s.atClock.clockBoundary
  rw [← s.boundary_eq] at stagger
  have bmic : s.endCycle.boundary.mic = s.atClock.clockBoundary.mic := stagger .mic (by decide)
  have bmixes : s.atClock.clockBoundary.agrees s.endCycle.boundary .mixCycle := stagger .mixCycle (by decide)
  have bmix : s.endCycle.boundary.mix.roomSend = s.atClock.clockBoundary.mix.roomSend := bmixes.2.2.1
  obtain ⟨limit, action, send⟩ := s.endCycle.boundary.beginCycle_session s
  rw [mic, mix, State.cycleBegun, limit, action, send, bmic, bmix]
  exact ⟨rfl, rfl, rfl⟩

end Minute

end Sys2Proof.Machine

namespace Sys2Proof.Machine

theorem State.keeps_of_clock {u v : State} {c : Clock} (h : v = { u with clock := c }) : u.keeps v [.clock] ∧ v.clock = c := by
  subst h
  refine ⟨fun q hq => ?_, rfl⟩
  cases q <;> simp_all [State.agrees]

section Minute
variable {s : State} (h : s.quiet) (hc : s.clock.cycles = 199) (he : s.early = [])
  (hm : ∀ i, (s.micOf i).state = .closed)
include h hc he hm

/-- Where the clock's step begins, and what it makes. -/
theorem State.quiet.atTenth : s.atClock.clock = s.clock ∧
    s.atClock.clockBoundary = { s.atClock.advanceClock with clock := s.atClock.advanceClock.clock.holdover } := by
  have start := (h.atClock hm).1
  have clock : s.atClock.clock = s.clock := start .clock (by decide)
  have early : s.atClock.early = s.early := start .early (by decide)
  exact ⟨clock, s.atClock.clockBoundary_tenth (by rw [clock, hc]) (by rw [early, he]; exact List.not_mem_nil)⟩

/-- The room clock after the tenth. -/
theorem State.quiet.cycled_tenth : s.cycled.clock.now = s.clock.now.next ∧ s.cycled.clock.cycles = 0 := by
  obtain ⟨clock, step⟩ := h.atTenth hc he hm
  rw [s.cycled_from_clock .clock (by decide), step]
  obtain ⟨now, cycles⟩ := Clock.holdover_rest s.atClock.advanceClock.clock
  refine ⟨now.trans ?_, cycles.trans ?_⟩ <;> rw [State.advanceClock_clock]
  rw [clock]

/-- The calendar, the seats and the floor after the tenth. -/
theorem State.quiet.cycled_advanced : s.cycled.cal = s.atClock.advanceClock.cal ∧
    s.cycled.seats = s.atClock.advanceClock.seats ∧ s.cycled.floor = s.atClock.advanceClock.floor := by
  obtain ⟨-, step⟩ := h.atTenth hc he hm
  have after := s.cycled_from_clock
  have moved := (State.keeps_of_clock step).1
  rw [after .cal (by decide), after .seats (by decide), after .floor (by decide), moved .cal (by decide),
    moved .seats (by decide), moved .floor (by decide)]
  exact ⟨rfl, rfl, rfl⟩

/-- Within the minute the calendar stays as it was. -/
theorem State.quiet.cycled_sameMinute (hn : s.cycled.clock.now.minute = s.clock.now.minute) : s.cycled.cal = s.cal := by
  obtain ⟨now, -⟩ := h.cycled_tenth hc he hm
  obtain ⟨clock, -⟩ := h.atTenth hc he hm
  have same : s.atClock.clock.now.next.minute = s.atClock.clock.now.minute := by rw [clock, ← now]; exact hn
  rw [(h.cycled_advanced hc he hm).1, State.advanceClock_eq, if_neg (not_not.2 same), State.advanced_cal _ (.inr same)]
  exact (h.atClock hm).1 .cal (by decide)

variable (hn : s.cycled.clock.now.minute ≠ s.clock.now.minute)
include hn

/-- With a new minute an evaluation follows. -/
theorem State.quiet.atMinute : s.atClock.advanceClock = s.atClock.advanced.evaluate := by
  obtain ⟨now, -⟩ := h.cycled_tenth hc he hm
  obtain ⟨clock, -⟩ := h.atTenth hc he hm
  rw [State.advanceClock_eq, if_pos]
  rw [clock, ← now]
  exact hn

omit hn in
/-- The state that is evaluated: its clock has advanced. -/
theorem State.quiet.advanced (hs : s.cal.session ≠ .closing) : s.atClock.advanced.cal = s.cal ∧
    s.atClock.advanced.seats = s.seats ∧ s.atClock.advanced.floor = { s.floor with seen := s.atClock.floor.seen } ∧
    s.atClock.advanced.clock.sync = s.clock.sync ∧ s.atClock.advanced.clock.now = s.cycled.clock.now := by
  obtain ⟨now, -⟩ := h.cycled_tenth hc he hm
  obtain ⟨clock, -⟩ := h.atTenth hc he hm
  obtain ⟨start, floor⟩ := h.atClock hm
  have cal : s.atClock.cal = s.cal := start .cal (by decide)
  have adv := s.atClock.advanced_keeps
  have advClock : s.atClock.advanced.clock =
      { s.atClock.clock with now := s.atClock.clock.now.next, cycles := 0, age := satAdd s.atClock.clock.age 1 } := rfl
  refine ⟨(s.atClock.advanced_cal (.inl (by rw [cal]; exact hs))).trans cal,
    (adv .seats (by decide)).trans (start .seats (by decide)), (adv .floor (by decide)).trans floor, ?_, ?_⟩ <;>
    rw [advClock, clock]
  exact now.symm

/-- Outside a session the calendar moves as in any evaluation. -/
theorem State.quiet.cycled_idle (ht : s.TableOk) (hy : s.clock.sync ≠ .unsynced)
    (hs : s.cal.session = .vacant ∨ s.cal.session = .armed) : s.EvaluatedIdle s.cycled := by
  obtain ⟨⟨-, unique, -⟩, active, -⟩ := ht
  obtain ⟨cal, seats, floor, sync, now⟩ := h.advanced hc he hm (by rcases hs with k | k <;> rw [k] <;> decide)
  obtain ⟨-, step⟩ := h.atTenth hc he hm
  have idle : ∀ b ∈ s.cal.bookings, b.active = false := fun b hb => by
    cases hb' : b.active with
    | false => rfl
    | true =>
      have : s.cal.session.isActive = true := active.2 ⟨b, hb, hb'⟩
      rcases hs with k | k <;> rw [k] at this <;> cases this
  have evaluated : s.atClock.advanceClock = s.atClock.advanced.evaluateIdle := by
    rw [h.atMinute hc he hm hn, State.evaluate_idle (by rw [cal]; exact hs)]
  have result := State.evaluateIdle_evaluated (s := s.atClock.advanced) (by rw [sync]; exact hy) (by rw [cal]; exact idle)
    (by rw [cal]; exact unique)
  rw [← evaluated] at result
  obtain ⟨tcal, tseats, tfloor⟩ := h.cycled_advanced hc he hm
  obtain ⟨limit, action, send⟩ := s.cycled_session
  have after := s.cycled_from_clock
  obtain ⟨moved, clock⟩ := State.keeps_of_clock step
  have mic : s.atClock.clockBoundary.mic = s.atClock.advanceClock.mic := moved .mic (by decide)
  have mix : s.atClock.advanceClock.agrees s.atClock.clockBoundary .mixCycle := moved .mixCycle (by decide)
  have messages : s.cycled.disp.messages = s.atClock.clockBoundary.disp.messages := after .messages (by decide)
  have cfg : s.cycled.cfg = s.atClock.clockBoundary.cfg := after .cfg (by decide)
  refine (result.from cal seats (by rw [floor]) (by rw [floor]) (by rw [floor])).to tcal ?_ tseats tfloor
    (limit.trans (by rw [mic])) (action.trans (by rw [mic])) (send.trans mix.2.2.1)
    (messages.trans (moved .messages (by decide))) (cfg.trans (moved .cfg (by decide)))
  rw [after .clock (by decide), clock, (Clock.holdover_rest _).1]

/-- In session the end is tested. -/
theorem State.quiet.cycled_inSession {b : Booking} (hb : s.activeBooking = some b) (hy : s.clock.sync ≠ .unsynced)
    (hs : s.cal.session = .inSession) :
    (s.cycled.clock.now.minute < b.start + b.duration → s.cycled.cal.session = .inSession) ∧
    (b.start + b.duration ≤ s.cycled.clock.now.minute → b.grace = 0 ∨ s.floor.openList = [] →
      s.cycled.floor.openList = [] ∧ (s.cycled.cal.lastReport.map (·.cause)) = some .endTime) := by
  obtain ⟨cal, -, floor, sync, now⟩ := h.advanced hc he hm (by rw [hs]; decide)
  obtain ⟨tcal, -, tfloor⟩ := h.cycled_advanced hc he hm
  set u := s.atClock.advanced with hu
  have evaluated : s.atClock.advanceClock = u.removeMissed.testEnd := by
    rw [h.atMinute hc he hm hn, State.evaluate_inSession (by rw [cal]; exact hs) (by rw [sync]; exact hy)]
  have session : u.removeMissed.cal.session = .inSession := by rw [u.removeMissed_session, cal]; exact hs
  have active : u.removeMissed.activeBooking = some b := by
    rw [State.removeMissed_active, State.activeBooking, cal]
    exact hb
  have clock : u.removeMissed.clock = u.clock := u.removeMissed_rest .clock (by decide)
  have lists : u.removeMissed.floor = u.floor := u.removeMissed_rest .floor (by decide)
  rw [tcal, tfloor, evaluated, ← now]
  refine ⟨fun k => ?_, fun k hg => ?_⟩
  · rw [State.testEnd_before session active (by rw [clock]; exact k), session]
  · rw [State.testEnd_closes session active (by rw [clock]; exact k) (by rw [lists, floor]; exact hg)]
    exact State.startClosing_told .endTime

end Minute

end Sys2Proof.Machine

namespace Sys2Proof.Machine

/-- The engine in a quiet cycle under WARN. -/
theorem State.quiet.cycled_mgmt {s : State} (h : s.quiet) (hw : s.mic.limitAction = .warn) (hc : s.cal.session ≠ .closing)
    (hn : s.clock.cycles < 199) (he : s.early = []) : (s.mgmt.engine ≠ .stagger → s.cycled.mgmt = s.mgmt) ∧
    (s.mgmt.engine = .stagger → 2 ≤ s.mgmt.stagger →
      s.cycled.mgmt = { s.mgmt with stagger := s.mgmt.stagger - 1 }) ∧
    (∀ f, s.mgmt.reply = some f → s.mgmt.engine = .stagger → s.mgmt.stagger ≤ 1 → s.cycled.mgmt.stagger = 0 ∧
      (s.link.queue.length < 4 → (∀ i, s.limitOf i = none) → f ∈ s.cycled.link.queue ∧
        s.cycled.mgmt.requests = s.mgmt.requests.tail)) := by
  obtain ⟨step, mgmt, early, length⟩ := h.atStagger hw hc hn he
  obtain ⟨moved, -⟩ := State.keeps_of_clock step
  have vmgmt : s.atClock.clockBoundary.mgmt = s.mgmt := (moved .mgmt (by decide)).trans mgmt
  have vearly : s.atClock.clockBoundary.early = [] := (moved .early (by decide)).trans early
  have vqueue : s.atClock.clockBoundary.link.queue = s.atClock.link.queue := (moved .sending (by decide)).1
  have queue : s.endCycle.boundary.link.queue <+: s.cycled.link.queue := by
    have begun : s.cycleBegun.link.queue = s.endCycle.boundary.link.queue := by
      rw [State.cycleBegun, State.beginCycle_queue]
    rw [s.cycled_eq, ← begun]
    exact s.cycleBegun.refreshScreens_queue.trans (State.ended_queue _)
  rw [s.boundary_eq] at queue
  rw [s.cycled_mgmt, ← vmgmt]
  refine ⟨State.staggerBoundary_off, State.staggerBoundary_runs vearly, fun f hf hs hl => ?_⟩
  obtain ⟨zero, room⟩ := State.staggerBoundary_ends vearly hs hl hf
  refine ⟨zero, fun hq hlimit => ?_⟩
  have := length hlimit
  obtain ⟨sent, tail⟩ := room (by rw [vqueue]; omega)
  exact ⟨queue.subset (by rw [sent]; exact List.mem_append_right _ List.mem_cons_self), tail⟩

/-- The scan, the state and the pass of a wing in a quiet cycle. -/
theorem State.quiet.cycled_scan {s : State} (h : s.quiet) (w : Wing) :
    (s.cycled.wing w).scanPos = (s.wing w).moveScan.scanPos ∧ (s.cycled.wing w).state = (s.wing w).state ∧
    ((s.wing w).state ≠ .enumerating → (s.cycled.wing w).command = .normal) ∧
    ((s.wing w).state = .enumerating → (s.wing w).passCycle = 0 →
      (s.cycled.wing w).passCycle = 1 ∧ (s.cycled.wing w).command = .assign) ∧
    ((s.wing w).state = .enumerating → 1 ≤ (s.wing w).passCycle → (s.wing w).passCycle ≤ 3 →
      (s.cycled.wing w).passCycle = (s.wing w).passCycle + 1 ∧ (s.cycled.wing w).command = .identify) := by
  obtain ⟨scan, state⟩ := ((s.wing w).moveScan).beginCycle_rest
  have commands := ((s.wing w).moveScan).beginCycle_command
  rw [h.cycled_wing, scan, state]
  rw [(s.wing w).moveScan_rest] at commands ⊢
  exact ⟨rfl, rfl, commands⟩

/-- Settles O22: a cycle takes the slots, the steps of the boundary and the slots it sends in turn; each clause is a rule of
one of these steps, carried to the end of the cycle by what the later steps keep. -/
theorem theChainCycleSendsEverySlot : Obligations.TheChainCycleSendsEverySlot := by
  unfold Obligations.TheChainCycleSendsEverySlot
  refine ⟨fun s hp hr => ?_, fun s h hw hc hn => ?_, fun s h _ ha hs hq hn he => ?_, fun s h hw hc hn he => ?_,
    fun s h hclock ht hc he hm hy => ?_, fun s w hp hr hm hs hstate hcycle hcommand => ?_,
    fun s p hp hr hm ha hb hw hn hs hl _ => ?_⟩
  · obtain ⟨sent, absent, fed, halted⟩ := s.cycled_sends
    obtain ⟨mlive, mtables, mdue, mchair, mreturn, mbuffer⟩ := s.cycled_mix
    obtain ⟨now, nowEarly⟩ := s.cycled_now
    obtain ⟨station, groups⟩ := s.cycled_addresses
    refine ⟨s.cycled, exec_chainCycle_next hp hr, sent, absent, fed, halted, fun p => ?_,
      fun ha hb p => s.cycled_settles ha hb p, fun i => MicRec.latched_open (s.cycled_micOf i), mlive, fun hd m hm => ?_,
      fun hd => ?_, mdue.trans (MixBlock.transfer_due _), mchair, mreturn, mbuffer, now, nowEarly, s.cycled_early,
      s.cycled_keeps .cfg (by decide), s.cycled_store, s.cycled_keeps .templates (by decide),
      s.cycled_keeps .staged (by decide), station, groups⟩
    · rw [s.cycled_pos]
      exact ⟨rfl, rfl, rfl, rfl⟩
    · rw [mtables, MixBlock.transfer_live_due hd hm]
    · rw [mtables, MixBlock.transfer_live_off hd]
  · obtain ⟨cal, floor, -⟩ := h.cycled_warn hw hc hn
    exact ⟨s.cycled, exec_chainCycle_next h.1 h.2.1, cal, floor, h.cycled_mic hw hc hn⟩
  · intro reached
    have same : ∀ i, reached i = s.turnReached i := fun i =>
      Bool.eq_iff_iff.2 (decide_eq_true_iff.trans (s.turnReached_iff i).symm)
    obtain ⟨cal, queue, openList, closes⟩ := h.cycled_auto ha hs hq hn he
    refine ⟨s.cycled, exec_chainCycle_next h.1 h.2.1, cal, queue, ?_, fun i hh k => closes i hh ((same i).symm.trans k)⟩
    rw [openList]
    exact List.filter_congr fun e _ => by rw [same]
  · obtain ⟨off, runs, ends⟩ := h.cycled_mgmt hw hc hn he
    refine ⟨s.cycled, exec_chainCycle_next h.1 h.2.1, fun i => ?_, fun e => ⟨h.cycled_window hw hc (.inl hn) he,
      fun a haddr h1 hnot => ⟨h.cycled_sends hw hc (.inl hn) he haddr h1 hnot, h.cycled_rests hw hc (.inl hn) he haddr h1 hnot⟩⟩,
      fun w => ?_, h.cycled_sync hw hc hn he, off, runs, ends⟩
    · rw [h.cycled_messages hw hc hn he]
      exact ⟨fun k => by rw [k]; rfl, fun m k => ⟨fun hk => by rw [k]; exact Message.tick_runs hk,
        fun hk => by rw [k]; exact Message.tick_steps hk⟩⟩
    · obtain ⟨scan, rest⟩ := h.cycled_scan w
      exact ⟨scan.trans (WingPort.moveScan_scanPos _), rest⟩
  · obtain ⟨now, cycles⟩ := h.cycled_tenth hc he hm
    obtain ⟨hminute, hsecond, htenth, -⟩ := hclock
    obtain ⟨count, second, tenth⟩ := RoomTime.next_count hminute hsecond htenth
    exact ⟨s.cycled, exec_chainCycle_next h.1 h.2.1, by rw [now]; exact count, by rw [now]; exact second,
      by rw [now]; exact tenth, cycles, h.cycled_sameMinute hc he hm, fun hn hs => h.cycled_idle hc he hm hn ht hy hs,
      fun b hb hn hs => h.cycled_inSession hc he hm hn hb hy hs⟩
  · have ends : (s.wing w).passEnds = true := by rw [WingPort.passEnds, hstate, hcycle]; rfl
    obtain ⟨wing, pos⟩ := s.cycled_passEnds w hm hs ends hcommand
    refine ⟨s.cycled, exec_chainCycle_next hp hr, ?_⟩
    rw [wing]
    refine ⟨rfl, rfl, rfl, rfl, rfl, fun i => ?_⟩
    rw [(pos i).1, (pos i).2, PosRec.afterPass_presence, PosRec.afterPass_serial]
    exact ⟨rfl, fun serial k => by rw [k]⟩
  · exact ⟨s.cycled, exec_chainCycle_next hp hr, fun _ _ hans hown => State.cycled_card ha hb hs hl hans hown,
      fun _ _ hans hother => State.cycled_foreign ha hb hs hl hans hother,
      fun hans hev hh hses => State.cycled_noSession hm ha hb hw hn hs hl hans hev hh hses⟩

end Sys2Proof.Machine

namespace Sys2Proof.Machine

/-! ## An operation that reaches its owner, and what its end leaves -/

/-- The end of an operation: its status joins the reply, the request may end, and the head of the queue begins to be sent. -/
def State.opEnd (op : Op) (r : OpResult) : State := (State.finishOp op r).startSending

section OpEnd
variable {s v : State} {i : Instr} {op : Op} {owner : State → OpResult}

/-- What follows an operation's own effect touches the engine, the reply, the screens and an auto-commit alone. -/
theorem State.opEnd_keeps (op : Op) (r : OpResult) : r.state.keeps (State.opEnd op r) opPieces :=
  State.keeps_trans (State.finishOp_keeps op r) (State.keeps_mono (State.startSending_keeps _) (by decide))

/-- A management command that reaches its owner ends as the operation of what its owner did. -/
theorem State.reaches_next (hr : s.reaches i = true) (hop : i.op = some op) (hx : exec i s = s.runOp op owner) :
    s.atOp op = true ∧ exec i s = .next (State.opEnd op (owner s)) := by
  obtain ⟨_, h, hop', hh, hat, hc⟩ := State.reaches_iff.1 hr
  obtain rfl := Option.some.inj (hop.symm.trans hop')
  exact ⟨hat, hx.trans (State.runOp_owner owner hat hh hc)⟩

/-- An owner that turned the operation away. -/
theorem State.opEnd_fails {r : OpResult} {st : Status} (hop : s.atOp op = true) (ho : r = fail s st) (hs : st.success = false) :
    s.fails (State.opEnd op r) st := ho ▸ State.finishOp_fails hop hs

/-- What an owner leaves that touches the engine at most in the mark that a value was staged. -/
theorem State.owned_done {c : Bool} {h : Hand} {staged : Bool} (hop : s.atOp op = true)
    (hm : v.mgmt = { s.mgmt with hand := some { h with staged := staged } }) (hq : s.Sends v) : s.Owned h (done v c) := by
  have hr := (State.atOp_iff.1 hop).2.2.1
  exact ⟨⟨staged, by simp [done, hm]⟩, by simp [done, hm], by simp [done, hm], hr, by simp [done, hm, hr], hq, rfl⟩

theorem okOr_success (c : Bool) : (okOr c).success = true := by cases c <;> rfl

/-- An owner that took the operation, and touched neither the engine nor the mix tables. -/
theorem State.opEnd_answered {r : OpResult} {c : Bool} {l : List Piece} (hop : s.atOp op = true) (ho : r = done v c)
    (hread : op.isRead = false) (hk : s.keeps v l) (hm : .mgmt ∉ l) (ht : .tables ∉ l) (hq : s.Sends v) :
    s.answered (State.opEnd op r) (okOr c) := by
  subst ho
  obtain ⟨_, _, _, h, hh, _⟩ := State.atOp_iff.1 hop
  have hmgmt : v.mgmt = s.mgmt := hk .mgmt hm
  have owned : s.Owned h (done v c) := State.owned_done (staged := h.staged) hop (by rw [hmgmt, ← hh]) hq
  have answers := State.finishOp_answers owned hh hop (okOr_success c) fun _ => ⟨hk .tables ht, by rw [← hh, ← hmgmt]; rfl⟩
  have own : (done v c).own op = [] := by simp [OpResult.own, done, hread]
  rw [own] at answers
  exact answers

end OpEnd

/-- A reply stands behind what the transmit queue holds. -/
theorem State.reply_queue (s : State) (payload : List Byte) : s.link.queue <+: (s.reply payload).link.queue := by
  unfold State.reply
  simp only
  split
  · exact List.prefix_refl _
  · split
    · exact List.prefix_refl _
    · exact (s.setMgmt _).offerReply_queue

theorem State.endRequest_queue (s : State) (h : Hand) : s.link.queue <+: (s.endRequest h).link.queue := by
  unfold State.endRequest
  simp only
  generalize hu : (if (s.setMgmt fun m => { m with unlocked := false }).autoCommits h = true then
    (s.setMgmt fun m => { m with unlocked := false }).commit else s.setMgmt fun m => { m with unlocked := false }) = u
  have queue : u.link.queue = s.link.queue := by rw [← hu]; split <;> rfl
  rw [← queue]
  split
  · split <;> exact List.prefix_refl _
  · exact u.reply_queue _

/-- The end of an operation sends behind what its owner left in the queue. -/
theorem State.opEnd_queue (op : Op) (r : OpResult) : r.state.link.queue <+: (State.opEnd op r).link.queue := by
  have finish : r.state.link.queue <+: (State.finishOp op r).link.queue := by
    unfold State.finishOp
    split
    · exact List.prefix_refl _
    · have screens : ∀ f, r.state.link.queue <+: (r.state.setMgmt f).refreshScreens.link.queue := fun f =>
        (r.state.setMgmt f).refreshScreens_queue
      simp only
      split
      · exact (screens _).trans (State.endRequest_queue _ _)
      · exact screens _
  have start : (State.opEnd op r).link.queue = (State.finishOp op r).link.queue := by
    rcases (State.finishOp op r).startSending_cases with ⟨_, e⟩ | ⟨_, e⟩ <;> simp [State.opEnd, e]
  exact start ▸ finish

/-! ## A WRITE of one value -/

section OneValue
variable {o : Object} {index fld k : Nat} {vals : List Byte} {s : State} {owner : List Value → OpResult}

theorem splitFrom_nil (fuel : Nat) : splitFrom o fuel index fld [] = .values [] := by cases fuel <;> rfl

/-- Bytes of the length of one number are one value. -/
theorem splitValues_one (hs : valueShape o index fld = some [.fixed k]) (hl : vals.length = k) (hk : 0 < k) :
    splitValues o index fld vals = .values [⟨index, fld, vals⟩] := by
  obtain ⟨b, bs, rfl⟩ := List.exists_cons_of_length_pos (hl ▸ hk)
  have taken : takeParts [] [.fixed k] (b :: bs) = .value (b :: bs) [] := by simp [takeParts, ← hl]
  rw [splitValues, List.length_cons, splitFrom, if_neg (by simp), hs]
  simp [taken, splitFrom_nil]

theorem takeValues_one (hi : index ≤ lastIndex o fld) (hs : valueShape o index fld = some [.fixed k])
    (hl : vals.length = k) (hk : 0 < k) : takeValues o index fld vals s owner = owner [⟨index, fld, vals⟩] := by
  rw [takeValues, if_neg (by omega), splitValues_one hs hl hk]
  simp [hi]

end OneValue

theorem be16_length (n : Nat) : (be16 n).length = 2 := rfl
theorem be8_length (n : Nat) : (be8 n).length = 1 := rfl

theorem storeAll_one {σ : Type} (f : σ → Value → Stored σ) (x : σ) (v : Value) : storeAll f x [v] = f x v := by
  rcases h : f x v with e | ⟨y, c⟩ <;> simp [storeAll, h]

theorem ofNat16_seat (seat : Fin 64) : (BitVec.ofNat 16 seat.val).toNat = seat.val := by
  rw [BitVec.toNat_ofNat]; omega

theorem seatOf_val (seat : Seat) : seatOf seat.val = some seat := by simp [seatOf]

end Sys2Proof.Machine

namespace Sys2Proof.Machine

/-! ## Values staged for the mix (06 R125, R126, R128) -/

/-- The staged tables are replaced, the commit-pending mark is yes, and the request has stored a staged value. -/
def State.stagedWith (s : State) (tables : MixTables) : State :=
  ({ s with mix := { s.mix with staged := tables, pending := true } }).markStaged true

section Staged
variable {s v : State} {op : Op} {tables : MixTables} {c : Bool}

theorem State.stagedWith_keeps (s : State) (tables : MixTables) : s.keeps (s.stagedWith tables) [.staged, .tables, .mgmt] := by
  intro p hp; cases p <;> simp_all [State.agrees, State.stagedWith]

theorem MixBlock.commit_staged (m : MixBlock) (halted : Bool) : (m.commit halted).staged = m.staged := by
  unfold MixBlock.commit; split <;> rfl

/-- A commit that is asked for in the state `t`, of tables staged in `s`. -/
theorem State.commitsTo_of_commit {t : State} (h : t.mix = ({ s.mix with staged := tables, pending := true }).commit t.store.halted) :
    s.commitsTo t := by
  unfold State.commitsTo
  rw [h]
  cases t.store.halted <;> simp [MixBlock.commit]

/-- The end of a write of staged values: the mark that a value was staged stands, until the last operation of the request
ends it, with an auto-commit where it is asked for. -/
theorem State.opEnd_stages (hop : s.atOp op = true) (hmix : op.mixes = true) (hread : op.isRead = false)
    (hv : (s.stagedWith tables).keeps v [.seats]) :
    s.answered (State.opEnd op (done v c)) (okOr c) ∧ s.stages (State.opEnd op (done v c)) ∧
      (s.store.halted = false → (State.opEnd op (done v c)).mix.live = s.mix.live) := by
  obtain ⟨_, _, _, h, hh, hhd⟩ := State.atOp_iff.1 hop
  obtain ⟨rest, hops⟩ : ∃ rest, h.ops = op :: rest := by cases hq : h.ops <;> simp_all
  have vmgmt : v.mgmt = { s.mgmt with hand := some { h with staged := true } } := by
    rw [show v.mgmt = (s.stagedWith tables).mgmt from hv .mgmt (by decide)]
    simp [State.stagedWith, State.markStaged, hh]
  have vmix : v.mix = { s.mix with staged := tables, pending := true } := by
    obtain ⟨h1, h2, h3, h4⟩ := hv .tables (by decide)
    obtain ⟨h5, h6, h7, h8, h9, h10⟩ := hv .mixCycle (by decide)
    have h11 : v.mix.staged = (s.stagedWith tables).mix.staged := hv .staged (by decide)
    cases hm : v.mix
    simp_all [State.stagedWith]
  have vqueue : v.link.queue = s.link.queue := (hv .sending (by decide)).1
  have vhalted : v.store = s.store := hv .store (by decide)
  have owned : s.Owned h (done v c) := State.owned_done (staged := true) hop vmgmt (.of_eq vqueue)
  have own : (done v c).own op = [] := by simp [OpResult.own, done, hread]
  have answers := State.finishOp_answers owned hh hop (okOr_success c) fun k => by rw [hmix] at k; cases k
  rw [own] at answers
  have store : (State.opEnd op (done v c)).store = s.store := (State.opEnd_keeps op (done v c) .store (by decide)).trans vhalted
  by_cases hr : rest = []
  · have ends := (State.finishOp_endsWith owned hops (.inr hr)).2
    change (State.opEnd op (done v c)).mix = if (State.opEnd op (done v c)).cfg.autoCommit = true ∧
      (done v c).state.mgmt.hand.map (·.staged) = some true ∧ (done v c).status.success = true then
      (done v c).state.mix.commit (State.opEnd op (done v c)).store.halted else (done v c).state.mix at ends
    have staged : (done v c).state.mgmt.hand.map (·.staged) = some true := by simp [done, vmgmt]
    rw [staged, show (done v c).state = v from rfl, vmix] at ends
    refine ⟨answers, fun h2 op2 rest2 hh2 hops2 => ?_, fun hh0 => ?_⟩
    · obtain rfl : h = h2 := Option.some.inj (hh.symm.trans hh2)
      obtain ⟨rfl, rfl⟩ := List.cons.inj (hops.symm.trans hops2)
      refine ⟨fun k => absurd hr k, fun _ => ⟨fun k => ?_, fun k => ?_⟩⟩
      · exact State.commitsTo_of_commit (ends.trans (if_pos ⟨k, rfl, okOr_success c⟩))
      · rw [if_neg (by rw [k]; exact fun h => Bool.noConfusion h.1)] at ends
        rw [ends]; exact ⟨rfl, rfl, rfl, rfl⟩
    · rw [ends, store, hh0]
      split <;> rfl
  · have more := State.finishOp_more op (done v c) _ (by rw [show (done v c).state = v from rfl, vmgmt]) (okOr_success c) rfl
      (by rw [hops]; exact hr)
    have mix : (State.opEnd op (done v c)).mix = v.mix := (State.startSending_frame _).2.2.2.2.2.2.2.2.2.2.1.trans more.2
    have mgmt : (State.opEnd op (done v c)).mgmt.hand = _ := congrArg Mgmt.hand
      ((State.startSending_frame _).2.2.2.2.2.2.2.2.2.2.2.2.1.trans more.1)
    rw [vmix] at mix
    refine ⟨answers, fun h2 op2 rest2 hh2 hops2 => ?_, fun _ => by rw [mix]⟩
    obtain rfl : h = h2 := Option.some.inj (hh.symm.trans hh2)
    obtain ⟨rfl, rfl⟩ := List.cons.inj (hops.symm.trans hops2)
    exact ⟨fun _ => ⟨by rw [mix]; exact ⟨rfl, rfl, rfl, rfl⟩, _, mgmt, rfl⟩, fun k => absurd k hr⟩

end Staged

/-! ## Gains and duck factors -/

/-- A gain or duck factor stored in the staged tables. -/
def MixTables.withNumber (t : MixTables) (fld : Byte) (seat : Seat) (v : Nat) : MixTables :=
  match fld.toNat with
  | 0 => { t with gin := t.gin.set seat v }
  | 1 => { t with gout := t.gout.set seat v }
  | 2 => { t with duckOwn := v }
  | 3 => { t with duckNear := v }
  | 4 => { t with returnGain := v }
  | _ => { t with sendGain := v }

theorem MixTables.store_number (t : MixTables) {fld : Byte} (hf : fld.toNat ≤ 5) (seat : Seat) (n : BitVec 16) :
    let limit := if fld = 2 ∨ fld = 3 then 4096 else 8191
    t.store ⟨seat.val, fld.toNat, be16 n.toNat⟩ =
      .ok (t.withNumber fld seat (min limit n.toNat), decide (limit < n.toNat)) := by
  have hn : number (be16 n.toNat) = n.toNat := number_be16 n.isLt
  have hset : ∀ (t : Vector Nat 64) (x : Nat), t.setIfInBounds seat.val x = t.set seat x := fun t x => by
    simp [Vector.setIfInBounds, Vector.set, Array.setIfInBounds]
  obtain ⟨m, hm⟩ : ∃ m, m = fld.toNat := ⟨_, rfl⟩
  have hfld : fld = BitVec.ofNat 8 m := by rw [hm]; simp
  rw [← hm] at hf
  interval_cases m <;> subst hfld <;> simp [MixTables.store, MixTables.withNumber, hn, hset]

/-- The mark of the seat whose gain was written. -/
def State.gainMarked (s : State) (fld : Byte) (seat : Seat) : State :=
  if fld.toNat ≤ 1 then s.setRec (s.phys seat) fun r => { r with changed := true } else s

theorem State.gainMarked_keeps (s : State) (fld : Byte) (seat : Seat) : s.keeps (s.gainMarked fld seat) [.seats] := by
  unfold State.gainMarked
  split
  · exact s.setRec_keeps _ _
  · exact s.keeps_refl _

theorem State.writeMixStaged_number (s : State) {fld : Byte} (hf : fld.toNat ≤ 5) {seat : Seat} (hs : 2 ≤ fld.toNat → seat = 0)
    (n : BitVec 16) :
    let limit := if fld = 2 ∨ fld = 3 then 4096 else 8191
    s.writeMixStaged seat.val fld.toNat (be16 n.toNat) =
      done ((s.stagedWith (s.mix.staged.withNumber fld seat (min limit n.toNat))).gainMarked fld seat) (decide (limit < n.toNat)) := by
  intro limit
  have hi : seat.val ≤ lastIndex .mixStaged fld.toNat := by
    by_cases h : 2 ≤ fld.toNat
    · rw [hs h]; simp
    · have : fld.toNat = 0 ∨ fld.toNat = 1 := by omega
      rcases this with h | h <;> simp [lastIndex, h] <;> omega
  rw [State.writeMixStaged, takeValues_one (k := 2) hi (by simp [valueShape, hf]) rfl (by omega), storeAll_one,
    MixTables.store_number _ hf]
  simp only [accept, List.foldl_cons, List.foldl_nil, State.gainMark, seatOf_val]
  rfl

/-! ## Neighbour lists (06 R126) -/

/-- The byte of a slot of a neighbour list. -/
def slotByte (x : Option Pos) : Byte := BitVec.ofNat 8 ((x.map (·.val)).getD 0xFF)

theorem slotOf_slotByte (x : Option Pos) : slotOf (slotByte x) = some x := by
  cases x with
  | none => rfl
  | some p =>
    have h : (BitVec.ofNat 8 p.val).toNat = p.val := by rw [BitVec.toNat_ofNat]; omega
    have hp : p.val ≠ 255 := by omega
    simp [slotOf, slotByte, h, hp, seatOf_val]

/-- The list names its own position, or one twice. -/
def namesBadly (p : Pos) (l : Vector (Option Pos) 4) : Prop :=
  (∃ k : Fin 4, l[k] = some p) ∨ ∃ j k : Fin 4, j ≠ k ∧ l[j] = l[k] ∧ l[j] ≠ none

theorem namesBadly_iff (p : Pos) (l : Vector (Option Pos) 4) :
    namesBadly p l ↔ (l.toList.filterMap id).any (·.val = p.val) = true ∨ ¬ (l.toList.filterMap id).Nodup := by
  have mem : ∀ x, x ∈ l.toList ↔ ∃ k : Fin 4, l[k] = x := fun x => by
    simp [List.mem_iff_getElem, Fin.exists_iff]
  refine or_congr ?_ ?_
  · simp only [List.any_eq_true, List.mem_filterMap, id, mem, decide_eq_true_eq, ← Fin.ext_iff]
    simp
  · rw [List.Nodup, List.pairwise_filterMap, List.pairwise_iff_getElem]
    constructor
    · rintro ⟨j, k, hjk, heq, hne⟩ h
      obtain ⟨x, hx⟩ := Option.ne_none_iff_exists'.1 hne
      rcases Nat.lt_or_gt_of_ne (fun e => hjk (Fin.ext e)) with hlt | hlt
      · exact h j k (by simp) (by simp) hlt x (by simpa using hx) x (by simpa [heq] using hx) rfl
      · exact h k j (by simp) (by simp) hlt x (by simpa [heq] using hx) x (by simpa using hx) rfl
    · intro h
      by_contra hn
      refine h fun j k hj hk hlt x hx y hy hxy => hn ⟨⟨j, by simpa using hj⟩, ⟨k, by simpa using hk⟩, ?_, ?_, ?_⟩
      · exact fun e => Nat.ne_of_lt hlt (Fin.ext_iff.1 e)
      · simp only [id, Vector.getElem_toList] at hx hy
        simp [hx, hy, hxy]
      · simp only [id, Vector.getElem_toList] at hx
        simp [hx]

/-- The four slots of a list are read as the list, unless it names badly. -/
theorem readNeighbours_slots (p : Pos) (l : Vector (Option Pos) 4) :
    (namesBadly p l → readNeighbours p.val [slotByte l[0], slotByte l[1], slotByte l[2], slotByte l[3]] = none) ∧
    (¬ namesBadly p l → readNeighbours p.val [slotByte l[0], slotByte l[1], slotByte l[2], slotByte l[3]] = some l) := by
  have four : l.toList = [l[0], l[1], l[2], l[3]] := by
    apply List.ext_getElem <;> simp
    intro i hi
    interval_cases i <;> rfl
  have list : #v[l[0], l[1], l[2], l[3]] = l := by
    ext i hi
    interval_cases i <;> rfl
  rw [namesBadly_iff, four]
  simp only [readNeighbours, byteAt, List.getD_cons_zero, List.getD_cons_succ, slotOf_slotByte, list]
  constructor <;> intro h
  · rw [if_pos (by simpa using h)]
  · rw [if_neg (by simpa using h)]

/-- A neighbour list stored in the staged tables. -/
def MixTables.withNeighbours (t : MixTables) (p : Pos) (l : Vector (Option Pos) 4) : MixTables :=
  { t with neighbours := t.neighbours.set p l }

theorem State.writeMixStaged_neighbours (s : State) (p : Pos) (l : Vector (Option Pos) 4) :
    let bytes := [slotByte l[0], slotByte l[1], slotByte l[2], slotByte l[3]]
    (namesBadly p l → s.writeMixStaged p.val 6 bytes = fail s .badValue) ∧
    (¬ namesBadly p l → s.writeMixStaged p.val 6 bytes = done (s.stagedWith (s.mix.staged.withNeighbours p l)) false) := by
  intro bytes
  have hi : p.val ≤ lastIndex .mixStaged 6 := by simp [lastIndex]; omega
  have one : s.writeMixStaged p.val 6 bytes = accept s (storeAll MixTables.store s.mix.staged [⟨p.val, 6, bytes⟩])
      fun t => ([⟨p.val, 6, bytes⟩] : List Value).foldl State.gainMark
        (({ s with mix := { s.mix with staged := t, pending := true } }).markStaged true) :=
    takeValues_one (k := 4) hi (by simp [valueShape]) rfl (by omega)
  rw [one, storeAll_one, MixTables.store]
  obtain ⟨bad, good⟩ := readNeighbours_slots p l
  refine ⟨fun h => ?_, fun h => ?_⟩
  · simp only [bytes, bad h]; rfl
  · simp only [bytes, good h]
    have hset : s.mix.staged.neighbours.setIfInBounds p.val l = s.mix.staged.neighbours.set p l := by
      simp [Vector.setIfInBounds, Vector.set, Array.setIfInBounds]
    have h6 : ¬ 6 ≤ 1 := by decide
    simp only [hset, accept, List.foldl_cons, List.foldl_nil, State.gainMark, seatOf_val, if_neg h6]
    rfl

/-! ## O49 -/

theorem mixStagedWrite_number (s : State) (fld : Byte) (seat : Seat) (n : BitVec 16) (hf : fld.toNat ≤ 5)
    (hs : 2 ≤ fld.toNat → seat = 0) :
    let c : Instr := .mixStagedWrite (BitVec.ofNat 16 seat.val) fld (be16 n.toNat)
    let limit := if fld = 2 ∨ fld = 3 then 4096 else 8191
    s.reaches c = true → ∃ t, exec c s = .next t ∧ s.keeps t ([.staged, .seats] ++ opPieces) ∧
      s.answered t (if limit < n.toNat then .clamped else .ok) ∧ (s.store.halted = false → t.mix.live = s.mix.live) ∧
      s.stages t ∧ t.mix.staged = s.mix.staged.withNumber fld seat (min limit n.toNat) ∧ t.seats = (s.gainMarked fld seat).seats := by
  intro c limit hr
  obtain ⟨v, hv⟩ : ∃ v, v = (s.stagedWith (s.mix.staged.withNumber fld seat (min limit n.toNat))).gainMarked fld seat := ⟨_, rfl⟩
  have owner : s.writeMixStaged seat.val fld.toNat (be16 n.toNat) = done v (decide (limit < n.toNat)) :=
    (s.writeMixStaged_number hf hs n).trans (by rw [hv])
  obtain ⟨hop, hx⟩ := State.reaches_next
    (owner := fun s => s.writeMixStaged (BitVec.ofNat 16 seat.val).toNat fld.toNat (be16 n.toNat)) hr rfl rfl
  rw [ofNat16_seat, owner] at hx
  have marked := State.gainMarked_keeps (s.stagedWith (s.mix.staged.withNumber fld seat (min limit n.toNat))) fld seat
  rw [← hv] at marked
  obtain ⟨answers, stages, live⟩ := State.opEnd_stages (c := decide (limit < n.toNat)) hop rfl rfl marked
  have after := State.opEnd_keeps (.write 0x0B (BitVec.ofNat 16 seat.val) fld (be16 n.toNat)) (done v (decide (limit < n.toNat)))
  refine ⟨_, hx, ?_, ?_, live, stages, ?_, ?_⟩
  · have stored : s.keeps v [.staged, .tables, .mgmt, .seats] :=
      State.keeps_trans (State.keeps_mono (State.stagedWith_keeps s _) (by decide)) (State.keeps_mono marked (by decide))
    exact State.keeps_trans (State.keeps_mono stored (by decide)) (State.keeps_mono after (by decide))
  · have : okOr (decide (limit < n.toNat)) = if limit < n.toNat then .clamped else .ok := by
      by_cases h : limit < n.toNat <;> simp [h, okOr]
    exact this ▸ answers
  · exact (after .staged (by decide)).trans (marked .staged (by decide))
  · rw [after .seats (by decide), hv]
    unfold State.gainMarked
    split <;> rfl

theorem State.gainMarked_seats (s : State) (fld : Byte) (seat : Seat) :
    (2 ≤ fld.toNat → (s.gainMarked fld seat).seats = s.seats) ∧
    (fld.toNat ≤ 1 → (s.gainMarked fld seat).seatRec seat = { s.seatRec seat with changed := true } ∧
      ∀ p, p ≠ s.phys seat → (s.gainMarked fld seat).seats.recs[p] = s.seats.recs[p]) := by
  refine ⟨fun h => by rw [gainMarked, if_neg (by omega)], fun h => ?_⟩
  rw [gainMarked, if_pos h]
  exact ⟨modify_get_self _ _ _, fun p hp => modify_get_ne _ hp _⟩

theorem mixStagedWrite_neighbours (s : State) (p : Pos) (l : Vector (Option Pos) 4) :
    let c : Instr := .mixStagedWrite (BitVec.ofNat 16 p.val) 6 [slotByte l[0], slotByte l[1], slotByte l[2], slotByte l[3]]
    s.reaches c = true → ∃ t, exec c s = .next t ∧ (namesBadly p l → s.fails t .badValue) ∧
      (¬ namesBadly p l → s.keeps t (.staged :: opPieces) ∧ s.answered t .ok ∧ s.stages t ∧
        t.mix.staged = s.mix.staged.withNeighbours p l) := by
  intro c hr
  let bytes := [slotByte l[0], slotByte l[1], slotByte l[2], slotByte l[3]]
  obtain ⟨hop, hx⟩ := State.reaches_next (owner := fun s => s.writeMixStaged (BitVec.ofNat 16 p.val).toNat 6 bytes) hr rfl rfl
  rw [ofNat16_seat] at hx
  obtain ⟨bad, good⟩ := s.writeMixStaged_neighbours p l
  refine ⟨_, hx, fun h => State.opEnd_fails hop (bad h) rfl, fun h => ?_⟩
  obtain ⟨answers, stages, -⟩ := State.opEnd_stages (tables := s.mix.staged.withNeighbours p l) (c := false) hop rfl rfl
    (State.keeps_refl _ _)
  have after := State.opEnd_keeps (.write 0x0B (BitVec.ofNat 16 p.val) 6 bytes)
    (done (s.stagedWith (s.mix.staged.withNeighbours p l)) false)
  rw [good h]
  exact ⟨State.keeps_trans (State.keeps_mono (State.stagedWith_keeps s _) (by decide)) (State.keeps_mono after (by decide)),
    answers, stages, after .staged (by decide)⟩

/-- Settles O49: a write of one value is stored in the staged tables alone, and the end of its operation commits them or leaves
them as auto_commit says. -/
theorem mixValuesAreStaged : Obligations.MixValuesAreStaged := by
  refine ⟨fun s fld seat n hf hs => ?_, fun s p l => ?_⟩
  · intro c limit v hr
    obtain ⟨t, hx, keeps, answers, live, stages, staged, seats⟩ := mixStagedWrite_number s fld seat n hf hs hr
    obtain ⟨kept, marked⟩ := s.gainMarked_seats fld seat
    refine ⟨t, hx, keeps, answers, live, stages, ?_, ?_, ?_, ?_, ?_, ?_, fun h => seats.trans (kept h), fun h => ?_⟩
    · rintro rfl; exact staged
    · rintro rfl; exact staged
    · rintro rfl; exact staged
    · rintro rfl; exact staged
    · rintro rfl; exact staged
    · rintro rfl; exact staged
    · obtain ⟨self, others⟩ := marked h
      refine ⟨?_, fun p hp => by rw [seats]; exact others p hp⟩
      have same : t.seatRec seat = (s.gainMarked fld seat).seatRec seat := State.seatRec_congr seats seat
      exact same.trans self
  · intro slot c hr
    obtain ⟨t, hx, bad, good⟩ := mixStagedWrite_neighbours s p l hr
    refine ⟨t, hx, bad, fun own twice => good ?_⟩
    rintro (⟨k, hk⟩ | ⟨j, k, hjk, heq, hne⟩)
    · exact own k hk
    · exact hne (twice j k hjk heq)

end Sys2Proof.Machine

namespace Sys2Proof.Machine

/-! ## O51: a seat that stands in the open list and in the queue

The clause on a seat made OBSERVER while its microphone is OPEN does not ask that the state keeps the floor's invariant. Where
the seat also stands in the queue and its limit is reached under AUTO, the limit takes it from the open list first (05 R106),
and the KEY notice then takes it from the queue (04 R91). -/

namespace QueuedHolder

/-- The seat of the witness: it holds the floor, is OPEN, and stands in the queue too. -/
def seat : Seat := 3

/-- An ACTIVE ad hoc booking that every seat is permitted in. -/
def booking : Booking :=
  { number := 0, start := 0, duration := 60, grace := 0, key := 0, guestAdmit := false, chair := 0, roster := none,
    mode := .openFloor, maxOpen := 4, speakLimit := 1, limitAction := .auto, title := [], roomSend := false, active := true }

/-- The engine at a write of the class override OBSERVER. -/
def hand : Hand :=
  { tag := 0, key := 0, silent := false, total := 1, reads := 0, ops := [.write 0x0A 3 1 [2]], statuses := [],
    returned := [], staged := false }

/-- A session in which the limit of the seat, one second, is reached under AUTO. -/
def state : State :=
  { State.reset with
    pos := State.reset.pos.set seat { State.reset.pos[seat] with presence := .present, statusValid := true }
    cal := { State.reset.cal with bookings := [booking], session := .inSession }
    floor := { State.reset.floor with
      openList := [⟨seat, State.reset.clock.now, .button⟩], queue := [⟨seat, 0, 0, .button⟩] }
    mic := { recs := State.reset.mic.recs.set seat { MicRec.powerOn with state := .opened, timer := 10 },
             speakLimit := 1, limitAction := .auto }
    mgmt := { State.reset.mgmt with engine := .executing, hand := some hand } }

/-- The queue that the write leaves. -/
def queueAfter : List QueueEntry :=
  match exec (.classOverrideWrite (BitVec.ofNat 16 seat.val) [2]) state with
  | .next t => t.floor.queue
  | _ => state.floor.queue

theorem queue_before : state.floor.queue = [⟨seat, 0, 0, .button⟩] := rfl

theorem queue_after : queueAfter = [] := by decide +kernel

theorem reaches_owner : state.reaches (.classOverrideWrite (BitVec.ofNat 16 seat.val) [2]) = true := by decide +kernel

theorem premises : state.cal.session = .inSession ∧ state.holds seat = true ∧ state.permitted seat = true ∧
    state.present (state.phys seat) = true ∧ state.floor.mode ≠ .queue ∧ (state.micOf seat).state = .opened := by decide +kernel

end QueuedHolder

open QueuedHolder in
/-- Refutes O51: of an OPEN seat that also stands in the queue and whose limit is reached under AUTO, the class override
OBSERVER empties the queue, where the statement keeps it. -/
theorem not_mutesAndOverrides : ¬ Obligations.MutesAndOverrides := by
  rintro ⟨-, -, override, -⟩
  obtain ⟨session, holds, permitted, present, mode, opened⟩ := premises
  obtain ⟨t, hx, -, ok⟩ := override state seat 2 (some .observer) (.inr ⟨.observer, rfl, rfl⟩) reaches_owner
  obtain ⟨-, -, -, removed⟩ := ok (by rw [session]; rfl)
  obtain ⟨-, -, -, -, kept, -⟩ := removed rfl session holds permitted present (.inl mode) opened
  have after : t.floor.queue = queueAfter := by rw [queueAfter, hx]
  rw [kept, queue_before, queue_after] at after
  cases after

end Sys2Proof.Machine

namespace Sys2Proof.Machine

/-! ## A booking that takes its place in the table (03 R47) -/

/-- The record stands somewhere among the others, whose order is kept. -/
theorem placeBooking_split (b : Booking) (l : List Booking) :
    ∃ before after, l = before ++ after ∧ placeBooking b l = before ++ b :: after := by
  induction l with
  | nil => exact ⟨[], [], rfl, rfl⟩
  | cons x xs ih =>
    by_cases h : b.precedes x = true
    · exact ⟨[], x :: xs, rfl, by simp [placeBooking, h]⟩
    · obtain ⟨before, after, e1, e2⟩ := ih
      exact ⟨x :: before, after, by simp [e1], by simp [placeBooking, h, e2]⟩

/-- The one ACTIVE record of a table is found. -/
theorem find_active {before after : List Booking} {b : Booking} (ha : b.active = true)
    (h : ∀ x ∈ before, x.active = false) : (before ++ b :: after).find? (·.active) = some b := by
  rw [List.find?_append, List.find?_eq_none.2 fun x hx => by simp [h x hx], List.find?_cons_of_pos ha]
  rfl

/-! ## The start of a session, and an evaluation before its end -/

section Start
variable {s : State} {b : Booking}

/-- The start of a session offers its SESSION_START notice (03 R65). -/
theorem State.startSession_notified (s : State) (b : Booking) : s.notified (s.startSession b) 0x04
    (be16 b.number ++ textBytes b.title ++ be32 b.start ++ be32 b.finish ++ timeBytes s.clock.now) := by
  have told : ∀ (u : State) (k : Nat) (body : List Byte), u.link = s.link → s.notified (u.notice k body) k body :=
    fun u k body link d hd hq => link ▸ u.notice_notified k body d (link ▸ hd) (link ▸ hq)
  unfold State.startSession
  exact told _ _ _ (by simp)

/-- Where every record of the number is ACTIVE already, the start leaves the table as it is. -/
theorem State.startSession_active (h : ∀ x ∈ s.cal.bookings, x.number = b.number → x.active = true) :
    (s.startSession b).cal.bookings = s.cal.bookings := by
  change s.cal.bookings.map (fun r : Booking => if r.number = b.number then { r with active := true } else r) = _
  conv_rhs => rw [← List.map_id s.cal.bookings]
  refine List.map_congr_left fun x hx => ?_
  split
  · next hn => rw [← h x hx hn]; rfl
  · rfl

/-- Before the end of an ad hoc session an evaluation removes what is MISSED at most (03 R52, R55). -/
theorem State.evaluate_before (hs : s.cal.session = .inSession) (hb : s.activeBooking = some b) (hn : b.number = 0)
    (h : s.clock.now.minute < b.finish) : s.evaluate = s ∨ s.evaluate = s.removeMissed := by
  by_cases hy : s.clock.sync = .unsynced
  · refine .inl ?_
    simp only [State.evaluate, hs, hy, hb, Option.map_some, hn, if_true]
    exact State.testEnd_before hs hb h
  · refine .inr ?_
    rw [State.evaluate_inSession hs hy]
    exact State.testEnd_before (by rw [State.removeMissed_session, hs]) (by rw [State.removeMissed_active, hb])
      (by rw [s.removeMissed_frame.2.2.2.2.2.2.1]; exact h)

/-- What is MISSED leaves the session as it is. -/
theorem State.removeMissed_goesOn (s : State) : s.removeMissed.cal = { s.cal with bookings := s.removeMissed.cal.bookings } ∧
    s.removeMissed.activeBooking = s.activeBooking ∧ s.keeps s.removeMissed [.cal, .sending, .linkCounters] ∧
    s.link.queue <+: s.removeMissed.link.queue := by
  obtain ⟨more, -, queue⟩ := s.removeMissed_sends
  exact ⟨by rw [s.removeMissed_cal], State.removeMissed_active, s.removeMissed_rest, queue ▸ List.prefix_append _ _⟩

end Start

/-! ## OPEN_ADHOC (03 R60) -/

section Adhoc
variable {s : State} {duration : BitVec 16} {key chair mode maxOpen : Byte}

theorem State.openAdhoc_badValue (hs : s.cal.session = .vacant) (h : 16 ≤ key.toNat ∨ 64 ≤ chair.toNat ∨ 3 ≤ mode.toNat) :
    s.openAdhocAction duration key chair mode maxOpen = fail s .badValue := by
  have none : keyOf key.toNat = none ∨ seatOf chair.toNat = none ∨ Mode.ofCode mode.toNat = none := by
    refine h.imp (fun h => dif_neg (by omega)) (Or.imp (fun h => dif_neg (by omega)) fun h => ?_)
    obtain ⟨n, hn⟩ : ∃ n, mode.toNat = n + 3 := ⟨mode.toNat - 3, by omega⟩
    rw [hn]; rfl
  unfold State.openAdhocAction
  simp only [hs]
  split
  · next h1 h2 h3 => rcases none with h | h | h <;> simp_all
  · rfl

theorem keyOf_val (k : Key) : keyOf (BitVec.ofNat 8 k.val).toNat = some k := by
  have : (BitVec.ofNat 8 k.val).toNat = k.val := by rw [BitVec.toNat_ofNat]; omega
  rw [this, keyOf, dif_pos k.isLt]

theorem seatOf_byte (p : Pos) : seatOf (BitVec.ofNat 8 p.val).toNat = some p := by
  have : (BitVec.ofNat 8 p.val).toNat = p.val := by rw [BitVec.toNat_ofNat]; omega
  rw [this, seatOf_val]

theorem Mode.ofCode_byte (m : Mode) : Mode.ofCode (BitVec.ofNat 8 m.code).toNat = some m := by cases m <;> rfl

/-- The booking is in the table, ACTIVE, and its session has not started. -/
def State.adhocPlaced (s : State) (b : Booking) : State :=
  { s with cal := { s.cal with bookings := placeBooking b s.cal.bookings } }

theorem State.adhocPlaced_keeps (s : State) (b : Booking) : s.keeps (s.adhocPlaced b) [.cal] := by
  intro p hp; cases p <;> simp_all [State.agrees, State.adhocPlaced]

/-- OPEN_ADHOC in VACANT with values that name something. -/
theorem State.openAdhoc_vacant (hs : s.cal.session = .vacant) (k : Key) (c : Pos) (m : Mode) :
    let d := max 5 (min 1440 duration.toNat)
    let n := max 1 (min 6 maxOpen.toNat)
    let b := adhocBooking s.clock.now.minute d k c m n
    s.openAdhocAction duration (BitVec.ofNat 8 k.val) (BitVec.ofNat 8 c.val) (BitVec.ofNat 8 m.code) maxOpen =
      if 32 ≤ s.cal.bookings.length then fail s .full
      else if s.passesNext (s.clock.now.minute + d) = true then fail s .overlap
      else done (((s.adhocPlaced b).startSession b).evaluate) (d != duration.toNat || n != maxOpen.toNat) := by
  unfold State.openAdhocAction
  simp only [hs, keyOf_val, seatOf_byte, Mode.ofCode_byte]
  rfl

/-- The status of two values, each brought into range. -/
theorem okOr_changed (a b c d : Nat) : okOr (a != b || c != d) = if a = b ∧ c = d then .ok else .clamped := by
  by_cases h1 : a = b <;> by_cases h2 : c = d <;> simp [h1, h2, okOr]

theorem State.passesNext_iff (s : State) (finish : Nat) :
    s.passesNext finish = true ↔ ∃ b, s.nextBooking = some b ∧ b.start < finish := by
  unfold State.passesNext
  cases s.nextBooking <;> simp

variable {b : Booking} (hn : b.number = 0) (ha : b.active = true) (free : ∀ x ∈ s.cal.bookings, x.active = false ∧ x.number ≠ 0)
include hn ha free

/-- The session of an ad hoc booking finds its own record, ACTIVE. -/
theorem State.adhocStarted_active : ((s.adhocPlaced b).startSession b).activeBooking = some b := by
  obtain ⟨before, after, split, placed⟩ := placeBooking_split b s.cal.bookings
  have cal : (s.adhocPlaced b).cal.bookings = before ++ b :: after := placed
  have same : ((s.adhocPlaced b).startSession b).cal.bookings = before ++ b :: after := by
    rw [State.startSession_active, cal]
    intro x hx hnum
    rw [cal, List.mem_append, List.mem_cons] at hx
    rcases hx with hx | rfl | hx
    · exact absurd (hnum.trans hn) (free x (by simp [split, hx])).2
    · exact ha
    · exact absurd (hnum.trans hn) (free x (by simp [split, hx])).2
  rw [State.activeBooking, same, find_active ha fun x hx => (free x (by simp [split, hx])).1]

/-- The session has started, and its evaluation removes what is MISSED at most. -/
theorem State.adhocStarted_evaluate (hd : s.clock.now.minute < b.finish) :
    let w := (s.adhocPlaced b).startSession b
    w.evaluate.cal = { w.cal with bookings := w.evaluate.cal.bookings } ∧ w.evaluate.activeBooking = some b ∧
      w.keeps w.evaluate [.cal, .sending, .linkCounters] ∧ w.link.queue <+: w.evaluate.link.queue := by
  intro w
  have active : w.activeBooking = some b := State.adhocStarted_active hn ha free
  have clock : w.clock = s.clock := ((s.adhocPlaced b).startSession_frame b).2.2.2.2.2.1
  rcases State.evaluate_before rfl active hn (by rw [clock]; exact hd) with h | h
  · rw [h]
    exact ⟨rfl, active, w.keeps_refl _, List.prefix_refl _⟩
  · rw [h, ← active]
    exact w.removeMissed_goesOn

end Adhoc

/-! ## O57 -/

theorem openAdhoc_reaches (s : State) (duration : BitVec 16) (key chair mode maxOpen : Byte)
    (hr : s.reaches (.openAdhoc duration key chair mode maxOpen) = true) :
    let op : Op := .action Action.openAdhoc.code (be16 duration.toNat ++ [key, chair, mode, maxOpen])
    s.atOp op = true ∧ exec (.openAdhoc duration key chair mode maxOpen) s =
      .next (State.opEnd op (s.openAdhocAction duration key chair mode maxOpen)) :=
  State.reaches_next (owner := State.openAdhocAction duration key chair mode maxOpen) hr rfl rfl

/-- The refusals that do not look at the table. -/
theorem openAdhoc_refuses (s : State) (duration : BitVec 16) (key chair mode maxOpen : Byte)
    (hr : s.reaches (.openAdhoc duration key chair mode maxOpen) = true) :
    ∃ t, exec (.openAdhoc duration key chair mode maxOpen) s = .next t ∧
      (s.cal.session = .armed → s.fails t .booked) ∧ (s.cal.session.isActive = true → s.fails t .active) ∧
      (s.cal.session = .vacant → 16 ≤ key.toNat ∨ 64 ≤ chair.toNat ∨ 3 ≤ mode.toNat → s.fails t .badValue) := by
  obtain ⟨hop, hx⟩ := openAdhoc_reaches s duration key chair mode maxOpen hr
  refine ⟨_, hx, fun h => State.opEnd_fails hop ?_ rfl, fun h => State.opEnd_fails hop ?_ rfl, fun h hbad =>
    State.opEnd_fails hop (State.openAdhoc_badValue h hbad) rfl⟩
  · unfold State.openAdhocAction; rw [h]
  · unfold State.openAdhocAction
    split
    · next hs => simp [hs, Session.isActive] at h
    · rfl
    · rfl
    · rfl
    · next hs => simp [hs, Session.isActive] at h

/-- What the start of a session without a roster shows of the tallies and of the records (02 R24, R38, R41). -/
theorem State.startSession_clears (s : State) (b : Booking) (hb : b.roster = none) :
    (∀ r : Fin 8, (s.startSession b).cal.tally[r] = 0) ∧ ∀ p : Pos, (s.startSession b).seats.recs[p].participant = none ∧
      (s.startSession b).seats.recs[p].spoke = false ∧ (s.startSession b).seats.recs[p].changed = false ∧
      (s.startSession b).seats.recs[p].turnCount = 0 := by
  refine ⟨fun r => ?_, fun p => ?_⟩
  · have tally : (s.startSession b).cal.tally = Vector.replicate 8 0 := rfl
    rw [tally]
    exact Vector.getElem_replicate _
  · rw [State.startSession_recs, SeatRec.clearMarks_participant, hb]
    exact ⟨State.bindRoster_unbound _ p, rfl, rfl, rfl⟩

/-- OPEN_ADHOC whose values name something, at a table that has room for the record. -/
theorem openAdhoc_starts (s : State) (duration : BitVec 16) (key : Key) (chair : Pos) (mode : Mode) (maxOpen : Byte)
    (hr : s.reaches (.openAdhoc duration (BitVec.ofNat 8 key.val) (BitVec.ofNat 8 chair.val) (BitVec.ofNat 8 mode.code) maxOpen) = true)
    (hs : s.cal.session = .vacant) (hl : s.cal.bookings.length < 32) (free : ∀ b ∈ s.cal.bookings, b.active = false ∧ b.number ≠ 0)
    (hnext : ∀ b, s.nextBooking = some b → s.clock.now.minute + max 5 (min 1440 duration.toNat) ≤ b.start) :
    let d := max 5 (min 1440 duration.toNat)
    let n := max 1 (min 6 maxOpen.toNat)
    let b := adhocBooking s.clock.now.minute d key chair mode n
    let w := (s.adhocPlaced b).startSession b
    ∃ t, exec (.openAdhoc duration (BitVec.ofNat 8 key.val) (BitVec.ofNat 8 chair.val) (BitVec.ofNat 8 mode.code) maxOpen) s = .next t ∧
      s.answered t (if d = duration.toNat ∧ n = maxOpen.toNat then .ok else .clamped) ∧
      t.cal = { w.cal with bookings := t.cal.bookings } ∧ t.activeBooking = some b ∧
      w.keeps t ([.cal, .linkCounters] ++ opPieces) ∧
      s.notified t 0x04 (be16 0 ++ textBytes (text "AD HOC") ++ be32 s.clock.now.minute ++ be32 (s.clock.now.minute + d) ++
        timeBytes s.clock.now) ∧
      s.keeps t ([.cal, .seats, .floor, .mic, .mixCycle, .messages, .linkCounters] ++ opPieces) := by
  intro d n b w
  obtain ⟨hop, hx⟩ := openAdhoc_reaches s duration _ _ _ _ hr
  have fits : ¬ s.passesNext (s.clock.now.minute + d) = true := fun k => by
    obtain ⟨x, hx, lt⟩ := (s.passesNext_iff _).1 k
    exact Nat.not_lt.2 (hnext x hx) lt
  have owner := (State.openAdhoc_vacant (duration := duration) (maxOpen := maxOpen) hs key chair mode).trans
    ((if_neg (by omega)).trans (if_neg fits))
  have before : s.clock.now.minute < b.finish := by
    change s.clock.now.minute < s.clock.now.minute + max 5 (min 1440 duration.toNat)
    omega
  obtain ⟨cal, active, kept, queue⟩ := State.adhocStarted_evaluate (s := s) (b := b) rfl rfl free before
  have started : s.keeps w sessionPieces :=
    State.keeps_trans (State.keeps_mono (s.adhocPlaced_keeps b) (by decide)) (State.startSession_keeps _ b)
  have evaluated : s.keeps w.evaluate sessionPieces := State.keeps_trans started (State.keeps_mono kept (by decide))
  have sends : s.Sends w.evaluate :=
    State.Sends.trans ((State.startSession_sends (s.adhocPlaced b) b).from rfl) w.evaluate_sends
  have answers := State.opEnd_answered hop owner rfl evaluated (by decide) (by decide) sends
  have after := State.opEnd_keeps (.action Action.openAdhoc.code (be16 duration.toNat ++
    [BitVec.ofNat 8 key.val, BitVec.ofNat 8 chair.val, BitVec.ofNat 8 mode.code, maxOpen]))
    (done w.evaluate (d != duration.toNat || n != maxOpen.toNat))
  have behind := State.opEnd_queue (.action Action.openAdhoc.code (be16 duration.toNat ++
    [BitVec.ofNat 8 key.val, BitVec.ofNat 8 chair.val, BitVec.ofNat 8 mode.code, maxOpen]))
    (done w.evaluate (d != duration.toNat || n != maxOpen.toNat))
  rw [owner] at hx
  have tcal := after .cal (by decide)
  refine ⟨_, hx, ?_, ?_, ?_, ?_, ?_, ?_⟩
  · rw [← okOr_changed, ← owner]
    exact answers
  · rw [tcal]
    exact cal
  · rw [State.activeBooking, tcal]
    exact active
  · exact State.keeps_trans (State.keeps_mono kept (by decide)) (State.keeps_mono after (by decide))
  · exact State.notified_mono (State.startSession_notified (s.adhocPlaced b) b) (queue.trans behind)
  · exact State.keeps_trans (State.keeps_mono evaluated (by decide)) (State.keeps_mono after (by decide))

/-- Settles O57: the refusals in their order, and the start of the session, whose own evaluation comes before its end. -/
theorem openAdhocStartsASession : Obligations.OpenAdhocStartsASession := by
  refine ⟨openAdhoc_refuses, fun s duration key chair mode maxOpen => ?_⟩
  intro c d n hr
  obtain ⟨hop, hx⟩ := openAdhoc_reaches s duration _ _ _ _ hr
  refine ⟨_, hx, fun hs hfull => ?_, fun b hs hl hb hlt => ?_, fun hs hl free hnext => ?_⟩
  · exact State.opEnd_fails hop ((State.openAdhoc_vacant hs key chair mode).trans (if_pos hfull)) rfl
  · have passes := (s.passesNext_iff (s.clock.now.minute + d)).2 ⟨b, hb, hlt⟩
    exact State.opEnd_fails hop ((State.openAdhoc_vacant hs key chair mode).trans
      ((if_neg (by omega)).trans (if_pos passes))) rfl
  · obtain ⟨t, ht, answers, cal, active, kept, told, keeps⟩ := openAdhoc_starts s duration key chair mode maxOpen hr hs hl free hnext
    obtain rfl : _ = t := Host.Outcome.next.inj (hx.symm.trans ht)
    obtain ⟨tally, recs⟩ := (s.adhocPlaced (adhocBooking s.clock.now.minute d key chair mode n)).startSession_clears
      (adhocBooking s.clock.now.minute d key chair mode n) rfl
    have seats := kept .seats (by decide)
    have floor := kept .floor (by decide)
    have mic := kept .mic (by decide)
    refine ⟨answers, by rw [cal]; rfl, by rw [cal]; rfl, by rw [cal]; rfl, told, ⟨_, active, rfl, rfl, rfl, rfl, rfl, rfl, rfl, rfl⟩,
      ?_, ?_, ?_, ?_, ?_, ?_, ?_, ?_, ?_, keeps⟩
    · rw [seats]; rfl
    · rw [floor]; rfl
    · rw [floor]; rfl
    · rw [floor]; rfl
    · rw [mic]; rfl
    · rw [mic]; rfl
    · exact (kept .mixCycle (by decide)).2.2.1
    · intro r; rw [cal]; exact tally r
    · intro p; rw [seats]; exact recs p

end Sys2Proof.Machine

namespace Sys2Proof.Machine

/-! ## What an evaluation outside a session turns on -/

/-- Of the state before, an evaluation outside a session is about the bookings, the rosters, the seats and the floor. -/
theorem State.EvaluatedIdle.of_tables {s u t : State} (h : u.EvaluatedIdle t) (hb : u.cal.bookings = s.cal.bookings)
    (hr : u.cal.rosters = s.cal.rosters) (hseats : u.seats = s.seats) (hopen : u.floor.openList = s.floor.openList)
    (hqueue : u.floor.queue = s.floor.queue) (hmode : u.floor.mode = s.floor.mode) : s.EvaluatedIdle t := by
  unfold State.EvaluatedIdle State.Started at h ⊢
  rw [← hb, ← hr, ← hseats, ← hopen, ← hqueue, ← hmode]
  exact h

section Bookings
variable {s : State}

/-- The records that are left when the ACTIVE one is gone. -/
theorem State.TableOk.left (h : s.TableOk) : (∀ b ∈ s.cal.bookings.filter (fun b => !b.active), b.active = false) ∧
    ((s.cal.bookings.filter fun b => !b.active).map (·.number)).Nodup := by
  obtain ⟨⟨-, numbers, -⟩, -⟩ := h
  exact ⟨fun b hb => by simpa using (List.mem_filter.1 hb).2, numbers.sublist (List.filter_sublist.map _)⟩

/-- Where no session is active, no record is. -/
theorem State.TableOk.none_active (h : s.TableOk) (hs : s.cal.session.isActive = false) :
    s.cal.bookings.filter (fun b => !b.active) = s.cal.bookings := by
  obtain ⟨-, ⟨-, active⟩, -⟩ := h
  refine List.filter_eq_self.2 fun b hb => ?_
  by_contra k
  have on := active ⟨b, hb, by simpa using k⟩
  rw [hs] at on
  cases on

/-- An evaluation outside a session touches no clip counter and no message that is not there. -/
theorem State.startSession_clips (s : State) (b : Booking) : (s.startSession b).mix = { s.mix with roomSend := b.roomSend } := by
  unfold State.startSession
  simp

theorem State.evaluateIdle_clips (s : State) : s.evaluateIdle.mix.outClips = s.mix.outClips ∧
    s.evaluateIdle.mix.sendClips = s.mix.sendClips := by
  have missed : s.removeMissed.mix = s.mix := s.removeMissed_frame.2.2.2.2.2.2.2.2.2.1
  unfold State.evaluateIdle
  split
  · exact ⟨rfl, rfl⟩
  · rw [← missed]
    unfold State.testNext
    split
    · exact ⟨rfl, rfl⟩
    · split
      · rw [State.startSession_clips]
        exact ⟨rfl, rfl⟩
      · split <;> exact ⟨rfl, rfl⟩

end Bookings

/-- No step is held pending by an evaluation outside a session. -/
theorem State.evaluateIdle_stepPending (s : State) : s.evaluateIdle.cal.stepPending = s.cal.stepPending := by
  have missed : s.removeMissed.cal.stepPending = s.cal.stepPending := by rw [s.removeMissed_cal]
  have started : ∀ (u : State) (b : Booking), (u.startSession b).cal.stepPending = u.cal.stepPending := fun u b => by
    unfold State.startSession
    simp
  unfold State.evaluateIdle
  split
  · rfl
  · rw [← missed]
    unfold State.testNext
    split
    · rfl
    · split
      · exact started _ _
      · split <;> rfl

/-! ## The warm restart, part by part (11 R195) -/

section Restart
variable (s : State)

/-- The level state of a position after a restart (07 R142). -/
def LevelRec.restart (l : LevelRec) : LevelRec := { l.zero with clips := 0 }

/-- The delivery state of a position after a restart (08 R145). -/
def Delivery.restart (d : Delivery) : Delivery := { d with known := none, transfer := none }

/-- Every block has done its part of the restart but the engine, which may still lose its head, and the wings. -/
def State.restartCleared : State :=
  let w := ({ s with
    store := { s.store with halted := false }
    floor := s.floor.restart
    mic := { s.mic with recs := mapAll s.mic.recs fun _ m => m.restart } }).dropSession
  { w with
    cal := { w.cal with stepPending := false }
    disp := w.disp.restart
    link := { w.link.unlearn with counters := LinkCounters.zero }
    mix := { w.mix with outClips := Vector.replicate 64 0, sendClips := 0 }
    level := mapAll w.level fun _ l => l.restart
    mgmt := { w.mgmt with unlocked := false, dropped := 0, malformed := 0, restart := .none } }

/-- A SILENT restart's request leaves now; the request of another has left with its reply (10 R188). -/
def State.restartHead : State :=
  if s.mgmt.restart = .due true then s.restartCleared.setMgmt Mgmt.leaveHead else s.restartCleared

/-- Both wings begin a pass, and the calendar has not evaluated yet. -/
def State.restartLeft : State := (s.restartHead.refreshScreens.startPass .a).startPass .b

theorem State.warmRestart_eq : s.warmRestart = s.restartLeft.evaluate.refreshScreens := rfl

theorem State.restartHead_keeps : s.restartCleared.keeps s.restartHead [.mgmt] := by
  unfold State.restartHead
  split
  · exact State.setMgmt_keeps _ _
  · exact State.keeps_refl _ _

theorem State.restartLeft_keeps : s.restartCleared.keeps s.restartLeft [.mgmt, .wings, .screens, .sending] :=
  State.keeps_trans (State.keeps_mono s.restartHead_keeps (by decide))
    (State.keeps_trans (State.keeps_mono (State.refreshScreens_keeps _) (by decide))
      (State.keeps_trans (State.keeps_mono (State.startPass_keeps _ _) (by decide))
        (State.keeps_mono (State.startPass_keeps _ _) (by decide))))

theorem State.restartCleared_keeps : s.keeps s.restartCleared
    [.level, .seats, .cal, .floor, .mic, .mixCycle, .messages, .delivery, .screens, .audioReturn, .linkCounters, .mgmt, .store] := by
  intro p hp
  cases p <;> simp_all [State.agrees, State.restartCleared, State.dropSession, Display.restart, Link.unlearn]

theorem State.restartLeft_wing (w : Wing) : s.restartLeft.passStarts w := by
  cases w with
  | a => exact State.passStarts_of_wing (s := s.restartHead.refreshScreens) (State.startPass_wing_ne _ (by decide))
  | b => exact State.passStarts_of_wing (s := s.restartHead.refreshScreens.startPass .a) rfl

theorem State.restartLeft_mgmt : s.restartLeft.mgmt.unlocked = false ∧ s.restartLeft.mgmt.dropped = 0 ∧
    s.restartLeft.mgmt.malformed = 0 ∧ s.restartLeft.mgmt.restart = .none ∧
    s.restartLeft.mgmt.requests = if s.mgmt.restart = .due true then s.mgmt.requests.tail else s.mgmt.requests := by
  have passes : s.restartLeft.mgmt = s.restartHead.refreshScreens.mgmt :=
    (State.startPass_keeps _ _ .mgmt (by decide)).trans (State.startPass_keeps _ _ .mgmt (by decide))
  have head : s.restartLeft.mgmt = s.restartHead.mgmt := passes.trans (s.restartHead.refreshScreens_keeps .mgmt (by decide))
  rw [head, State.restartHead]
  split <;> exact ⟨rfl, rfl, rfl, rfl, rfl⟩

theorem State.restartCleared_mic (i : Seat) : s.restartCleared.micOf i = (s.micOf i).restart := by
  have recs : s.restartCleared.mic.recs = mapAll s.mic.recs fun _ m => m.restart := rfl
  rw [State.micOf, recs, mapAll_get]
  rfl

theorem State.restartCleared_level (p : Pos) : s.restartCleared.level[p] = s.level[p].restart := by
  have level : s.restartCleared.level = mapAll s.level fun _ l => l.restart := by
    simp [State.restartCleared, State.dropSession]
  rw [level, mapAll_get]

theorem State.restartCleared_display (p : Pos) : s.restartCleared.disp.delivery[p].known = none ∧
    s.restartCleared.disp.delivery[p].transfer = none ∧ ∀ i : Seat, s.restartCleared.disp.messages[i] = none := by
  have delivery : s.restartCleared.disp.delivery = mapAll s.disp.delivery fun _ x => x.restart := by
    simp [State.restartCleared, State.dropSession, Display.restart, Delivery.restart]
  have messages : s.restartCleared.disp.messages = Vector.replicate 64 none := rfl
  rw [delivery, messages, mapAll_get]
  exact ⟨rfl, rfl, fun i => Vector.getElem_replicate _⟩

theorem State.restartCleared_clips : s.restartCleared.mix.outClips = Vector.replicate 64 0 ∧ s.restartCleared.mix.sendClips = 0 :=
  ⟨rfl, rfl⟩

theorem LevelRec.restart_zero (l : LevelRec) : l.restart.envelope = 0 ∧ l.restart.meter = 0 ∧ l.restart.clips = 0 := ⟨rfl, rfl, rfl⟩

theorem MicRec.restart_closed (m : MicRec) : m.restart.state = .closed ∧ m.restart.flash = 0 ∧ m.restart.queued = false :=
  ⟨rfl, rfl, rfl⟩

theorem State.restartCleared_floor : s.restartCleared.floor.openList = [] ∧ s.restartCleared.floor.queue = [] ∧
    s.restartCleared.floor.mode = s.floor.mode ∧ s.restartCleared.floor.maxOpen = s.floor.maxOpen ∧
    ∀ i : Seat, s.restartCleared.floor.blocked[i] = false := by
  have blocked : s.restartCleared.floor.blocked = Vector.replicate 64 false := rfl
  rw [blocked]
  exact ⟨rfl, rfl, rfl, rfl, fun i => Vector.getElem_replicate _⟩

variable {s}

/-- An active session has ended; the records that wait, and the rosters, are kept. -/
theorem State.restartCleared_cal (h : s.TableOk) :
    s.restartCleared.cal.session = (if s.cal.session.isActive = true then .vacant else s.cal.session) ∧
    s.restartCleared.cal.bookings = s.cal.bookings.filter (fun b => !b.active) ∧
    s.restartCleared.cal.rosters = s.cal.rosters ∧ s.restartCleared.cal.stepPending = false := by
  have cal : s.restartCleared.cal = { s.cal.dropSession with stepPending := false } := rfl
  rw [cal, Calendar.dropSession]
  by_cases hs : s.cal.session.isActive = true
  · simp only [hs, if_true]
    exact ⟨trivial, trivial, trivial, trivial⟩
  · rw [if_neg hs, if_neg hs, h.none_active (by simpa using hs)]
    exact ⟨rfl, rfl, rfl, rfl⟩

/-- No session is active when the calendar evaluates. -/
theorem State.restartLeft_idle (h : s.TableOk) : s.restartLeft.evaluate = s.restartLeft.evaluateIdle := by
  have session := (State.restartCleared_cal h).1
  rw [← s.restartLeft_keeps .cal (by decide)] at session
  refine State.evaluate_idle ?_
  rw [session]
  cases s.cal.session <;> simp [Session.isActive]

/-- The evaluation of a warm restart leaves it what every block has done. -/
theorem State.warmRestart_keeps (h : s.TableOk) : s.restartLeft.evaluateIdle.keeps s.warmRestart.ended screenPieces := by
  rw [s.warmRestart_eq, State.restartLeft_idle h]
  exact State.keeps_ended (State.refreshScreens_keeps _) (by decide)

theorem State.warmRestart_left (h : s.TableOk) : s.restartLeft.keeps s.warmRestart.ended sessionPieces :=
  State.keeps_trans (State.evaluateIdle_keeps _) (State.keeps_mono (State.warmRestart_keeps h) (by decide))

/-- What the evaluation touches is cleared at most. -/
theorem State.warmRestart_rests (h : s.TableOk) : s.restartCleared.Rests s.warmRestart.ended :=
  (State.Rests.of_keeps s.restartLeft_keeps (by decide) (by decide) (by decide) (by decide)).trans
    (s.restartLeft.evaluateIdle_rests.trans
      (State.Rests.of_keeps (State.warmRestart_keeps h) (by decide) (by decide) (by decide) (by decide)))

theorem State.warmRestart_cleared (h : s.TableOk) :
    s.restartCleared.keeps s.warmRestart.ended ([.mgmt, .wings] ++ sessionPieces) :=
  State.keeps_trans (State.keeps_mono s.restartLeft_keeps (by decide)) (State.keeps_mono (State.warmRestart_left h) (by decide))

theorem State.warmRestart_clips (h : s.TableOk) (i : Seat) :
    s.warmRestart.ended.mix.outClips[i] = 0 ∧ s.warmRestart.ended.mix.sendClips = 0 := by
  obtain ⟨out, send, -⟩ := State.warmRestart_keeps h .mixCycle (by decide)
  obtain ⟨out', send'⟩ := s.restartLeft.evaluateIdle_clips
  obtain ⟨out'', send'', -⟩ := s.restartLeft_keeps .mixCycle (by decide)
  obtain ⟨out3, send3⟩ := s.restartCleared_clips
  rw [out, out', out'', out3, send, send', send'', send3]
  exact ⟨Vector.getElem_replicate _, rfl⟩

theorem State.warmRestart_position (h : s.TableOk) (p : Pos) :
    let t := s.warmRestart.ended
    t.level[p].envelope = 0 ∧ t.level[p].meter = 0 ∧ t.level[p].clips = 0 ∧
      t.disp.delivery[p].known = none ∧ t.disp.delivery[p].transfer = none := by
  have level : s.warmRestart.ended.level = s.restartCleared.level := State.warmRestart_cleared h .level (by decide)
  have delivery : s.warmRestart.ended.disp.delivery = s.restartCleared.disp.delivery :=
    State.warmRestart_cleared h .delivery (by decide)
  obtain ⟨known, transfer, -⟩ := s.restartCleared_display p
  obtain ⟨envelope, meter, clips⟩ := s.level[p].restart_zero
  simp only
  rw [level, s.restartCleared_level, delivery]
  exact ⟨envelope, meter, clips, known, transfer⟩

/-- The floor, the microphones and the displays of a warm restart. -/
theorem State.warmRestart_fresh (h : s.TableOk) :
    let t := s.warmRestart.ended
    t.floor.openList = [] ∧ t.floor.queue = [] ∧
    ∀ seat : Seat, (t.micOf seat).state = .closed ∧ (t.micOf seat).flash = 0 ∧ (t.micOf seat).queued = false ∧
      t.floor.blocked[seat] = false ∧ t.disp.messages[seat] = none := by
  have rests := State.warmRestart_rests h
  obtain ⟨openList, queue, -, -, blocked⟩ := s.restartCleared_floor
  refine ⟨rests.openList.trans openList, rests.queue.trans queue, fun seat => ?_⟩
  have mic : s.warmRestart.ended.micOf seat = (s.micOf seat).restart := by
    rw [← s.restartCleared_mic, State.micOf, State.micOf, rests.recs]
  obtain ⟨state, flash, queued⟩ := (s.micOf seat).restart_closed
  rw [mic]
  exact ⟨state, flash, queued, rests.blocked seat (blocked seat), rests.messages seat ((s.restartCleared_display 0).2.2 seat)⟩

/-- With the clock not set, the calendar does not evaluate. -/
theorem State.warmRestart_unsynced (h : s.TableOk) (hy : s.clock.sync = .unsynced) :
    s.restartCleared.keeps s.warmRestart.ended [.mgmt, .wings, .screens, .sending] := by
  have clock : s.restartLeft.clock = s.clock := (s.restartLeft_keeps .clock (by decide)).trans (s.restartCleared_keeps .clock (by decide))
  have same : s.restartLeft.evaluateIdle = s.restartLeft := if_pos (by rw [clock]; exact hy)
  have after := State.warmRestart_keeps h
  rw [same] at after
  exact State.keeps_trans s.restartLeft_keeps (State.keeps_mono after (by decide))

/-- With the clock set it evaluates. -/
theorem State.warmRestart_evaluated (h : s.TableOk) (hy : s.clock.sync ≠ .unsynced) :
    s.restartCleared.EvaluatedIdle s.warmRestart.ended := by
  have clock : s.restartLeft.clock = s.clock := (s.restartLeft_keeps .clock (by decide)).trans (s.restartCleared_keeps .clock (by decide))
  have cal : s.restartLeft.cal = s.restartCleared.cal := s.restartLeft_keeps .cal (by decide)
  have floor : s.restartLeft.floor = s.restartCleared.floor := s.restartLeft_keeps .floor (by decide)
  obtain ⟨idle, unique⟩ := h.left
  rw [← (State.restartCleared_cal h).2.1, ← cal] at idle unique
  have evaluated := (State.evaluateIdle_evaluated (s := s.restartLeft) (by rw [clock]; exact hy) idle unique).of_tables
    (s := s.restartCleared) (by rw [cal]) (by rw [cal]) (s.restartLeft_keeps .seats (by decide)) (by rw [floor]) (by rw [floor])
    (by rw [floor])
  have after := State.warmRestart_keeps h
  have mic := after .mic (by decide)
  exact evaluated.to (after .cal (by decide)) (congrArg Clock.now (after .clock (by decide))) (after .seats (by decide))
    (after .floor (by decide)) (congrArg MicBlock.speakLimit mic) (congrArg MicBlock.limitAction mic)
    (after .mixCycle (by decide)).2.2.1 (after .messages (by decide)) (after .cfg (by decide))

/-- The engine, the audio return and the store after a warm restart. -/
theorem State.warmRestart_rest (h : s.TableOk) (silent : Bool) (hd : s.mgmt.restart = .due silent) :
    let t := s.warmRestart.ended
    t.link.learnt = false ∧ t.link.buffer = [] ∧ t.mgmt.unlocked = false ∧ t.mgmt.dropped = 0 ∧ t.mgmt.malformed = 0 ∧
    t.mgmt.restart = .none ∧ t.mgmt.requests = (if silent then s.mgmt.requests.tail else s.mgmt.requests) ∧
    t.store.halted = false := by
  have mgmt : s.warmRestart.ended.mgmt = s.restartLeft.mgmt := State.warmRestart_left h .mgmt (by decide)
  obtain ⟨unlocked, dropped, malformed, restart, requests⟩ := s.restartLeft_mgmt
  have store : s.warmRestart.ended.store = s.restartCleared.store := State.warmRestart_cleared h .store (by decide)
  obtain ⟨learnt, -, buffer⟩ := State.warmRestart_cleared h .audioReturn (by decide)
  rw [hd] at requests
  simp only
  rw [mgmt, store]
  refine ⟨learnt, buffer, unlocked, dropped, malformed, restart, requests.trans ?_, rfl⟩
  cases silent <;> rfl

end Restart

/-! ## O44 -/

theorem exec_restartTakesEffect (s : State) : exec .restartTakesEffect s = whenPowered s State.takeRestart := rfl

/-- Settles O44: the blocks start afresh, and with no session left the evaluation that follows is one of an idle table. -/
theorem aWarmRestartKeepsSettingsAndRequests : Obligations.AWarmRestartKeepsSettingsAndRequests := by
  refine ⟨fun s silent hp hd h => ?_, fun s hp hr => ?_⟩
  · intro ended v
    have due : s.takeRestart = s.warmRestart := by rw [State.takeRestart, hd]
    have left := State.warmRestart_left h
    obtain ⟨session, bookings, rosters, pending⟩ := State.restartCleared_cal h
    obtain ⟨openList, queue, mode, maxOpen, -⟩ := s.restartCleared_floor
    obtain ⟨openList', queue', seats⟩ := State.warmRestart_fresh h
    obtain ⟨learnt, buffer, unlocked, dropped, malformed, restart, requests, halted⟩ :=
      State.warmRestart_rest h silent hd
    have passes : ∀ w, s.warmRestart.ended.passStarts w := fun w => by
      rw [State.passStarts, State.wing_congr left (by decide) w]
      exact s.restartLeft_wing w
    have kept : s.keeps s.warmRestart.ended [.wings, .level, .seats, .cal, .floor, .mic, .mixCycle, .messages, .delivery,
        .screens, .audioReturn, .sending, .linkCounters, .mgmt, .store] :=
      State.keeps_trans (State.keeps_mono s.restartCleared_keeps (by decide))
        (State.keeps_trans (State.keeps_mono s.restartLeft_keeps (by decide)) (State.keeps_mono left (by decide)))
    refine ⟨_, (exec_restartTakesEffect s).trans (whenPowered_next _ hp), ?_⟩
    rw [due]
    refine ⟨passes .a, passes .b, kept .pos (by decide), openList', queue', seats, State.warmRestart_position h, ?_, fun hy => ?_, fun hy => ?_,
      learnt, buffer, fun hy => ?_, unlocked, dropped, malformed, restart, requests, halted, (kept .tables (by decide)).1,
      kept .staged (by decide), fun i => (State.warmRestart_clips h i).1, (State.warmRestart_clips h 0).2, kept⟩
    · rw [State.warmRestart_keeps h .cal (by decide), State.evaluateIdle_stepPending, s.restartLeft_keeps .cal (by decide)]
      exact pending
    · have same := State.warmRestart_unsynced h hy
      have cal := same .cal (by decide)
      have floor := same .floor (by decide)
      exact ⟨(congrArg Calendar.session cal).trans session, (congrArg Calendar.bookings cal).trans bookings,
        same .seats (by decide), (congrArg Floor.mode floor).trans mode, (congrArg Floor.maxOpen floor).trans maxOpen⟩
    · exact (State.warmRestart_evaluated h hy).of_tables bookings rosters rfl openList queue mode
    · exact State.warmRestart_unsynced h hy .linkCounters (by decide)
  · have same : s.takeRestart = s := by
      rcases hr with h | h <;> rw [State.takeRestart, h]
    exact whenPowered_idle _ same

end Sys2Proof.Machine

namespace Sys2Proof.Machine

/-! ## CLOSING completes (02 R36; 03 R58) -/

/-- What the completion of CLOSING shows of a state. -/
def shownPieces : List Piece := [.cal, .clock, .seats, .floor, .mic, .mixCycle, .messages, .cfg]

section Completed
variable {s t u : State}

/-- Of the state before, a completion is about the bookings, the rosters, the seats, the floor and the clock's state. -/
theorem State.Completed.of_same (h : u.Completed t) (hb : u.cal.bookings = s.cal.bookings) (hr : u.cal.rosters = s.cal.rosters)
    (hseats : u.seats = s.seats) (hopen : u.floor.openList = s.floor.openList) (hqueue : u.floor.queue = s.floor.queue)
    (hmode : u.floor.mode = s.floor.mode) (hy : u.clock.sync = s.clock.sync) : s.Completed t := by
  obtain ⟨messages, pending, idle, evaluated⟩ := h
  refine ⟨messages, pending, fun k => ?_, fun k => ?_⟩
  · rw [← hb, ← hseats]
    exact idle (hy.trans k)
  · refine (evaluated fun e => k (hy ▸ e)).of_tables ?_ hr ?_ hopen hqueue hmode
    · simp only [hb]
    · simp only [hseats]

/-- What a completion shows is in both states. -/
theorem State.Completed.to (h : s.Completed t) (hcal : u.cal = t.cal) (hnow : u.clock.now = t.clock.now) (hseats : u.seats = t.seats)
    (hfloor : u.floor = t.floor) (hlimit : u.mic.speakLimit = t.mic.speakLimit) (haction : u.mic.limitAction = t.mic.limitAction)
    (hsend : u.mix.roomSend = t.mix.roomSend) (hmessages : u.disp.messages = t.disp.messages) (hcfg : u.cfg = t.cfg) :
    s.Completed u := by
  obtain ⟨messages, pending, idle, evaluated⟩ := h
  refine ⟨by rw [hmessages]; exact messages, by rw [hcal]; exact pending, fun k => ?_, fun k =>
    (evaluated k).to hcal hnow hseats hfloor hlimit haction hsend hmessages hcfg⟩
  rw [hcal, hseats]
  exact idle k

theorem State.Completed.after (h : s.Completed t) {l : List Piece} (k : t.keeps u l) (hl : ∀ p ∈ shownPieces, p ∉ l) :
    s.Completed u := by
  have mic := k .mic (hl _ (by decide))
  exact h.to (k .cal (hl _ (by decide))) (congrArg Clock.now (k .clock (hl _ (by decide)))) (k .seats (hl _ (by decide)))
    (k .floor (hl _ (by decide))) (congrArg MicBlock.speakLimit mic) (congrArg MicBlock.limitAction mic)
    (k .mixCycle (hl _ (by decide))).2.2.1 (k .messages (hl _ (by decide))) (k .cfg (hl _ (by decide)))

/-- The session's end work is done, and the calendar has not evaluated yet. -/
def State.sessionEnded (s : State) : State :=
  let w := ({ s with cal := { s.cal with bookings := s.cal.bookings.filter fun b => !b.active } }).endOfSessionWork
  ({ w with cal := { w.cal with session := .vacant, stepPending := false } }).clearMessages.refreshScreens

theorem State.completeClosing_eq (s : State) : s.completeClosing = s.sessionEnded.evaluateIdle := rfl

theorem State.sessionEnded_cal (s : State) : s.sessionEnded.cal = { s.cal with
    bookings := s.cal.bookings.filter (fun b => !b.active), session := .vacant, stepPending := false } := by
  simp [State.sessionEnded]

theorem State.sessionEnded_seats (s : State) : s.sessionEnded.seats = s.endOfSessionWork.seats := by
  simp [State.sessionEnded, State.endOfSessionWork]

theorem State.sessionEnded_keeps (s : State) : s.keeps s.sessionEnded [.cal, .seats, .messages, .screens, .sending] := by
  refine State.keeps_trans ?_ (State.keeps_mono (State.refreshScreens_keeps _) (by decide))
  intro p hp
  cases p <;> simp_all [State.agrees, State.clearMessages]

/-- The completion of CLOSING, of a table whose numbers are unique. -/
theorem State.completeClosing_completed (s : State) (hn : s.clock.sync ≠ .unsynced → (s.cal.bookings.map (·.number)).Nodup) :
    s.Completed s.completeClosing := by
  have floor : s.sessionEnded.floor = s.floor := s.sessionEnded_keeps .floor (by decide)
  have clock : s.sessionEnded.clock = s.clock := s.sessionEnded_keeps .clock (by decide)
  have cal := s.sessionEnded_cal
  refine ⟨s.completeClosing_messages, ?_, fun hy => ?_, fun hy => ?_⟩
  · rw [s.completeClosing_eq, State.evaluateIdle_stepPending, cal]
  · have same : s.sessionEnded.evaluateIdle = s.sessionEnded := if_pos (by rw [clock]; exact hy)
    rw [s.completeClosing_eq, same, cal, s.sessionEnded_seats]
    exact ⟨rfl, rfl, rfl⟩
  · have idle : ∀ b ∈ s.sessionEnded.cal.bookings, b.active = false := by
      rw [cal]
      exact fun b hb => by simpa using (List.mem_filter.1 hb).2
    have unique : (s.sessionEnded.cal.bookings.map (·.number)).Nodup := by
      rw [cal]
      exact (hn hy).sublist (List.filter_sublist.map _)
    refine (State.evaluateIdle_evaluated (by rw [clock]; exact hy) idle unique).of_tables ?_ ?_ s.sessionEnded_seats ?_ ?_ ?_
    · rw [cal]
    · rw [cal]
    · rw [floor]
    · rw [floor]
    · rw [floor]

end Completed

/-! ## CLOSING begins (03 R57; 05 R100) -/

section Closes
variable {s t u : State}

/-- A removal through the close gap moves a microphone that was OPENING or OPEN, and no other. -/
theorem State.removeCore_state (s : State) (seat i : Seat) {r : Reason} (hr : r.atOnce = false) :
    ((s.removeCore seat r).micOf i).state =
      if i = seat ∧ s.holds i = true ∧ ((s.micOf i).state = .opening ∨ (s.micOf i).state = .opened) then .closing
      else (s.micOf i).state := by
  by_cases hi : i = seat
  · subst hi
    cases hh : s.holds i with
    | false => rw [s.removeCore_of_not _ _ hh, if_neg (by simp)]
    | true =>
      rw [s.removeCore_micOf _ _ _ hr hh, s.micRemove_micOf]
      by_cases hm : (s.micOf i).state = .opening ∨ (s.micOf i).state = .opened <;> simp [hm]
  · rw [s.removeCore_micOf_ne _ _ _ hi, if_neg fun k => hi k.1]

theorem State.removeAll_state (l : List OpenEntry) {r : Reason} (hr : r.atOnce = false) (s : State) (i : Seat) :
    ((s.removeAll l r).micOf i).state =
      if (∃ e ∈ l, e.seat = i) ∧ s.holds i = true ∧ ((s.micOf i).state = .opening ∨ (s.micOf i).state = .opened) then .closing
      else (s.micOf i).state := by
  unfold State.removeAll
  induction l generalizing s with
  | nil => simp
  | cons x l ih =>
    have core := s.removeCore_state x.seat i hr
    rw [List.foldl_cons, ih]
    by_cases hi : i = x.seat
    · by_cases k : s.holds i = true ∧ ((s.micOf i).state = .opening ∨ (s.micOf i).state = .opened)
      · rw [if_pos ⟨hi, k⟩] at core
        have listed : ∃ e ∈ x :: l, e.seat = i := ⟨x, by simp, hi.symm⟩
        rw [core, if_neg (by simp), if_pos ⟨listed, k⟩]
      · have same : ¬ (i = x.seat ∧ s.holds i = true ∧ ((s.micOf i).state = .opening ∨ (s.micOf i).state = .opened)) := fun m => k m.2
        rw [if_neg same] at core
        have still : (s.removeCore x.seat r).holds i = true → s.holds i = true := fun h => by
          obtain ⟨e, he, hs⟩ := (State.holds_iff _ i).1 h
          rw [s.removeCore_openList] at he
          exact (s.holds_iff i).2 ⟨e, (List.mem_filter.1 he).1, hs⟩
        rw [core, if_neg fun m => k ⟨still m.2.1, m.2.2⟩, if_neg fun m => k m.2]
    · have holds : (s.removeCore x.seat r).holds i = s.holds i := by
        rw [Bool.eq_iff_iff, State.holds_iff, State.holds_iff, s.removeCore_openList]
        refine exists_congr fun e => ⟨fun ⟨he, k⟩ => ⟨(List.mem_filter.1 he).1, k⟩, fun ⟨he, k⟩ => ⟨List.mem_filter.2 ⟨he, ?_⟩, k⟩⟩
        simpa [k] using hi
      rw [if_neg fun m => hi m.1] at core
      rw [core, holds]
      refine if_congr (and_congr_left fun _ => ?_) rfl rfl
      simp [Ne.symm hi]

/-- What CLOSING finds of the microphones when it begins: those of the floor's holders go through their close gap. -/
theorem State.closingBegun_state (s : State) (c : EndCause) (i : Seat) : ((s.closingBegun c).micOf i).state =
    if s.holds i = true ∧ ((s.micOf i).state = .opening ∨ (s.micOf i).state = .opened) then .closing else (s.micOf i).state := by
  have emptied : ((s.closingEmptied c).micOf i).state =
      (((s.closingNamed c).removeAll (s.closingNamed c).floor.openList .sessionEnd).micOf i).state := by
    rw [State.closingEmptied, State.clearQueue_micOf]
    split <;> rfl
  rw [State.micOf_congr (s.closingBegun_frame c).2.1, emptied, State.removeAll_state _ rfl]
  have holds : (∃ e ∈ (s.closingNamed c).floor.openList, e.seat = i) ↔ s.holds i = true := (s.holds_iff i).symm
  refine if_congr ?_ rfl rfl
  rw [holds]
  exact ⟨fun k => k.2, fun k => ⟨k.1, k⟩⟩

theorem State.closingBegun_closed (s : State) (c : EndCause) (i : Seat) :
    ((s.closingBegun c).micOf i).state = .closed ↔ (s.micOf i).state = .closed := by
  rw [s.closingBegun_state]
  split
  · next k => rcases k.2 with k | k <;> simp [k]
  · rfl

/-- A removal of a seat whose microphone is CLOSED captures nothing. -/
theorem State.removeCore_seats_closed (s : State) (seat : Seat) {r : Reason} (hr : r.atOnce = false)
    (hc : (s.micOf seat).state = .closed) : (s.removeCore seat r).seats = s.seats := by
  have rest : ∀ f, (s.setFloor f).micRemove seat = s.setFloor f := fun f => by
    have state : ((s.setFloor f).micOf seat).state = .closed := hc
    rw [State.micRemove]
    simp only [state]
  unfold State.removeCore
  split
  · rfl
  · simp only [hr, Bool.false_eq_true, if_false, rest]
    simp

theorem State.closingBegun_seats (s : State) (c : EndCause) (h : ∀ i, (s.micOf i).state = .closed) :
    (s.closingBegun c).seats = s.seats := by
  have all : ∀ (l : List OpenEntry) (u : State), (∀ i, (u.micOf i).state = .closed) → (u.removeAll l .sessionEnd).seats = u.seats := by
    intro l
    induction l with
    | nil => exact fun _ _ => rfl
    | cons x l ih =>
      intro u hu
      have next : ∀ i, ((u.removeCore x.seat .sessionEnd).micOf i).state = .closed := fun i => by
        rw [u.removeCore_state _ _ rfl, if_neg (by simp [hu i]), hu i]
      exact (ih _ next).trans (u.removeCore_seats_closed x.seat rfl (hu _))
  rw [(s.closingBegun_frame c).2.2, State.closingEmptied, State.clearQueue_seats, all _ (s.closingNamed c) h]
  rfl

theorem State.closingBegun_clock (s : State) (c : EndCause) : (s.closingBegun c).clock = s.clock := by
  have emptied : (s.closingEmptied c).clock = (s.closingNamed c).clock :=
    (State.keeps_trans (State.removeAll_keeps _ _ _) (State.clearQueue_keeps _ _)) .clock (by decide)
  have told : (s.closingBegun c).clock = (s.closingEmptied c).clock := by
    unfold State.closingBegun
    generalize s.closingEmptied c = u
    rfl
  exact told.trans emptied

/-- CLOSING begins with its cause, and where every microphone is CLOSED it completes. -/
theorem State.startClosing_closes (s : State) (c : EndCause)
    (hn : (∀ i, (s.micOf i).state = .closed) → s.clock.sync ≠ .unsynced → (s.cal.bookings.map (·.number)).Nodup) :
    s.Closes (s.startClosing c) c := by
  have rests := (s.closingBegun c).reportClosed_rests
  have clock : (s.startClosing c).clock = s.clock := (s.startClosing_frame c).2.2.2.2.2.1
  obtain ⟨openList, queue, mode, -⟩ := s.closingBegun_floor c
  obtain ⟨r, cal, cause, start, finish, refusals, booking⟩ := s.closingBegun_cal c
  have mic : ∀ i, (s.startClosing c).micOf i = (s.closingBegun c).micOf i := fun i => by
    rw [s.startClosing_eq, State.micOf, rests.recs]
    rfl
  refine ⟨?_, ?_, fun i => ?_, ⟨r, ?_, cause, start, ?_, refusals, booking⟩, fun i hh hm => ?_, fun ⟨i, hi⟩ => ?_, fun h => ?_⟩
  · rw [s.startClosing_eq, rests.openList, openList]
  · rw [s.startClosing_eq, rests.queue, queue]
  · rw [s.startClosing_eq]
    exact rests.messages i (s.closingBegun_messages c i)
  · rw [s.startClosing_eq, rests.report, cal]
  · rw [clock, finish]
  · rw [mic, s.closingBegun_state, if_pos ⟨hh, hm⟩]
  · have open' : ((s.closingBegun c).micOf i).state ≠ .closed := fun k => hi ((s.closingBegun_closed c i).1 k)
    rw [clock, s.startClosing_eq, State.reportClosed_of_open _ open', cal]
    exact ⟨rfl, rfl, rfl, rfl, rfl⟩
  · have closed : (s.closingBegun c).allClosed = true := (State.allClosed_iff _).2 fun i => (s.closingBegun_closed c i).2 (h i)
    have completes : s.startClosing c = (s.closingBegun c).completeClosing := by
      rw [s.startClosing_eq, State.reportClosed, if_pos ⟨by rw [cal], closed⟩]
    rw [completes]
    refine ((s.closingBegun c).completeClosing_completed (by rw [cal, s.closingBegun_clock]; exact hn h)).of_same ?_ ?_ (s.closingBegun_seats c h) openList
      queue mode ?_
    · rw [cal]
    · rw [cal]
    · rw [s.closingBegun_clock]

/-- Of the state before, the beginning of CLOSING is about the calendar, the floor, the microphones, the seats and the clock. -/
theorem State.Closes.of_same {c : EndCause} (h : u.Closes t c) (hcal : u.cal = s.cal) (hfloor : u.floor = s.floor)
    (hmic : u.mic = s.mic) (hseats : u.seats = s.seats) (hclock : u.clock = s.clock) : s.Closes t c := by
  have mic : ∀ i, u.micOf i = s.micOf i := State.micOf_congr hmic
  have holds : ∀ i, u.holds i = s.holds i := State.holds_congr (by rw [hfloor])
  obtain ⟨openList, queue, none, report, gaps, closing, completed⟩ := h
  simp only [mic, holds, hcal, State.activeBooking] at report gaps closing completed
  exact ⟨openList, queue, none, report, gaps, closing, fun all => (completed all).of_same rfl rfl hseats rfl rfl
    (by rw [hfloor]) (by rw [hclock])⟩

/-- What CLOSING shows when it has begun is in both states. -/
theorem State.Closes.after {c : EndCause} (h : s.Closes t c) {l : List Piece} (k : t.keeps u l) (hl : ∀ p ∈ shownPieces, p ∉ l) :
    s.Closes u c := by
  have mic : ∀ i, u.micOf i = t.micOf i := State.micOf_congr (k .mic (hl _ (by decide)))
  have cal : u.cal = t.cal := k .cal (hl _ (by decide))
  have clock : u.clock = t.clock := k .clock (hl _ (by decide))
  have floor : u.floor = t.floor := k .floor (hl _ (by decide))
  have messages : u.disp.messages = t.disp.messages := k .messages (hl _ (by decide))
  obtain ⟨openList, queue, none, report, gaps, closing, completed⟩ := h
  refine ⟨by rw [floor]; exact openList, by rw [floor]; exact queue, by rw [messages]; exact none, by rw [cal, clock]; exact report,
    fun i hh hm => by rw [mic]; exact gaps i hh hm, fun hi => by rw [cal, clock]; exact closing hi, fun hc => (completed hc).after k hl⟩

end Closes

end Sys2Proof.Machine

namespace Sys2Proof.Machine

/-- The record of a seat, where the chair is as it was. -/
theorem State.seatRec_at {s t : State} {seat : Seat} (h : t.phys seat = s.phys seat) : t.seatRec seat = t.seats.recs[s.phys seat] := by
  rw [State.seatRec]
  simp only [h]

/-! ## An evaluation that reaches no limit (05 R106) -/

section Marks
variable {s : State} {seat : Seat}

/-- The marks of a turn that loses nothing. -/
def State.marksOf (s : State) (limit : Option Nat) (m : MicRec) : MicRec :=
  match limit with
  | none => { m with warning := false, overMark := false }
  | some l => { m with
      warning := decide (s.warnPoint l ≤ m.timer)
      overMark := s.mic.limitAction = .warn && decide (limitPoint l ≤ m.timer) }

/-- Where no limit under AUTO is reached, an evaluation marks the turn, and may send its notice. -/
theorem State.evaluateLimit_marks (ho : (s.micOf seat).state = .opened)
    (hr : ∀ l, s.limitOf seat = some l → s.mic.limitAction = .warn ∨ (s.micOf seat).timer < limitPoint l) :
    s.keeps (s.evaluateLimit seat) [.mic, .sending, .linkCounters] ∧
      ∀ i, (s.evaluateLimit seat).micOf i = if i = seat then s.marksOf (s.limitOf seat) (s.micOf seat) else s.micOf i := by
  cases hl : s.limitOf seat with
  | none =>
    rw [s.evaluateLimit_none seat ho hl]
    refine ⟨State.keeps_mono (s.setMic_keeps seat _) (by decide), fun i => ?_⟩
    rw [State.micOf_setMic]
    by_cases hi : i = seat
    · rw [if_pos hi, if_pos hi, hi]; rfl
    · rw [if_neg hi, if_neg hi]
  | some l =>
    have no : ¬ (s.mic.limitAction = .auto && decide (limitPoint l ≤ (s.micOf seat).timer)) = true := by
      rcases hr l hl with k | k
      · simp [k]
      · simp [show ¬ limitPoint l ≤ (s.micOf seat).timer by omega]
    rw [s.evaluateLimit_some seat ho hl, if_neg no]
    refine ⟨s.limitMarked_keeps seat l, fun i => ?_⟩
    rw [s.limitMarked_micOf]
    by_cases hi : i = seat
    · rw [if_pos hi, if_pos hi, hi]; rfl
    · rw [if_neg hi, if_neg hi]

/-- A new warning offers its LIMIT_WARN notice (05 R106). -/
theorem State.limitMarked_notified (l : Nat) (hw : (s.micOf seat).warning = false) (hr : s.warnPoint l ≤ (s.micOf seat).timer) :
    s.notified (s.limitMarked seat l) 0x03 (be8 seat.val ++ be16 l ++ be16 (s.micOf seat).timer) := by
  unfold State.limitMarked
  simp only [hw, hr, decide_true, Bool.not_false, Bool.and_self, if_true]
  exact State.notice_notified (s.setMic seat _) _ _

end Marks

/-! ## A microphone opens (05 R102) -/

section Opens
variable (s : State) (seat : Seat)

/-- The microphone is OPEN with a fresh turn, and the seat has spoken where the session runs; the limit is not evaluated yet. -/
def State.micOpened : State :=
  let u := s.setMic seat fun m => { m with state := .opened, gap := 0, timer := 0, cycles := 0 }
  if s.cal.session.runs then u.setRec (u.phys seat) fun r => { r with spoke := true } else u

theorem State.endGap_opening (h : (s.micOf seat).state = .opening) : s.endGap seat = (s.micOpened seat).evaluateLimit seat := by
  rw [State.endGap, h]
  rfl

theorem State.endGap_closing (h : (s.micOf seat).state = .closing) :
    s.endGap seat = (s.setMic seat fun m => { m with state := .closed, gap := 0 }).reportClosed := by
  rw [State.endGap, h]

theorem State.micOpened_keeps : s.keeps (s.micOpened seat) [.mic, .seats] := by
  unfold State.micOpened
  simp only
  split
  · exact State.keeps_trans (State.keeps_mono (s.setMic_keeps seat _) (by decide)) (State.keeps_mono (State.setRec_keeps _ _ _) (by decide))
  · exact State.keeps_mono (s.setMic_keeps seat _) (by decide)

theorem State.micOpened_micOf (i : Seat) : (s.micOpened seat).micOf i =
    if i = seat then { s.micOf i with state := .opened, gap := 0, timer := 0, cycles := 0 } else s.micOf i := by
  refine Eq.trans ?_ (s.micOf_setMic seat i fun m => { m with state := .opened, gap := 0, timer := 0, cycles := 0 })
  unfold State.micOpened
  simp only
  split <;> rfl

theorem State.micOpened_recs (p : Pos) : (s.micOpened seat).seats.recs[p] =
    if p = s.phys seat then { s.seats.recs[p] with spoke := s.cal.session.runs || s.seats.recs[p].spoke } else s.seats.recs[p] := by
  unfold State.micOpened
  simp only
  cases hr : s.cal.session.runs with
  | true => exact modify_get s.seats.recs _ p _
  | false =>
    rw [if_neg (by decide)]
    split <;> rfl

theorem State.micOpened_limits : s.SameLimits (s.micOpened seat) := by
  have chair : (s.micOpened seat).seats.chair = s.seats.chair := by
    unfold State.micOpened
    simp only
    split <;> rfl
  have mic : (s.micOpened seat).mic.speakLimit = s.mic.speakLimit ∧ (s.micOpened seat).mic.limitAction = s.mic.limitAction := by
    unfold State.micOpened
    simp only
    split <;> exact ⟨rfl, rfl⟩
  refine ⟨⟨chair, congrArg (·.session.isActive) (s.micOpened_keeps seat .cal (by decide)), fun p => ?_⟩, fun p => ?_, mic.1, mic.2,
    s.micOpened_keeps seat .cfg (by decide)⟩
  · rw [s.micOpened_recs]
    split <;> exact ⟨rfl, rfl⟩
  · rw [s.micOpened_recs]
    split <;> rfl

end Opens

/-! ## GAP_END (05 R102) -/

section GapEnd
variable {s : State} {seat : Seat}

theorem exec_gapEnd (hp : s.powered = true) (he : s.early.contains (.mic seat) = false) (hg : (s.micOf seat).gap ≤ 1)
    (hs : (s.micOf seat).state = .opening ∨ (s.micOf seat).state = .closing) :
    exec (.gapEnd seat) s = .next ((s.endGap seat).takeEarly (.mic seat)).ended := by
  have hx : exec (.gapEnd seat) s = whenPowered s fun s =>
    if (s.micOf seat).gapDue ∧ !s.early.contains (.mic seat) then (s.endGap seat).takeEarly (.mic seat) else s := rfl
  rw [hx, whenPowered_next _ hp, if_pos ⟨(MicRec.gapDue_iff _).2 ⟨hs, hg⟩, by rw [he]; rfl⟩]

theorem State.takeEarly_keeps (s : State) (e : Early) : s.keeps (s.takeEarly e) [.early] := by
  intro p hp
  cases p <;> simp_all [State.agrees]

/-- A step taken by its own command, with what ends every command. -/
theorem State.taken_keeps (s : State) (e : Early) : s.keeps (s.takeEarly e).ended (.early :: screenPieces) :=
  State.keeps_trans (State.keeps_mono (s.takeEarly_keeps e) (by decide)) (State.keeps_mono (State.ended_keeps _) (by decide))

theorem gapEnd_opens (hp : s.powered = true) (he : s.early.contains (.mic seat) = false) (hg : (s.micOf seat).gap ≤ 1)
    (hs : (s.micOf seat).state = .opening) :
    ∃ t, exec (.gapEnd seat) s = .next t ∧ s.keeps t ([.mic, .seats, .early, .linkCounters] ++ screenPieces) ∧
      (t.micOf seat).state = .opened ∧ (t.micOf seat).timer = 0 ∧ (t.micOf seat).cycles = 0 ∧ (t.micOf seat).overMark = false ∧
      (t.micOf seat).warning = (match s.limitOf seat with | some l => decide (l ≤ s.cfg.warnTime) | none => false) ∧
      (∀ i, i ≠ seat → t.micOf i = s.micOf i) ∧
      t.seatRec seat = { s.seatRec seat with spoke := s.cal.session.runs || (s.seatRec seat).spoke } ∧
      (∀ p, p ≠ s.phys seat → t.seats.recs[p] = s.seats.recs[p]) := by
  have own : (s.micOpened seat).micOf seat = { s.micOf seat with state := .opened, gap := 0, timer := 0, cycles := 0 } := by
    rw [s.micOpened_micOf, if_pos rfl]
  have limits := s.micOpened_limits seat
  have kept := s.micOpened_keeps seat
  obtain ⟨marksKeep, marks⟩ := State.evaluateLimit_marks (s := s.micOpened seat) (seat := seat) (by rw [own]) fun l hl =>
    .inr (by rw [own]; exact Nat.mul_pos (State.limitOf_pos hl) (by decide))
  rw [limits.limitOf, own] at marks
  have taken := State.taken_keeps (s.endGap seat) (.mic seat)
  rw [s.endGap_opening seat hs] at taken
  refine ⟨_, exec_gapEnd hp he hg (.inl hs), ?_⟩
  rw [s.endGap_opening seat hs]
  set t := (((s.micOpened seat).evaluateLimit seat).takeEarly (.mic seat)).ended
  have mics : ∀ i, t.micOf i = ((s.micOpened seat).evaluateLimit seat).micOf i := State.micOf_congr (taken .mic (by decide))
  have seats : t.seats = (s.micOpened seat).seats := (taken .seats (by decide)).trans (marksKeep .seats (by decide))
  have cfg : (s.micOpened seat).cfg = s.cfg := kept .cfg (by decide)
  have limit : ∀ l, s.limitOf seat = some l → 0 < l := fun l hl => State.limitOf_pos hl
  rw [mics, marks, if_pos rfl]
  refine ⟨?_, ?_, ?_, ?_, ?_, ?_, fun i hi => ?_, ?_, fun p hp => ?_⟩
  · exact State.keeps_trans (State.keeps_mono kept (by decide)) (State.keeps_trans (State.keeps_mono marksKeep (by decide))
      (State.keeps_mono taken (by decide)))
  · cases s.limitOf seat <;> rfl
  · cases s.limitOf seat <;> rfl
  · cases s.limitOf seat <;> rfl
  · cases hl : s.limitOf seat with
    | none => rfl
    | some l =>
      have := limit l hl
      simp [State.marksOf, limitPoint]
      omega
  · cases hl : s.limitOf seat with
    | none => rfl
    | some l =>
      simp [State.marksOf, State.warnPoint, cfg]
      omega
  · rw [mics, marks, if_neg hi, s.micOpened_micOf, if_neg hi]
  · rw [State.seatRec_congr seats, State.seatRec_at (State.phys_congr limits.classes.1 seat), s.micOpened_recs, if_pos rfl]
    rfl
  · rw [seats, s.micOpened_recs, if_neg hp]

theorem gapEnd_closes (hp : s.powered = true) (he : s.early.contains (.mic seat) = false) (hg : (s.micOf seat).gap ≤ 1)
    (hs : (s.micOf seat).state = .closing) (hc : s.cal.session ≠ .closing ∨ ∃ i, i ≠ seat ∧ (s.micOf i).state ≠ .closed) :
    ∃ t, exec (.gapEnd seat) s = .next t ∧ s.keeps t ([.mic, .early] ++ screenPieces) ∧
      t.micOf seat = { s.micOf seat with state := .closed, gap := 0 } ∧ (∀ i, i ≠ seat → t.micOf i = s.micOf i) := by
  set u := s.setMic seat fun m => { m with state := .closed, gap := 0 } with hu
  have mic : ∀ i, u.micOf i = if i = seat then { s.micOf i with state := .closed, gap := 0 } else s.micOf i := fun i =>
    s.micOf_setMic seat i _
  have same : s.endGap seat = u := by
    rw [s.endGap_closing seat hs, ← hu]
    rcases hc with hc | ⟨i, hi, open'⟩
    · exact if_neg fun k => hc k.1
    · exact State.reportClosed_of_open _ (i := i) (by rw [mic, if_neg hi]; exact open')
  have taken := State.taken_keeps u (.mic seat)
  refine ⟨_, exec_gapEnd hp he hg (.inr hs), ?_⟩
  rw [same]
  refine ⟨State.keeps_trans (State.keeps_mono (s.setMic_keeps seat _) (by decide)) (State.keeps_mono taken (by decide)), ?_,
    fun i hi => ?_⟩
  · rw [State.micOf_congr (taken .mic (by decide)), mic, if_pos rfl]
  · rw [State.micOf_congr (taken .mic (by decide)), mic, if_neg hi]

end GapEnd

/-! ## TURN_TIMER_ADVANCE (05 R104, R106, R107) -/

section Turn
variable {s m t : State} {seat : Seat} {r : Reason}

/-- In GRACE the holder of an OPEN microphone leaves the floor from a state that differs in the turn's timer and marks and in
what it sent; the last one's removal begins CLOSING. -/
theorem State.leavesTheFloor_inGrace (hm : s.keeps m [.mic, .sending, .linkCounters]) (hmics : ∀ i, i ≠ seat → m.micOf i = s.micOf i)
    (hs : (s.micOf seat).state = .opened) (ho : (m.micOf seat).state = .opened) (hg : s.cal.session = .grace)
    (hh : s.holds seat = true) (hr : r.atOnce = false) (ht : (m.removeThenAdvance seat r).keeps t (.early :: screenPieces)) :
    s.LeavesTheFloor t seat ∧ (t.micOf seat).timer = 0 := by
  have floor : m.floor = s.floor := hm .floor (by decide)
  have cal : m.cal = s.cal := hm .cal (by decide)
  have cfg : m.cfg = s.cfg := hm .cfg (by decide)
  have holds : m.holds seat = true := (State.holds_congr (by rw [floor]) seat).trans hh
  have mic : ∀ i, t.micOf i = (m.removeThenAdvance seat r).micOf i := State.micOf_congr (ht .mic (by decide))
  have coreMic : (m.removeCore seat r).micOf seat = { (m.micOf seat).endTurn with state := .closing, gap := s.cfg.closeGap } := by
    rw [m.removeCore_micOf _ _ _ hr holds, m.micRemove_micOf, if_pos ⟨rfl, .inr ho⟩, if_pos ho, cfg]
  have coreOpen : (m.removeCore seat r).floor.openList = s.floor.openList.filter fun x => x.seat ≠ seat := by
    rw [m.removeCore_openList, floor]
  have coreCal : (m.removeCore seat r).cal = s.cal := (m.removeCore_keeps seat r .cal (by decide)).trans cal
  obtain ⟨queue, mode, maxOpen, -⟩ := m.removeCore_queue seat r
  have tfloor : t.floor = (m.removeThenAdvance seat r).floor := ht .floor (by decide)
  have tcal : t.cal = (m.removeThenAdvance seat r).cal := ht .cal (by decide)
  rcases m.removeThenAdvance_cases seat r holds with ⟨-, empty, e⟩ | ⟨more, e⟩
  · have last : s.floor.openList.filter (fun x => x.seat ≠ seat) = [] := coreOpen ▸ empty
    have closes := ((m.removeCore seat r).startClosing_closes .floorEmpty fun all => by
      have := all seat
      rw [coreMic] at this
      cases this).after (u := t) (by rw [← e]; exact ht) (by decide)
    obtain ⟨begun, -⟩ := State.removal_closes hr holds (by rw [cal, hg]) (.inr ho) (by rw [floor]; exact last)
    obtain ⟨bopen, bqueue, bmode, bmax, -⟩ := (m.removeCore seat r).closingBegun_floor .floorEmpty
    have own : (t.micOf seat).state = .closing ∧ (t.micOf seat).gap = s.cfg.closeGap ∧ (t.micOf seat).timer = 0 := by
      rw [mic, begun, State.closingBegun_micOf _ _ empty, coreMic]
      split <;> exact ⟨rfl, rfl, rfl⟩
    rw [begun] at tfloor
    obtain ⟨openList, queue', messages, ⟨report, stored, cause, start, finish, refusals, booking⟩, gaps, closing, -⟩ := closes
    rw [coreCal] at start refusals closing
    refine ⟨⟨by rw [tfloor, bopen, last], by rw [tfloor, bmode, mode, floor], by rw [tfloor, bmax, maxOpen, floor],
      fun _ => ⟨own.1, own.2.1⟩, fun k => ?_, fun _ _ _ => ⟨openList, queue', messages, ⟨report, stored, cause, start, finish,
        refusals, fun b hb => booking b (by rw [State.activeBooking, coreCal]; exact hb)⟩, fun i hi _ => ?_, fun _ =>
        closing ⟨seat, by rw [coreMic]; exact MicState.noConfusion⟩, fun all => ?_⟩⟩, own.2.2⟩
    · rcases k with k | k
      · rw [hg] at k; cases k
      · exact absurd last k
    · have only : i = seat := by
        by_contra ne
        obtain ⟨x, hx, rfl⟩ := (s.holds_iff i).1 hi
        exact List.not_mem_nil (last ▸ List.mem_filter.2 ⟨hx, by simpa using ne⟩)
      rw [only]
      exact own.1
    · have := all seat
      rw [hs] at this
      cases this
  · have still : (m.removeCore seat r).autoAdvance = m.removeCore seat r := by
      rcases (m.removeCore seat r).autoAdvance_cases with k | ⟨-, k, -⟩
      · exact k
      · rw [coreCal, hg] at k; cases k
    have left : s.floor.openList.filter (fun x => x.seat ≠ seat) ≠ [] := fun k => more ⟨by rw [cal, hg], coreOpen.trans k⟩
    rw [e, still] at tfloor tcal
    have own : (t.micOf seat).state = .closing ∧ (t.micOf seat).gap = s.cfg.closeGap ∧ (t.micOf seat).timer = 0 := by
      rw [mic, e, still, coreMic]
      exact ⟨rfl, rfl, rfl⟩
    refine ⟨⟨by rw [tfloor, coreOpen], by rw [tfloor, mode, floor], by rw [tfloor, maxOpen, floor], fun _ => ⟨own.1, own.2.1⟩,
      fun _ => ⟨by rw [tcal, coreCal], by rw [tfloor, queue, floor], fun i hi => ?_⟩, fun _ k => absurd k left⟩, own.2.2⟩
    rw [mic, e, still, m.removeCore_micOf_ne _ _ _ hi, hmics i hi]

theorem exec_turnTimerAdvance (hp : s.powered = true) (he : s.early.contains (.mic seat) = false)
    (hs : (s.micOf seat).state = .opened) (hc : 199 ≤ (s.micOf seat).cycles) :
    exec (.turnTimerAdvance seat) s = .next ((s.advanceTurn seat).takeEarly (.mic seat)).ended := by
  have hx : exec (.turnTimerAdvance seat) s = whenPowered s fun s =>
    if (s.micOf seat).turnDue ∧ !s.early.contains (.mic seat) then (s.advanceTurn seat).takeEarly (.mic seat) else s := rfl
  rw [hx, whenPowered_next _ hp, if_pos ⟨(MicRec.turnDue_iff _).2 ⟨hs, hc⟩, by rw [he]; rfl⟩]

/-- The turn has advanced by a tenth, and its limit is not evaluated yet. -/
def State.tenthOn (s : State) (seat : Seat) : State := s.setMic seat fun m => { m with timer := satAdd m.timer 1, cycles := 0 }

theorem State.advanceTurn_eq (s : State) (seat : Seat) : s.advanceTurn seat = (s.tenthOn seat).evaluateLimit seat := rfl

theorem State.tenthOn_keeps (s : State) (seat : Seat) : s.keeps (s.tenthOn seat) [.mic] := s.setMic_keeps seat _

theorem State.tenthOn_limits (s : State) (seat : Seat) : s.SameLimits (s.tenthOn seat) := s.setMic_limits seat _

theorem State.tenthOn_micOf (s : State) (seat i : Seat) : (s.tenthOn seat).micOf i =
    if i = seat then { s.micOf i with timer := min 65535 ((s.micOf i).timer + 1), cycles := 0 } else s.micOf i :=
  s.micOf_setMic seat i _

/-- A tenth of a turn that reaches no limit under AUTO. -/
theorem State.advanceTurn_marks (hs : (s.micOf seat).state = .opened)
    (hl : ∀ l, s.limitOf seat = some l → s.mic.limitAction = .warn ∨ min 65535 ((s.micOf seat).timer + 1) < l * 10) :
    s.keeps (s.advanceTurn seat) [.mic, .sending, .linkCounters] ∧ ∀ i, (s.advanceTurn seat).micOf i =
      if i = seat then (s.tenthOn seat).marksOf (s.limitOf seat)
        { s.micOf seat with timer := min 65535 ((s.micOf seat).timer + 1), cycles := 0 } else s.micOf i := by
  have own := s.tenthOn_micOf seat seat
  rw [if_pos rfl] at own
  have limits := s.tenthOn_limits seat
  obtain ⟨keeps, mics⟩ := State.evaluateLimit_marks (s := s.tenthOn seat) (seat := seat) (by rw [own]; exact hs) fun l k => by
    rw [limits.limitOf] at k
    rw [limits.limitAction, own]
    exact hl l k
  rw [limits.limitOf, own] at mics
  rw [s.advanceTurn_eq]
  refine ⟨State.keeps_trans (State.keeps_mono (s.tenthOn_keeps seat) (by decide)) keeps, fun i => ?_⟩
  rw [mics, s.tenthOn_micOf]
  by_cases hi : i = seat
  · rw [if_pos hi, if_pos hi]
  · rw [if_neg hi, if_neg hi, if_neg hi]

/-- A turn without a limit: not even a notice is sent. -/
theorem State.advanceTurn_none (hs : (s.micOf seat).state = .opened) (hl : s.limitOf seat = none) :
    s.keeps (s.advanceTurn seat) [.mic] := by
  have own := s.tenthOn_micOf seat seat
  rw [if_pos rfl] at own
  rw [s.advanceTurn_eq, State.evaluateLimit_none _ _ (by rw [own]; exact hs) (((s.tenthOn_limits seat).limitOf seat).trans hl)]
  exact State.keeps_trans (s.tenthOn_keeps seat) (State.setMic_keeps _ _ _)

/-- A new warning of a turn is told (05 R106). -/
theorem State.advanceTurn_notified (hs : (s.micOf seat).state = .opened) {l : Nat} (hl : s.limitOf seat = some l)
    (hr : s.mic.limitAction = .warn ∨ min 65535 ((s.micOf seat).timer + 1) < l * 10) (hw : (s.micOf seat).warning = false)
    (ht : (l - s.cfg.warnTime) * 10 ≤ min 65535 ((s.micOf seat).timer + 1)) :
    s.notified (s.advanceTurn seat) 0x03 (be8 seat.val ++ be16 l ++ be16 (min 65535 ((s.micOf seat).timer + 1))) := by
  have own := s.tenthOn_micOf seat seat
  rw [if_pos rfl] at own
  have limits := s.tenthOn_limits seat
  have no : ¬ ((s.tenthOn seat).mic.limitAction = .auto && decide (limitPoint l ≤ ((s.tenthOn seat).micOf seat).timer)) = true := by
    rw [limits.limitAction, own, limitPoint]
    rcases hr with k | k
    · simp [k]
    · simp
      omega
  rw [s.advanceTurn_eq, State.evaluateLimit_some _ _ (by rw [own]; exact hs) ((limits.limitOf seat).trans hl), if_neg no]
  have told := State.limitMarked_notified (s := s.tenthOn seat) (seat := seat) l (by rw [own]; exact hw)
    (by rw [own, State.warnPoint, limits.cfg]; exact ht)
  rw [own] at told
  exact told

/-- A turn that reaches its limit under AUTO: the seat is taken off the floor, from a state that has its marks. -/
theorem State.advanceTurn_reached (hs : (s.micOf seat).state = .opened) {l : Nat} (hl : s.limitOf seat = some l)
    (ha : s.mic.limitAction = .auto) (hr : l * 10 ≤ min 65535 ((s.micOf seat).timer + 1)) :
    ∃ m, s.advanceTurn seat = m.removeThenAdvance seat .limit ∧ s.keeps m [.mic, .sending, .linkCounters] ∧
      (∀ i, i ≠ seat → m.micOf i = s.micOf i) ∧ (m.micOf seat).state = .opened ∧
      (m.micOf seat).timer = min 65535 ((s.micOf seat).timer + 1) := by
  have own := s.tenthOn_micOf seat seat
  rw [if_pos rfl] at own
  have limits := s.tenthOn_limits seat
  have reached : ((s.tenthOn seat).mic.limitAction = .auto && decide (limitPoint l ≤ ((s.tenthOn seat).micOf seat).timer)) = true := by
    rw [limits.limitAction, own, limitPoint]
    simp [ha]
    omega
  refine ⟨(s.tenthOn seat).limitMarked seat l, ?_, ?_, fun i hi => ?_, ?_, ?_⟩
  · rw [s.advanceTurn_eq, State.evaluateLimit_some _ _ (by rw [own]; exact hs) ((limits.limitOf seat).trans hl), if_pos reached]
  · exact State.keeps_trans (State.keeps_mono (s.tenthOn_keeps seat) (by decide)) (State.limitMarked_keeps _ seat l)
  · rw [State.limitMarked_micOf, if_neg hi, s.tenthOn_micOf, if_neg hi]
  · rw [State.limitMarked_micOf, if_pos rfl, own]
    exact hs
  · rw [State.limitMarked_micOf, if_pos rfl, own]

end Turn

/-! ## O31 -/

section TurnTimer
variable {s : State} {seat : Seat} {l : Nat}

/-- The clause of O31 on a turn without a limit, of a state that a command leaves after it. -/
theorem turnTimerAdvance_unlimited {t : State} (hs : (s.micOf seat).state = .opened) (hl : s.limitOf seat = none)
    (taken : (s.advanceTurn seat).keeps t (.early :: screenPieces)) :
    s.keeps t ([.mic, .early] ++ screenPieces) ∧ (∀ i, i ≠ seat → t.micOf i = s.micOf i) ∧
      t.micOf seat = { s.micOf seat with timer := min 65535 ((s.micOf seat).timer + 1), cycles := 0, warning := false,
                                         overMark := false } := by
  have mic := State.micOf_congr (taken .mic (by decide))
  obtain ⟨-, mics⟩ := State.advanceTurn_marks hs fun k hk => by rw [hl] at hk; cases hk
  rw [hl] at mics
  refine ⟨State.keeps_trans (State.keeps_mono (State.advanceTurn_none hs hl) (by decide)) (State.keeps_mono taken (by decide)),
    fun i hi => ?_, ?_⟩
  · rw [mic, mics, if_neg hi]
  · rw [mic, mics, if_pos rfl]
    rfl

/-- The clause on a turn that loses the floor in GRACE. -/
theorem turnTimerAdvance_inGrace {t : State} (hs : (s.micOf seat).state = .opened) (hl : s.limitOf seat = some l)
    (ha : s.mic.limitAction = .auto) (hr : l * 10 ≤ min 65535 ((s.micOf seat).timer + 1)) (hh : s.holds seat = true)
    (hg : s.cal.session = .grace) (taken : (s.advanceTurn seat).keeps t (.early :: screenPieces)) :
    s.keeps t (.early :: sessionPieces) ∧ s.LeavesTheFloor t seat ∧ (t.micOf seat).timer = 0 := by
  obtain ⟨m, e, kept, others, opened, -⟩ := State.advanceTurn_reached hs hl ha hr
  refine ⟨State.keeps_trans (State.keeps_mono (s.advanceTurn_keeps seat) (by decide)) (State.keeps_mono taken (by decide)), ?_⟩
  rw [e] at taken
  exact State.leavesTheFloor_inGrace kept others hs opened hg hh rfl taken

/-- The clause on a turn that keeps the floor. -/
theorem turnTimerAdvance_marks {t : State} (hs : (s.micOf seat).state = .opened) (hl : s.limitOf seat = some l)
    (hr : s.mic.limitAction = .warn ∨ min 65535 ((s.micOf seat).timer + 1) < l * 10)
    (taken : (s.advanceTurn seat).keeps t (.early :: screenPieces)) (queue : (s.advanceTurn seat).link.queue <+: t.link.queue) :
    let timer := min 65535 ((s.micOf seat).timer + 1)
    s.keeps t ([.mic, .early, .linkCounters] ++ screenPieces) ∧ (∀ i, i ≠ seat → t.micOf i = s.micOf i) ∧
      t.micOf seat = { s.micOf seat with timer := timer, cycles := 0,
                                         warning := decide ((l - s.cfg.warnTime) * 10 ≤ timer),
                                         overMark := decide (s.mic.limitAction = .warn ∧ l * 10 ≤ timer) } ∧
      ((s.micOf seat).warning = false → (l - s.cfg.warnTime) * 10 ≤ timer →
        s.notified t 0x03 (be8 seat.val ++ be16 l ++ be16 timer)) := by
  obtain ⟨keeps, mics⟩ := State.advanceTurn_marks hs fun k hk => by
    obtain rfl : l = k := Option.some.inj (hl.symm.trans hk)
    exact hr
  rw [hl] at mics
  have mic : ∀ i, t.micOf i = (s.advanceTurn seat).micOf i := State.micOf_congr (taken .mic (by decide))
  intro timer
  refine ⟨State.keeps_trans (State.keeps_mono keeps (by decide)) (State.keeps_mono taken (by decide)), fun i hi => ?_, ?_,
    fun hw ht => State.notified_mono (State.advanceTurn_notified hs hl hr hw ht) queue⟩
  · rw [mic, mics, if_neg hi]
  · have same : decide (s.mic.limitAction = .warn ∧ l * 10 ≤ timer) = (decide (s.mic.limitAction = .warn) && decide (l * 10 ≤ timer)) :=
      Bool.decide_and _ _
    rw [mic, mics, if_pos rfl, same]
    rfl

/-- The clause on a turn that loses the floor while the session goes on. -/
theorem turnTimerAdvance_removes {t : State} (hs : (s.micOf seat).state = .opened) (hl : s.limitOf seat = some l)
    (ha : s.mic.limitAction = .auto) (hr : l * 10 ≤ min 65535 ((s.micOf seat).timer + 1)) (hh : s.holds seat = true)
    (hi : s.cal.session = .inSession) (hq : s.noAdvance) (taken : (s.advanceTurn seat).keeps t (.early :: screenPieces)) :
    s.keeps t (.early :: floorPieces) ∧ (∀ i, i ≠ seat → t.micOf i = s.micOf i) ∧
      (t.micOf seat).state = .closing ∧ (t.micOf seat).gap = s.cfg.closeGap ∧
      (t.seatRec seat).lastTurn = min 65535 ((s.micOf seat).timer + 1) ∧
      t.floor.openList = s.floor.openList.filter (fun x => x.seat ≠ seat) ∧ t.floor.queue = s.floor.queue := by
  obtain ⟨m, e, kept, others, opened, timer⟩ := State.advanceTurn_reached hs hl ha hr
  have floor : m.floor = s.floor := kept .floor (by decide)
  have cal : m.cal = s.cal := kept .cal (by decide)
  have cfg : m.cfg = s.cfg := kept .cfg (by decide)
  have seats : m.seats = s.seats := kept .seats (by decide)
  have holds : m.holds seat = true := (State.holds_congr (by rw [floor]) seat).trans hh
  rw [e, m.removeThenAdvance_plain seat .limit (by rw [cal, hi]; decide) (State.noAdvance_congr hq (by rw [floor]) cfg)] at taken
  have mic := State.micOf_congr (taken .mic (by decide))
  have coreMic := m.removeCore_micOf seat seat .limit rfl holds
  rw [m.micRemove_micOf, if_pos ⟨rfl, .inr opened⟩, if_pos opened] at coreMic
  refine ⟨State.keeps_trans (State.keeps_mono kept (by decide)) (State.keeps_trans (State.keeps_mono (m.removeCore_keeps seat .limit)
    (by decide)) (State.keeps_mono taken (by decide))), fun i hi => ?_, ?_, ?_, ?_, ?_, ?_⟩
  · rw [mic, m.removeCore_micOf_ne _ _ _ hi, others i hi]
  · rw [mic, coreMic]
  · rw [mic, coreMic, cfg]
  · have recs := m.removeCore_recs seat (m.phys seat) .limit holds
    rw [if_pos ⟨rfl, opened⟩, timer] at recs
    rw [State.seatRec_congr (taken .seats (by decide)), State.seatRec_at (State.phys_congr (m.removeCore_chair seat .limit).1 seat),
      recs]
    rfl
  · rw [taken .floor (by decide), m.removeCore_openList, floor]
  · rw [taken .floor (by decide), (m.removeCore_queue seat .limit).1, floor]

end TurnTimer

/-- Settles O31: each step is its own effect and an evaluation of the limit, which marks the turn or removes the seat. -/
theorem gapsEndAndTurnsAdvance : Obligations.GapsEndAndTurnsAdvance := by
  refine ⟨fun s seat hp he hg => ⟨fun hs => gapEnd_opens hp he hg hs, fun hs hc => gapEnd_closes hp he hg hs hc⟩,
    fun s seat hp he hs hc => ?_⟩
  have taken := State.taken_keeps (s.advanceTurn seat) (.mic seat)
  have queue : (s.advanceTurn seat).link.queue <+: _ := State.ended_queue ((s.advanceTurn seat).takeEarly (.mic seat))
  have hx := exec_turnTimerAdvance hp he hs hc
  generalize ((s.advanceTurn seat).takeEarly (.mic seat)).ended = t at taken queue hx
  intro timer
  refine ⟨t, hx, fun hl => turnTimerAdvance_unlimited hs hl taken, fun l hl hr => turnTimerAdvance_marks hs hl hr taken queue,
    fun l hl ha hr hh hi hq => turnTimerAdvance_removes hs hl ha hr hh hi hq taken, fun l hl ha hr hh hg =>
    turnTimerAdvance_inGrace hs hl ha hr hh hg taken⟩

end Sys2Proof.Machine

namespace Sys2Proof.Machine

/-! ## The end of GRACE (03 R55) -/

theorem foldl_min_eq {l : List Nat} {m : Nat} (h : ∀ x ∈ l, m ≤ x) : l.foldl min m = m := by
  induction l with
  | nil => rfl
  | cons x l ih =>
    rw [List.foldl_cons, Nat.min_eq_left (h x (by simp))]
    exact ih fun y hy => h y (by simp [hy])

/-- Of numbers in their order the first alone can lower a bound. -/
theorem foldl_min_head {l : List Nat} (f : Nat) (h : l.Pairwise (· ≤ ·)) :
    l.foldl min f = match l.head? with | none => f | some n => min f n := by
  cases l with
  | nil => rfl
  | cons n l =>
    rw [List.pairwise_cons] at h
    exact foldl_min_eq fun x hx => (Nat.min_le_right _ _).trans (h.1 x hx)

section Settles
variable {s t : State} {b : Booking}

/-- The end of GRACE after what is MISSED has gone, of a table in start order. -/
theorem State.graceEndOf_left (h : bookingsOk s.cal.bookings) (hy : s.clock.sync ≠ .unsynced) :
    s.removeMissed.graceEndOf b = ((waitingOf s.remaining).map (·.start)).foldl min (b.start + b.duration + b.grace) := by
  have sorted : ((waitingOf s.remaining).map (·.start)).Pairwise (· ≤ ·) := by
    have all : s.cal.bookings.Pairwise fun a b => a.start ≤ b.start := h.2.2.2.imp fun k => k.1
    exact List.pairwise_map.2 ((all.sublist List.filter_sublist).sublist List.filter_sublist)
  have sync : s.removeMissed.clock.sync ≠ .unsynced := by
    rw [s.removeMissed_rest .clock (by decide)]
    exact hy
  have next : s.removeMissed.nextBooking = (waitingOf s.remaining).head? := by rw [State.nextBooking, s.removeMissed_cal]
  have finish : b.finish = b.start + b.duration := rfl
  rw [foldl_min_head _ sorted, List.head?_map, State.graceEndOf, next, finish]
  cases hs : s.removeMissed.clock.sync with
  | unsynced => exact absurd hs sync
  | synced => cases (waitingOf s.remaining).head? <;> rfl
  | holdover => cases (waitingOf s.remaining).head? <;> rfl

/-! ## The test of a session's end, case by case (03 R55, R56) -/

theorem State.testEnd_grace (hs : s.cal.session = .inSession) (hb : s.activeBooking = some b) (hf : b.finish ≤ s.clock.now.minute)
    (hg : 0 < b.grace ∧ s.clock.now.minute < s.graceEndOf b ∧ s.floor.openList ≠ []) :
    s.testEnd = { s with cal := { s.cal with session := .grace, graceEnd := some (s.graceEndOf b) } } := by
  simp only [State.testEnd, hb, hs, hf, if_true, if_pos hg]

theorem State.testEnd_ends (hs : s.cal.session = .inSession) (hb : s.activeBooking = some b) (hf : b.finish ≤ s.clock.now.minute)
    (hg : ¬ (0 < b.grace ∧ s.clock.now.minute < s.graceEndOf b ∧ s.floor.openList ≠ [])) :
    s.testEnd = s.startClosing .endTime := by
  simp only [State.testEnd, hb, hs, hf, if_true, if_neg hg]

theorem State.testEnd_returns (hs : s.cal.session = .grace) (hb : s.activeBooking = some b) (hf : s.clock.now.minute < b.finish)
    (hq : s.noAdvance) : s.testEnd = { s with cal := { s.cal with session := .inSession, graceEnd := none } } := by
  simp only [State.testEnd, hb, hs, hf, if_true]
  exact State.autoAdvance_off _ hq

theorem State.testEnd_inGrace (hs : s.cal.session = .grace) (hb : s.activeBooking = some b) (hf : b.finish ≤ s.clock.now.minute) :
    s.testEnd = if s.graceEndOf b ≤ s.clock.now.minute then s.startClosing .graceEnd
      else { s with cal := { s.cal with graceEnd := some (s.graceEndOf b) } } := by
  have no : ¬ s.clock.now.minute < b.finish := by omega
  simp only [State.testEnd, hb, hs, no, if_false]

theorem State.testEnd_none (hb : s.activeBooking = none) : s.testEnd = s := by
  simp only [State.testEnd, hb]

/-! ## What an evaluation settles (03 R52) -/

/-- The session goes on where the end of the session is all that was tested. -/
theorem State.goesOn_missed {x : Session} (hm : t.cal = { s.removeMissed.cal with session := x, graceEnd := t.cal.graceEnd })
    (hf : t.floor = s.removeMissed.floor) (hmic : t.mic = s.removeMissed.mic) (hs : t.seats = s.removeMissed.seats) :
    s.GoesOn t x s.remaining := by
  have rest := s.removeMissed_rest
  refine ⟨by rw [hm], by rw [hm, s.removeMissed_cal], hf.trans (rest .floor (by decide)), hmic.trans (rest .mic (by decide)),
    hs.trans (rest .seats (by decide))⟩

/-- The state with what is MISSED gone, and nothing told of it. -/
def State.withRemaining (s : State) : State := { s with cal := { s.cal with bookings := s.remaining } }

theorem State.closes_missed (h : bookingsOk s.cal.bookings) (c : EndCause) : s.withRemaining.Closes (s.removeMissed.startClosing c) c := by
  have rest := s.removeMissed_rest
  refine (s.removeMissed.startClosing_closes c fun _ _ => ?_).of_same s.removeMissed_cal (rest .floor (by decide))
    (rest .mic (by decide)) (rest .seats (by decide)) (rest .clock (by decide))
  rw [s.removeMissed_cal]
  exact h.2.1.sublist (List.filter_sublist.map _)

/-- An evaluation with the clock set. -/
theorem State.evaluate_evaluated (hy : s.clock.sync ≠ .unsynced) (ht : s.TableOk) (hq : s.cal.session = .grace → s.noAdvance) :
    s.Evaluated s.evaluate := by
  obtain ⟨table, active, -⟩ := ht
  have clock : s.evaluate.clock = s.clock := s.evaluate_keeps .clock (by decide)
  have rest := s.removeMissed_rest
  have mclock : s.removeMissed.clock = s.clock := rest .clock (by decide)
  have floor : s.removeMissed.floor = s.floor := rest .floor (by decide)
  have left : (s.cal.bookings.filter fun b => b.active || decide (s.clock.now.minute < b.start + b.duration)) = s.remaining := rfl
  unfold State.Evaluated
  rw [clock]
  simp only [left]
  refine ⟨fun hs => ?_, fun hs => ?_, fun b hb => ?_⟩
  · rw [State.evaluate_idle hs]
    refine State.evaluateIdle_evaluated hy (fun x hx => ?_) table.2.1
    by_contra k
    have on := active.2 ⟨x, hx, by simpa using k⟩
    rcases hs with hs | hs <;> rw [hs] at on <;> cases on
  · have same : s.evaluate = s := by simp only [State.evaluate, hs]
    rw [same]
    exact ⟨hs, rfl, rfl, rfl, rfl⟩
  · have mb : s.removeMissed.activeBooking = some b := by rw [State.removeMissed_active, hb]
    have session : ∀ x, s.cal.session = x → s.removeMissed.cal.session = x := fun x hx => by rw [State.removeMissed_session, hx]
    have runs : s.cal.session = .inSession ∨ s.cal.session = .grace → s.evaluate = s.removeMissed.testEnd := by
      rintro (hs | hs) <;> simp only [State.evaluate, hs, if_neg hy]
    rw [← State.graceEndOf_left (b := b) table hy]
    refine ⟨fun hs hf => ?_, fun hs hf => ⟨fun hg => ?_, fun hg => ?_⟩, fun hs hf => ⟨fun hg => ?_, fun hg => ?_⟩⟩
    · rw [runs hs]
      rcases hs with hs | hs
      · rw [State.testEnd_before (session _ hs) mb (by rw [mclock]; exact hf)]
        exact State.goesOn_missed (by rw [← session _ hs]) rfl rfl rfl
      · rw [State.testEnd_returns (session _ hs) mb (by rw [mclock]; exact hf)
          (State.noAdvance_congr (hq hs) (by rw [floor]) (rest .cfg (by decide)))]
        exact State.goesOn_missed rfl rfl rfl rfl
    · rw [runs (.inl hs), State.testEnd_grace (session _ hs) mb (by rw [mclock]; exact hf) (by rw [mclock, floor]; exact hg)]
      exact ⟨State.goesOn_missed rfl rfl rfl rfl, rfl⟩
    · rw [runs (.inl hs), State.testEnd_ends (session _ hs) mb (by rw [mclock]; exact hf) (by rw [mclock, floor]; exact hg)]
      exact State.closes_missed table _
    · rw [runs (.inr hs), State.testEnd_inGrace (session _ hs) mb (by rw [mclock]; exact hf), if_pos (by rw [mclock]; exact hg)]
      exact State.closes_missed table _
    · rw [runs (.inr hs), State.testEnd_inGrace (session _ hs) mb (by rw [mclock]; exact hf),
        if_neg (by rw [mclock]; exact Nat.not_le.2 hg)]
      exact ⟨State.goesOn_missed (by rw [← session _ hs]) rfl rfl rfl, rfl⟩

/-- In UNSYNCED an evaluation tests the end of an ad hoc booking alone. -/
theorem State.evaluate_unsynced (hy : s.clock.sync = .unsynced) :
    s.evaluate = if s.cal.session.runs = true ∧ s.activeBooking.map (·.number) = some 0 then s.testEnd else s := by
  unfold State.evaluate State.evaluateIdle
  cases hs : s.cal.session <;> simp [hy, Session.runs]

/-- What follows a cause of an evaluation. -/
theorem State.evaluate_settles (s : State) : s.Settles s.evaluate := by
  have clock : s.evaluate.clock = s.clock := s.evaluate_keeps .clock (by decide)
  refine ⟨State.evaluate_evaluated, fun hy h => ?_, fun b hb hy hn hg hs => ?_⟩
  · have same : s.evaluate = s := by
      rw [State.evaluate_unsynced hy, if_neg]
      rintro ⟨k1, k2⟩
      rcases h with h | h
      · rw [h] at k1; cases k1
      · exact h k2
    rw [same]
    exact ⟨rfl, rfl, rfl, rfl⟩
  · have tests : s.evaluate = s.testEnd := by
      rw [State.evaluate_unsynced hy, if_pos ⟨by rw [hs]; rfl, by rw [hb, ← hn]; rfl⟩]
    rw [clock, tests]
    refine ⟨fun hf => ?_, fun hf => ?_⟩
    · rw [State.testEnd_before hs hb hf]
      exact ⟨rfl, rfl, rfl, rfl⟩
    · rw [State.testEnd_closes hs hb hf (.inl hg)]
      exact s.startClosing_closes .endTime fun _ k => absurd hy k

/-- What an evaluation settles is in both states. -/
theorem State.Settles.after {u : State} (h : s.Settles t) {l : List Piece} (k : t.keeps u l) (hl : ∀ p ∈ shownPieces, p ∉ l) :
    s.Settles u := by
  have cal : u.cal = t.cal := k .cal (hl _ (by decide))
  have clock : u.clock = t.clock := k .clock (hl _ (by decide))
  have floor : u.floor = t.floor := k .floor (hl _ (by decide))
  have mic : u.mic = t.mic := k .mic (hl _ (by decide))
  have seats : u.seats = t.seats := k .seats (hl _ (by decide))
  have goesOn : ∀ {x bs}, s.GoesOn t x bs → s.GoesOn u x bs := fun g => by
    unfold State.GoesOn at g ⊢
    rw [cal, floor, mic, seats]
    exact g
  obtain ⟨evaluated, same, adhoc⟩ := h
  refine ⟨fun hy ht hq => ?_, fun hy hr => ?_, fun b hb hy hn hg hs => ?_⟩
  · obtain ⟨idle, closing, runs⟩ := evaluated hy ht hq
    unfold State.Evaluated
    rw [clock, cal]
    refine ⟨fun hs => (idle hs).to cal (by rw [clock]) seats floor (by rw [mic]) (by rw [mic])
      (k .mixCycle (hl _ (by decide))).2.2.1 (k .messages (hl _ (by decide))) (k .cfg (hl _ (by decide))),
      fun hs => goesOn (closing hs), fun b hb => ?_⟩
    obtain ⟨before, ends, graces⟩ := runs b hb
    exact ⟨fun hs hf => goesOn (before hs hf), fun hs hf => ⟨fun hg => ⟨goesOn ((ends hs hf).1 hg).1, ((ends hs hf).1 hg).2⟩,
      fun hg => ((ends hs hf).2 hg).after k hl⟩, fun hs hf => ⟨fun hg => ((graces hs hf).1 hg).after k hl,
      fun hg => ⟨goesOn ((graces hs hf).2 hg).1, ((graces hs hf).2 hg).2⟩⟩⟩
  · rw [cal, floor, mic, seats]
    exact same hy hr
  · rw [cal, floor, mic, seats, clock]
    exact ⟨(adhoc b hb hy hn hg hs).1, fun hf => ((adhoc b hb hy hn hg hs).2 hf).after k hl⟩

end Settles

end Sys2Proof.Machine

namespace Sys2Proof.Machine

/-! ## Flag operations (10 R186) -/

/-- The instruction of a flag operation. -/
def FlagOp.instr (k : FlagOp) (obj : Byte) (index : BitVec 16) (fld : Byte) (mask : BitVec 16) : Instr :=
  match k with
  | .set => .setFlags obj index fld mask
  | .clear => .clearFlags obj index fld mask
  | .toggle => .toggleFlags obj index fld mask

/-- What a flag operation makes of one flag. -/
def FlagOp.bit (k : FlagOp) (held named : Bool) : Bool :=
  match k with
  | .set => held || named
  | .clear => held && !named
  | .toggle => held ^^ named

section Flags
variable {s : State} {k : FlagOp} {obj fld : Byte} {index mask : BitVec 16} {o : Object} {held all : Nat}

theorem flagOp_reaches (hr : s.reaches (k.instr obj index fld mask) = true) :
    s.atOp (.flags k obj index fld mask) = true ∧ exec (k.instr obj index fld mask) s =
      .next (State.opEnd (.flags k obj index fld mask) (s.flagOwner k obj index fld mask)) := by
  cases k <;> exact State.reaches_next (owner := State.flagOwner _ obj index fld mask) hr rfl rfl

theorem State.flagOwner_eq (ho : Object.ofCode obj.toNat = some o) (hf : s.flagSet o index.toNat fld.toNat = .ok (held, all)) :
    s.flagOwner k obj index fld mask = if all < mask.toNat then fail s .badValue
      else if mask = 0 then done s else s.writeObject o index.toNat fld.toNat (be8 (k.apply held mask.toNat)) := by
  simp only [State.flagOwner, ho, hf]

/-- Each flag of the result is that of the operation on the flag. -/
theorem FlagOp.apply_testBit (k : FlagOp) (held mask i : Nat) (hi : i < 16) :
    (k.apply held mask).testBit i = k.bit (held.testBit i) (mask.testBit i) := by
  cases k with
  | set => exact Nat.testBit_or held mask i
  | toggle => exact Nat.testBit_xor held mask i
  | clear =>
    have ones : (0xFFFF : Nat).testBit i = true := by
      have : (0xFFFF : Nat) = 2 ^ 16 - 1 := rfl
      rw [this, Nat.testBit_two_pow_sub_one]
      simpa using hi
    rw [FlagOp.apply, Nat.testBit_and, Nat.testBit_xor, ones, Bool.true_xor]
    rfl

/-- The result stays in the flag set. -/
theorem FlagOp.apply_lt (k : FlagOp) {held mask n : Nat} (hh : held < 2 ^ n) (hm : mask < 2 ^ n) : k.apply held mask < 2 ^ n := by
  cases k with
  | set => exact Nat.or_lt_two_pow hh hm
  | toggle => exact Nat.xor_lt_two_pow hh hm
  | clear => exact Nat.lt_of_le_of_lt Nat.and_le_left hh

/-- An empty set of flags leaves what is held. -/
theorem FlagOp.apply_zero (k : FlagOp) {held : Nat} (hh : held < 2 ^ 16) : k.apply held 0 = held := by
  cases k with
  | set => exact Nat.or_zero held
  | toggle => exact Nat.xor_zero held
  | clear =>
    have ones : (0xFFFF ^^^ 0 : Nat) = 2 ^ 16 - 1 := rfl
    rw [FlagOp.apply, ones, Nat.and_two_pow_sub_one_eq_mod, Nat.mod_eq_of_lt hh]

/-- The one flag of a set of one. -/
theorem FlagOp.apply_one (k : FlagOp) (held : Bool) : k.apply (if held then 1 else 0) 1 ≤ 1 ∧
    decide (k.apply (if held then 1 else 0) 1 = 1) = k.bit held true := by
  cases k <;> cases held <;> decide

theorem mask_toNat_zero {mask : BitVec 16} (h : mask = 0) : mask.toNat = 0 := by rw [h]; rfl

/-- A flag operation with an empty set changes nothing (10 R186). -/
theorem flagOp_empty (hop : s.atOp (.flags k obj index fld mask) = true) (ho : Object.ofCode obj.toNat = some o)
    (hf : s.flagSet o index.toNat fld.toNat = .ok (held, all)) (hm : mask = 0) :
    let t := State.opEnd (.flags k obj index fld mask) (s.flagOwner k obj index fld mask)
    s.answered t .ok ∧ s.keeps t opPieces := by
  have owner : s.flagOwner k obj index fld mask = done s false := by
    rw [State.flagOwner_eq ho hf, if_neg (by rw [mask_toNat_zero hm]; omega), if_pos hm]
  have after := State.opEnd_keeps (.flags k obj index fld mask) (done s false)
  refine ⟨State.opEnd_answered hop owner rfl (s.keeps_refl []) (by decide) (by decide) (.of_eq rfl), ?_⟩
  rw [owner]
  exact after

/-- A flag outside the set fails BAD_VALUE. -/
theorem flagOp_outside (hop : s.atOp (.flags k obj index fld mask) = true) (ho : Object.ofCode obj.toNat = some o)
    (hf : s.flagSet o index.toNat fld.toNat = .ok (held, all)) (hm : all < mask.toNat) :
    s.fails (State.opEnd (.flags k obj index fld mask) (s.flagOwner k obj index fld mask)) .badValue :=
  State.opEnd_fails hop ((State.flagOwner_eq ho hf).trans (if_pos hm)) rfl

/-- The three instructions of a flag operation, each with its result. -/
theorem flagOp_cases {α : Type} {i : Instr} {result : α} {f : FlagOp → α}
    (h : i = .setFlags obj index fld mask ∧ result = f .set ∨ i = .clearFlags obj index fld mask ∧ result = f .clear ∨
      i = .toggleFlags obj index fld mask ∧ result = f .toggle) : ∃ k : FlagOp, i = k.instr obj index fld mask ∧ result = f k := by
  rcases h with ⟨h, r⟩ | ⟨h, r⟩ | ⟨h, r⟩
  · exact ⟨.set, h, r⟩
  · exact ⟨.clear, h, r⟩
  · exact ⟨.toggle, h, r⟩

end Flags

/-! ## The switches of CONFIG (12 Table 12-8) -/

section Switches
variable {s : State}

theorem Settings.switches_lt (c : Settings) : c.switches < 2 ^ 5 := by
  unfold Settings.switches
  split <;> split <;> split <;> split <;> split <;> omega

theorem Settings.switches_setSwitches (c : Settings) {n : Nat} (h : n < 2 ^ 5) : (c.setSwitches n).switches = n := by
  have all : ∀ m : Fin 32, (if m.val.testBit 0 then 1 else 0) + (if m.val.testBit 1 then 2 else 0) + (if m.val.testBit 2 then 4 else 0)
      + (if m.val.testBit 3 then 8 else 0) + (if m.val.testBit 4 then 16 else 0) = m.val := by decide
  exact all ⟨n, h⟩

theorem State.writeConfig_switches (s : State) {n : Nat} (h : n < 2 ^ 5) :
    s.writeConfig 0 1 (be8 n) =
      done (({ s with cfg := s.cfg.setSwitches n } : State).configEffects [⟨0, 1, be8 n⟩]) false := by
  have hn : number (be8 n) = n := number_be8 (by omega)
  have stored : s.cfg.store ⟨0, 1, be8 n⟩ = .ok (s.cfg.setSwitches n, false) := by
    simp only [Settings.store, hn]
    exact if_neg (by omega)
  rw [State.writeConfig, takeValues_one (k := 1) (by decide) (by decide) rfl (by decide), storeAll_one, stored]
  rfl

/-- After a write of the switches an auto-advance check is made at most (04 R70). -/
theorem State.configEffects_switches (s : State) (bytes : List Byte) :
    s.configEffects [⟨0, 1, bytes⟩] = if s.cfg.autoAdvance then s.autoAdvance else s := by
  simp [State.configEffects, wroteField]

theorem setSwitches_rest (c : Settings) (n : Nat) : (c.setSwitches n).lead = c.lead ∧ (c.setSwitches n).openGap = c.openGap ∧
    (c.setSwitches n).closeGap = c.closeGap := ⟨rfl, rfl, rfl⟩

/-- The first clause of O45. -/
theorem flagOp_switches (k : FlagOp) (mask : BitVec 16) (hr : s.reaches (k.instr 0x05 0 1 mask) = true) :
    ∃ t, exec (k.instr 0x05 0 1 mask) s = .next t ∧ (31 < mask.toNat → s.fails t .badValue) ∧
      (mask.toNat ≤ 31 → s.answered t .ok ∧ t.cfg.switches = k.apply s.cfg.switches mask.toNat ∧
        t.cfg.lead = s.cfg.lead ∧ t.cfg.openGap = s.cfg.openGap ∧ t.cfg.closeGap = s.cfg.closeGap ∧
        (s.floor.mode ≠ .queue → s.keeps t (.cfg :: opPieces))) := by
  obtain ⟨hop, hx⟩ := flagOp_reaches hr
  have set : s.flagSet .config (0 : BitVec 16).toNat (1 : Byte).toNat = .ok (s.cfg.switches, 31) := rfl
  have lt := s.cfg.switches_lt
  refine ⟨_, hx, flagOp_outside hop rfl set, fun hm => ?_⟩
  by_cases h0 : mask = 0
  · obtain ⟨answers, keeps⟩ := flagOp_empty hop rfl set h0
    have cfg := keeps .cfg (by decide)
    refine ⟨answers, ?_, by rw [cfg], by rw [cfg], by rw [cfg], fun _ => State.keeps_mono keeps (by decide)⟩
    rw [cfg, mask_toNat_zero h0, k.apply_zero (by omega)]
  · have nlt : k.apply s.cfg.switches mask.toNat < 2 ^ 5 := k.apply_lt lt (by omega)
    set n := k.apply s.cfg.switches mask.toNat with hn
    set u : State := { s with cfg := s.cfg.setSwitches n } with hu
    have kept : s.keeps u [.cfg] := by intro p hp; cases p <;> simp_all [State.agrees]
    have owner : s.flagOwner k 0x05 0 1 mask = done (if u.cfg.autoAdvance then u.autoAdvance else u) false := by
      rw [State.flagOwner_eq (o := .config) rfl set, if_neg (by omega), if_neg h0, ← hn]
      exact (s.writeConfig_switches nlt).trans (by rw [State.configEffects_switches])
    have effect : u.keeps (if u.cfg.autoAdvance then u.autoAdvance else u) floorPieces := by
      split
      · exact u.autoAdvance_keeps
      · exact u.keeps_refl _
    have sends : s.Sends (if u.cfg.autoAdvance then u.autoAdvance else u) := by
      split
      · exact u.autoAdvance_sends.from rfl
      · exact .of_eq rfl
    have after := State.opEnd_keeps (.flags k 0x05 0 1 mask) (done (if u.cfg.autoAdvance then u.autoAdvance else u) false)
    have answers := State.opEnd_answered hop owner rfl (State.keeps_trans (l := .cfg :: floorPieces)
      (State.keeps_mono kept (by decide)) (State.keeps_mono effect (by decide))) (by decide) (by decide) sends
    rw [owner] at answers ⊢
    have cfg : (State.opEnd (.flags k 0x05 0 1 mask) (done (if u.cfg.autoAdvance then u.autoAdvance else u) false)).cfg =
        s.cfg.setSwitches n := (after .cfg (by decide)).trans (effect .cfg (by decide))
    obtain ⟨lead, openGap, closeGap⟩ := setSwitches_rest s.cfg n
    rw [cfg]
    refine ⟨answers, Settings.switches_setSwitches _ nlt, lead, openGap, closeGap, fun hq => ?_⟩
    have still : (if u.cfg.autoAdvance then u.autoAdvance else u) = u := by
      rw [State.autoAdvance_off u (.inl hq), ite_self]
    rw [still] at after ⊢
    exact State.keeps_trans (State.keeps_mono kept (by decide)) (State.keeps_mono after (by decide))

end Switches

/-! ## The mutes (02 R33) -/

section Mutes
variable {s : State} {k : FlagOp} {mask : BitVec 16}

theorem State.setRec_sends (p : Pos) (f : SeatRec → SeatRec) : s.Sends (s.setRec p f) := .of_eq rfl

theorem State.writeSeats_mute (s : State) (seat : Seat) {n : Nat} (h : n ≤ 1) :
    s.writeSeats seat.val 0 (be8 n) =
      done (s.setRec (s.phys seat) fun r => { r with seatMute := decide (n = 1), changed := true }) false := by
  have hn : number (be8 n) = n := number_be8 (by omega)
  have hi : seat.val ≤ lastIndex .seats 0 := by simp only [lastIndex]; omega
  have fits : ([⟨seat.val, 0, be8 n⟩] : List Value).any badSeatValue = false := by
    simp only [List.any_cons, List.any_nil, Bool.or_false, badSeatValue, hn, show seat.val ≠ 64 by omega, if_false]
    simpa using h
  rw [State.writeSeats, takeValues_one (k := 1) hi (by simp [valueShape]) rfl (by decide), fits, if_neg (by decide), if_neg (by simp)]
  have store : SeatRec.store ⟨seat.val, 0, be8 n⟩ = fun r => { r with seatMute := decide (n = 1), changed := true } := by
    funext r
    simp only [SeatRec.store, hn]
  simp only [List.foldl_cons, List.foldl_nil, State.storeSeat, State.seatEffect, seatOf_val, store]
  rfl

theorem State.writeSeats_mutes (s : State) {n : Nat} (h : n < 2 ^ 3) :
    s.writeSeats 64 0 (be8 n) = done { s with seats := s.seats.setMutes n } false := by
  have hn : number (be8 n) = n := number_be8 (by omega)
  have fits : ([⟨64, 0, be8 n⟩] : List Value).any badSeatValue = false := by
    simp only [List.any_cons, List.any_nil, Bool.or_false, badSeatValue, hn, if_true]
    simp
    omega
  rw [State.writeSeats, takeValues_one (k := 1) (by decide) (by decide) rfl (by decide), fits, if_neg (by decide), if_neg (by simp)]
  have none : seatOf 64 = none := rfl
  simp only [List.foldl_cons, List.foldl_nil, State.storeSeat, State.seatEffect, none, hn]
  rfl

/-- The second clause of O45. -/
theorem flagOp_mute (seat : Seat) (hr : s.reaches (k.instr 0x0A (BitVec.ofNat 16 seat.val) 0 mask) = true) :
    ∃ t, exec (k.instr 0x0A (BitVec.ofNat 16 seat.val) 0 mask) s = .next t ∧ s.keeps t (.seats :: opPieces) ∧
      (mask = 0 → s.answered t .ok ∧ t.seats = s.seats) ∧ (1 < mask.toNat → s.fails t .badValue) ∧
      (mask = 1 → s.answered t .ok ∧
        t.seatRec seat = { s.seatRec seat with seatMute := k.bit (s.seatRec seat).seatMute true, changed := true } ∧
        ∀ p, p ≠ s.phys seat → t.seats.recs[p] = s.seats.recs[p]) := by
  obtain ⟨hop, hx⟩ := flagOp_reaches hr
  have set : s.flagSet .seats (BitVec.ofNat 16 seat.val).toNat (0 : Byte).toNat = .ok (if (s.seatRec seat).seatMute then 1 else 0, 1) := by
    rw [ofNat16_seat]
    have hi : ¬ lastIndex .seats 0 < seat.val := by simp only [lastIndex]; omega
    have fld : (0 : Byte).toNat = 0 := rfl
    simp only [State.flagSet, fld, seatOf_val]
    exact if_neg hi
  refine ⟨_, hx, ?_⟩
  by_cases h0 : mask = 0
  · obtain ⟨answers, keeps⟩ := flagOp_empty hop rfl set h0
    refine ⟨State.keeps_mono keeps (by decide), fun _ => ⟨answers, keeps .seats (by decide)⟩, fun h => ?_, fun h => ?_⟩
    · rw [mask_toNat_zero h0] at h; omega
    · rw [h0] at h; exact absurd h (by decide)
  · by_cases h1 : mask = 1
    · have bit : k.apply (if (s.seatRec seat).seatMute then 1 else 0) mask.toNat ≤ 1 ∧
          decide (k.apply (if (s.seatRec seat).seatMute then 1 else 0) mask.toNat = 1) = k.bit (s.seatRec seat).seatMute true := by
        rw [h1]
        exact k.apply_one _
      obtain ⟨small, one⟩ := bit
      have owner : s.flagOwner k 0x0A (BitVec.ofNat 16 seat.val) 0 mask = done (s.setRec (s.phys seat) fun r =>
          { r with seatMute := k.bit (s.seatRec seat).seatMute true, changed := true }) false := by
        rw [State.flagOwner_eq (o := .seats) rfl set, if_neg (by rw [h1]; decide), if_neg h0, ofNat16_seat, ← one]
        exact s.writeSeats_mute seat small
      have kept := s.setRec_keeps (s.phys seat) fun r => { r with seatMute := k.bit (s.seatRec seat).seatMute true, changed := true }
      have after := State.opEnd_keeps (.flags k 0x0A (BitVec.ofNat 16 seat.val) 0 mask) (done (s.setRec (s.phys seat) fun r =>
          { r with seatMute := k.bit (s.seatRec seat).seatMute true, changed := true }) false)
      have answers := State.opEnd_answered hop owner rfl kept (by decide) (by decide) (State.setRec_sends _ _)
      rw [owner] at answers ⊢
      have seats := after .seats (by decide)
      refine ⟨State.keeps_trans (State.keeps_mono kept (by decide)) (State.keeps_mono after (by decide)), fun h => absurd h h0,
        fun h => by rw [h1] at h; exact absurd h (by decide), fun _ => ⟨answers, ?_, fun p hp => ?_⟩⟩
      · rw [State.seatRec_congr seats]
        exact modify_get_self _ _ _
      · rw [seats]
        exact modify_get_ne _ hp _
    · have out : 1 < mask.toNat := by
        have k0 : mask.toNat ≠ 0 := fun e => h0 (BitVec.eq_of_toNat_eq e)
        have k1 : mask.toNat ≠ 1 := fun e => h1 (BitVec.eq_of_toNat_eq e)
        omega
      have fails := flagOp_outside hop rfl set out
      refine ⟨?_, fun h => absurd h h0, fun _ => fails, fun h => absurd h h1⟩
      rw [(State.flagOwner_eq (o := .seats) rfl set).trans (if_pos out)]
      exact State.keeps_mono (State.opEnd_keeps _ _) (by decide)

theorem SeatTable.mutes_bits (t : SeatTable) : t.mutes < 2 ^ 3 ∧ t.mutes.testBit 0 = t.sessionMute ∧
    t.mutes.testBit 1 = t.wingAMute ∧ t.mutes.testBit 2 = t.wingBMute := by
  unfold SeatTable.mutes
  generalize t.sessionMute = a, t.wingAMute = b, t.wingBMute = c
  revert a b c
  decide

/-- The third clause of O45. -/
theorem flagOp_mutes (hr : s.reaches (k.instr 0x0A 64 0 mask) = true) :
    ∃ t, exec (k.instr 0x0A 64 0 mask) s = .next t ∧ s.keeps t (.seats :: opPieces) ∧
      (7 < mask.toNat → s.fails t .badValue) ∧
      (mask.toNat ≤ 7 → s.answered t .ok ∧ t.seats = { s.seats with
        sessionMute := k.bit s.seats.sessionMute (mask.getLsbD 0), wingAMute := k.bit s.seats.wingAMute (mask.getLsbD 1),
        wingBMute := k.bit s.seats.wingBMute (mask.getLsbD 2) }) := by
  obtain ⟨hop, hx⟩ := flagOp_reaches hr
  have set : s.flagSet .seats (64 : BitVec 16).toNat (0 : Byte).toNat = .ok (s.seats.mutes, 7) := rfl
  obtain ⟨lt, session, wingA, wingB⟩ := s.seats.mutes_bits
  have mutes : s.seats.setMutes (k.apply s.seats.mutes mask.toNat) = { s.seats with
      sessionMute := k.bit s.seats.sessionMute (mask.getLsbD 0), wingAMute := k.bit s.seats.wingAMute (mask.getLsbD 1),
      wingBMute := k.bit s.seats.wingBMute (mask.getLsbD 2) } := by
    simp only [SeatTable.setMutes, k.apply_testBit _ _ 0 (by decide), k.apply_testBit _ _ 1 (by decide),
      k.apply_testBit _ _ 2 (by decide), session, wingA, wingB]
    rfl
  refine ⟨_, hx, ?_⟩
  by_cases out : 7 < mask.toNat
  · refine ⟨?_, fun _ => flagOp_outside hop rfl set out, fun h => absurd out (by omega)⟩
    rw [(State.flagOwner_eq (o := .seats) rfl set).trans (if_pos out)]
    exact State.keeps_mono (State.opEnd_keeps _ _) (by decide)
  · by_cases h0 : mask = 0
    · obtain ⟨answers, keeps⟩ := flagOp_empty hop rfl set h0
      refine ⟨State.keeps_mono keeps (by decide), fun h => absurd h out, fun _ => ⟨answers, ?_⟩⟩
      rw [← mutes, keeps .seats (by decide), mask_toNat_zero h0, k.apply_zero (by omega), SeatTable.setMutes, session, wingA, wingB]
    · have small : k.apply s.seats.mutes mask.toNat < 2 ^ 3 := k.apply_lt lt (by omega)
      have owner : s.flagOwner k 0x0A 64 0 mask =
          done { s with seats := s.seats.setMutes (k.apply s.seats.mutes mask.toNat) } false := by
        rw [State.flagOwner_eq (o := .seats) rfl set, if_neg out, if_neg h0]
        exact s.writeSeats_mutes small
      have kept : s.keeps { s with seats := s.seats.setMutes (k.apply s.seats.mutes mask.toNat) } [.seats] := by
        intro p hp; cases p <;> simp_all [State.agrees]
      have after := State.opEnd_keeps (.flags k 0x0A 64 0 mask)
        (done { s with seats := s.seats.setMutes (k.apply s.seats.mutes mask.toNat) } false)
      have answers := State.opEnd_answered hop owner rfl kept (by decide) (by decide) (.of_eq rfl)
      rw [owner] at answers ⊢
      exact ⟨State.keeps_trans (State.keeps_mono kept (by decide)) (State.keeps_mono after (by decide)), fun h => absurd h out,
        fun _ => ⟨answers, (after .seats (by decide)).trans mutes⟩⟩

end Mutes

/-! ## The flags of a booking (03 R49) -/

section BookingFlags
variable {before after : List Booking} {r q : Booking}

theorem find_number (hn : ((before ++ r :: after).map (·.number)).Nodup) :
    (before ++ r :: after).find? (fun x => x.number = r.number) = some r := by
  rw [List.map_append, List.map_cons, List.nodup_append] at hn
  have none : ∀ x ∈ before, ¬ x.number = r.number := fun x hx => hn.2.2 _ (List.mem_map_of_mem hx) _ (by simp)
  rw [List.find?_append, List.find?_eq_none.2 (by simpa using none), List.find?_cons_of_pos (by simp)]
  rfl

theorem filter_number (hn : ((before ++ r :: after).map (·.number)).Nodup) :
    (before ++ r :: after).filter (fun x => x.number ≠ r.number) = before ++ after := by
  rw [List.map_append, List.map_cons, List.nodup_append, List.nodup_cons] at hn
  obtain ⟨-, ⟨fresh, -⟩, apart⟩ := hn
  rw [List.filter_append, List.filter_cons_of_neg (by simp), List.filter_eq_self.2 fun x hx => ?_, List.filter_eq_self.2 fun x hx => ?_]
  · exact decide_eq_true fun k => fresh (k ▸ List.mem_map_of_mem hx)
  · exact decide_eq_true (apart _ (List.mem_map_of_mem hx) _ (by simp))

/-- Two records share a minute exactly where their windows do. -/
theorem sharesMinute_eq (a b : Booking) : sharesMinute a.start a.finish b.start b.finish =
    decide (max a.start b.start < min (a.start + a.duration) (b.start + b.duration)) := rfl

/-- A WAITING record of a table shares no minute with the others, and stands in its place among them. -/
theorem waiting_apart (h : bookingsOk (before ++ r :: after)) (ha : r.active = false) :
    (∀ x ∈ before ++ after, sharesMinute r.start r.finish x.start x.finish = false) ∧
    (∀ x ∈ before, r.precedes x = false) ∧ ∀ x ∈ after, r.precedes x = true := by
  obtain ⟨-, -, ok, sorted⟩ := h
  have len : 0 < r.duration := ((ok r (by simp)).2.2.2 ha).2
  rw [List.pairwise_append, List.pairwise_cons] at sorted
  obtain ⟨-, ⟨later, -⟩, earlier⟩ := sorted
  refine ⟨fun x hx => ?_, fun x hx => ?_, fun x hx => ?_⟩
  · rw [sharesMinute_eq, decide_eq_false_iff_not]
    rcases List.mem_append.1 hx with hx | hx
    · have := (earlier x hx r (by simp)).2.1
      rwa [max_comm, min_comm] at this
    · exact (later x hx).2.1
  · obtain ⟨le, apart, -, -⟩ := earlier x hx r (by simp)
    have live : x.active = false → 0 < x.duration := fun k => ((ok x (by simp [hx])).2.2.2 k).2
    rw [Booking.precedes, ha]
    cases hx' : x.active with
    | true =>
      have : ¬ r.start < x.start := by omega
      simp [this]
    | false =>
      have := live hx'
      have lt : x.start < r.start := by omega
      have : ¬ r.start < x.start := by omega
      simp [this, show r.start ≠ x.start by omega]
  · obtain ⟨le, -, equal, -⟩ := later x hx
    rw [Booking.precedes, ha]
    rcases Nat.lt_or_eq_of_le le with k | k
    · simp [k]
    · simp [k, equal k]

/-- A record that precedes none of the first part and all of the rest stands between them. -/
theorem placeBooking_between (hb : ∀ x ∈ before, q.precedes x = false) (ha : ∀ x ∈ after, q.precedes x = true) :
    placeBooking q (before ++ after) = before ++ q :: after := by
  induction before with
  | nil =>
    cases after with
    | nil => rfl
    | cons x xs => exact if_pos (ha x (by simp))
  | cons x xs ih =>
    have no : ¬ q.precedes x = true := by rw [hb x (by simp)]; decide
    rw [List.cons_append, placeBooking, if_neg no, ih fun y hy => hb y (by simp [hy])]
    rfl

/-- The record with its flags set. -/
def Booking.withFlags (r : Booking) (n : Nat) : Booking := { r with guestAdmit := n.testBit 0, roomSend := n.testBit 1 }

theorem Booking.flags_bits (r : Booking) : r.flags < 2 ^ 2 ∧ r.flags.testBit 0 = r.guestAdmit ∧ r.flags.testBit 1 = r.roomSend := by
  unfold Booking.flags
  generalize r.guestAdmit = a, r.roomSend = b
  revert a b
  decide

/-- A write of the flag set of a record (12 Table 12-8). -/
theorem storeBooking_flags (now : Nat) (h : bookingsOk (before ++ r :: after)) (h0 : r.number ≠ 0) {n : Nat} (hn : n < 2 ^ 2) :
    storeBooking now (before ++ r :: after) ⟨r.number, 0x10, be8 n⟩ =
      if r.active = true then .error .active
      else if r.start + r.duration ≤ now then .error .past
      else .ok (before ++ r.withFlags n :: after, false) := by
  have hnum : number (be8 n) = n := number_be8 (by omega)
  rw [storeBooking, if_neg h0, changeBooking, find_number h.2.1]
  simp only [show (0x10 : Nat) ≠ 0xFE by decide, if_false, if_true, hnum, show ¬ 3 < n by omega]
  by_cases active : r.active = true
  · rw [if_pos active, if_pos active]
  · rw [if_neg active, if_neg active]
    obtain ⟨apart, earlier, later⟩ := waiting_apart h (Bool.not_eq_true _ ▸ active)
    have others : (before ++ after).any (fun x => sharesMinute r.start r.finish x.start x.finish) = false := by
      rw [List.any_eq_false]
      exact fun x hx => by rw [apart x hx]; decide
    have filtered := filter_number h.2.1
    have placed : placeBooking (r.withFlags n) (before ++ after) = before ++ r.withFlags n :: after :=
      placeBooking_between (fun x hx => (earlier x hx)) fun x hx => later x hx
    have conflict : (r.withFlags n).conflict now (before ++ after) =
        if r.start + r.duration ≤ now then some .past else if (before ++ after).any (fun x =>
          sharesMinute r.start r.finish x.start x.finish) then some .overlap else none := rfl
    have replaced : replaceBooking now (before ++ r :: after) (r.withFlags n) false =
        match (r.withFlags n).conflict now ((before ++ r :: after).filter fun x => x.number ≠ r.number) with
        | some e => .error e
        | none => .ok (placeBooking (r.withFlags n) ((before ++ r :: after).filter fun x => x.number ≠ r.number), false) := rfl
    rw [filtered, conflict, others, placed] at replaced
    by_cases past : r.start + r.duration ≤ now
    · rw [if_pos past] at replaced ⊢
      exact replaced
    · rw [if_neg past] at replaced ⊢
      exact replaced

end BookingFlags

section BookingFlagOps
variable {s : State} {k : FlagOp} {mask : BitVec 16} {before after : List Booking} {r : Booking}

theorem State.writeBookings_flags (ht : s.TableOk) (hb : s.cal.bookings = before ++ r :: after) (h0 : r.number ≠ 0) {n : Nat}
    (hn : n < 2 ^ 2) : s.writeBookings r.number 0x10 (be8 n) =
      if r.active = true then fail s .active
      else if r.start + r.duration ≤ s.clock.now.minute then fail s .past
      else done ({ s with cal := { s.cal with bookings := before ++ r.withFlags n :: after } } : State).evaluate false := by
  have table : bookingsOk (before ++ r :: after) := hb ▸ ht.1
  have num : r.number < 65536 := (table.2.2.1 r (by simp)).1
  have hi : r.number ≤ lastIndex .bookings 0x10 := by simp only [lastIndex]; omega
  rw [State.writeBookings, takeValues_one (k := 1) hi (by simp [valueShape]) rfl (by decide), storeAll_one, hb,
    storeBooking_flags _ table h0 hn]
  split
  · rfl
  · split <;> rfl

/-- The fourth clause of O45. -/
theorem flagOp_booking (hr : s.reaches (k.instr 0x06 (BitVec.ofNat 16 r.number) 0x10 mask) = true) (ht : s.TableOk)
    (hb : s.cal.bookings = before ++ r :: after) (h0 : r.number ≠ 0) :
    let q : Booking := { r with guestAdmit := k.bit r.guestAdmit (mask.getLsbD 0), roomSend := k.bit r.roomSend (mask.getLsbD 1) }
    ∃ t, exec (k.instr 0x06 (BitVec.ofNat 16 r.number) 0x10 mask) s = .next t ∧ s.keeps t (sessionPieces ++ opPieces) ∧
      (3 < mask.toNat → s.fails t .badValue) ∧
      (mask = 0 → s.answered t .ok ∧ s.keeps t opPieces) ∧
      (1 ≤ mask.toNat → mask.toNat ≤ 3 →
        (r.active = true → s.fails t .active) ∧
        (r.active = false → r.start + r.duration ≤ s.clock.now.minute → s.fails t .past) ∧
        (r.active = false → s.clock.now.minute < r.start + r.duration → s.answered t .ok ∧
          ({ s with cal := { s.cal with bookings := before ++ q :: after } }).Settles t)) := by
  intro q
  have table : bookingsOk (before ++ r :: after) := hb ▸ ht.1
  have num : (BitVec.ofNat 16 r.number).toNat = r.number := by
    have := (table.2.2.1 r (by simp)).1
    rw [BitVec.toNat_ofNat]
    omega
  obtain ⟨hop, hx⟩ := flagOp_reaches hr
  have set : s.flagSet .bookings (BitVec.ofNat 16 r.number).toNat (0x10 : Byte).toNat = .ok (r.flags, 3) := by
    have hi : ¬ lastIndex .bookings 16 < r.number := by
      have := (table.2.2.1 r (by simp)).1
      simp only [lastIndex]
      omega
    have fld : (0x10 : Byte).toNat = 16 := rfl
    have found : s.cal.bookings.find? (fun x => x.number = r.number) = some r := by rw [hb, find_number table.2.1]
    rw [num, fld]
    refine (if_neg hi).trans ?_
    simp only [found]
    exact if_neg h0
  obtain ⟨lt, guest, room⟩ := r.flags_bits
  have flagged : r.withFlags (k.apply r.flags mask.toNat) = q := by
    rw [Booking.withFlags, k.apply_testBit _ _ 0 (by decide), k.apply_testBit _ _ 1 (by decide), guest, room]
    rfl
  refine ⟨_, hx, ?_⟩
  by_cases out : 3 < mask.toNat
  · refine ⟨?_, fun _ => flagOp_outside hop rfl set out, fun h => ?_, fun _ h => absurd out (by omega)⟩
    · rw [(State.flagOwner_eq (o := .bookings) rfl set).trans (if_pos out)]
      exact State.keeps_mono (State.opEnd_keeps _ _) (by decide)
    · rw [mask_toNat_zero h] at out; omega
  · by_cases hm : mask = 0
    · obtain ⟨answers, keeps⟩ := flagOp_empty hop rfl set hm
      exact ⟨State.keeps_mono keeps (by decide), fun h => absurd h out, fun _ => ⟨answers, keeps⟩, fun h => by
        rw [mask_toNat_zero hm] at h; omega⟩
    · have small : k.apply r.flags mask.toNat < 2 ^ 2 := k.apply_lt lt (by omega)
      have owner : s.flagOwner k 0x06 (BitVec.ofNat 16 r.number) 0x10 mask =
          if r.active = true then fail s .active
          else if r.start + r.duration ≤ s.clock.now.minute then fail s .past
          else done ({ s with cal := { s.cal with bookings := before ++ q :: after } } : State).evaluate false := by
        rw [State.flagOwner_eq (o := .bookings) rfl set, if_neg out, if_neg hm, num, ← flagged]
        exact State.writeBookings_flags ht hb h0 small
      set u : State := { s with cal := { s.cal with bookings := before ++ q :: after } } with hu
      have kept : s.keeps u.evaluate sessionPieces := by
        refine State.keeps_trans (t := u) ?_ u.evaluate_keeps
        intro p hp
        cases p <;> simp_all [State.agrees, sessionPieces]
      refine ⟨?_, fun h => absurd h out, fun h => absurd h hm, fun _ _ => ⟨fun ha => ?_, fun ha hp => ?_, fun ha hf => ?_⟩⟩
      · refine State.keeps_trans (t := (s.flagOwner k 0x06 (BitVec.ofNat 16 r.number) 0x10 mask).state) ?_
          (State.keeps_mono (State.opEnd_keeps _ _) (by decide))
        rw [owner]
        split
        · exact s.keeps_refl _
        · split
          · exact s.keeps_refl _
          · exact State.keeps_mono kept (by decide)
      · exact State.opEnd_fails hop (owner.trans (if_pos ha)) rfl
      · exact State.opEnd_fails hop (owner.trans ((if_neg (by rw [ha]; decide)).trans (if_pos hp))) rfl
      · have took := owner.trans ((if_neg (by rw [ha]; decide)).trans (if_neg (Nat.not_le.2 hf)))
        refine ⟨State.opEnd_answered hop took rfl kept (by decide) (by decide) (u.evaluate_sends.from rfl), ?_⟩
        rw [took]
        exact u.evaluate_settles.after (State.opEnd_keeps _ _) (by decide)

end BookingFlagOps

/-! ## O45 -/

/-- CLEAR_FLAGS within the switches of CONFIG. -/
theorem clear_switches {held mask : Nat} (hh : held < 2 ^ 5) (hm : mask < 2 ^ 5) : held &&& (31 ^^^ mask) = FlagOp.clear.apply held mask := by
  have all : ∀ h m : Fin 32, h.val &&& (31 ^^^ m.val) = FlagOp.clear.apply h.val m.val := by decide +kernel
  exact all ⟨held, hh⟩ ⟨mask, hm⟩

/-- Settles O45: each operation is a write of the flags it makes of those that are held. -/
theorem flagOperationsStoreTheResultingBits : Obligations.FlagOperationsStoreTheResultingBits := by
  refine ⟨fun s i mask result hr h => ?_, fun s i seat mask result hr h => ?_, fun s i mask result hr h => ?_,
    fun s i r before after mask result hr ht hb h0 h => ?_⟩
  · have lt := s.cfg.switches_lt
    obtain ⟨k, rfl, hres⟩ : ∃ k : FlagOp, i = k.instr 0x05 0 1 mask ∧
        (mask.toNat ≤ 31 → result = k.apply s.cfg.switches mask.toNat) := by
      rcases h with ⟨h, r⟩ | ⟨h, r⟩ | ⟨h, r⟩
      · exact ⟨.set, h, fun _ => r⟩
      · exact ⟨.clear, h, fun hm => r.trans (clear_switches lt (by omega))⟩
      · exact ⟨.toggle, h, fun _ => r⟩
    obtain ⟨t, hx, out, inside⟩ := flagOp_switches k mask hr
    refine ⟨t, hx, out, fun hm => ?_⟩
    obtain ⟨answers, switches, rest⟩ := inside hm
    rw [hres hm]
    exact ⟨answers, switches, k.apply_lt (n := 5) lt (by omega), rest⟩
  · obtain ⟨k, rfl, rfl⟩ := flagOp_cases (f := fun k => k.bit (s.seatRec seat).seatMute true) (by simpa [FlagOp.bit] using h)
    exact flagOp_mute seat hr
  · obtain ⟨k, rfl, rfl⟩ := flagOp_cases (f := FlagOp.bit) h
    exact flagOp_mutes hr
  · obtain ⟨k, rfl, rfl⟩ := flagOp_cases (f := FlagOp.bit) h
    exact flagOp_booking hr ht hb h0

end Sys2Proof.Machine

namespace Sys2Proof.Machine

/-! ## What CLOSING waits for (03 R57, R58; 04 R71) -/

/-- In CLOSING nobody holds the floor, and some microphone is not CLOSED yet: what every step keeps. -/
def State.ClosingWaits (s : State) : Prop :=
  s.cal.session = .closing → s.floor.openList = [] ∧ ∃ i, (s.micOf i).state ≠ .closed

section Waits
variable {s t : State}

theorem State.FloorOk.closing_empty (h : s.FloorOk) (hc : s.cal.session = .closing) : s.floor.openList = [] ∧ s.floor.queue = [] := by
  obtain ⟨-, -, -, empty⟩ := h
  exact empty (by simp [State.floorRuns, hc, Session.runs])

theorem State.ClosingOk.waits (h : s.ClosingOk) (hf : s.FloorOk) : s.ClosingWaits := fun hc => ⟨(hf.closing_empty hc).1, h hc⟩

theorem State.ClosingWaits.ok (h : s.ClosingWaits) : s.ClosingOk := fun hc => (h hc).2

theorem State.ClosingWaits.of_not_closing (h : s.cal.session ≠ .closing) : s.ClosingWaits := fun k => absurd k h

/-- What leaves the session and the open list, and closes no microphone. -/
theorem State.ClosingWaits.of_same (h : s.ClosingWaits) (hs : t.cal.session = s.cal.session) (ho : t.floor.openList = s.floor.openList)
    (hm : ∀ i, (s.micOf i).state ≠ .closed → (t.micOf i).state ≠ .closed) : t.ClosingWaits := fun hc => by
  obtain ⟨empty, i, hi⟩ := h (hs ▸ hc)
  exact ⟨ho.trans empty, i, hm i hi⟩

theorem State.ClosingWaits.of_eq (h : s.ClosingWaits) (hc : t.cal = s.cal) (hf : t.floor = s.floor) (hm : t.mic = s.mic) :
    t.ClosingWaits :=
  h.of_same (by rw [hc]) (by rw [hf]) fun i hi => by rwa [State.micOf_congr hm]

/-- What touches neither the calendar, nor the floor, nor the microphones. -/
theorem State.ClosingWaits.of_keeps (h : s.ClosingWaits) {l : List Piece} (k : s.keeps t l) (hl : ∀ p ∈ [Piece.cal, .floor, .mic], p ∉ l) :
    t.ClosingWaits :=
  h.of_eq (k .cal (hl _ (by decide))) (k .floor (hl _ (by decide))) (k .mic (hl _ (by decide)))

/-- What changes the floor outside CLOSING. -/
theorem State.ClosingWaits.of_cal (h : s.cal.session ≠ .closing) {l : List Piece} (k : s.keeps t l) (hl : Piece.cal ∉ l) : t.ClosingWaits :=
  .of_not_closing (by rw [(k .cal hl : t.cal = s.cal)]; exact h)

theorem State.ClosingWaits.foldl {α : Type} {f : State → α → State} (hf : ∀ t a, t.ClosingWaits → (f t a).ClosingWaits) (l : List α)
    (h : s.ClosingWaits) : (l.foldl f s).ClosingWaits := by
  induction l generalizing s with
  | nil => exact h
  | cons a l ih => exact ih (hf s a h)

/-- A change of one microphone that does not close it. -/
theorem State.ClosingWaits.setMic (h : s.ClosingWaits) (seat : Seat) {f : MicRec → MicRec}
    (hf : ∀ m : MicRec, m.state ≠ .closed → (f m).state ≠ .closed) : (s.setMic seat f).ClosingWaits :=
  h.of_same rfl rfl fun i hi => by
    rw [s.micOf_setMic]
    split
    · exact hf _ hi
    · exact hi

theorem State.ClosingWaits.setFloor (h : s.ClosingWaits) (f : Floor → Floor) (ho : (f s.floor).openList = s.floor.openList) :
    (s.setFloor f).ClosingWaits := h.of_same rfl ho fun _ hi => hi

end Waits

/-! ## Removals, and CLOSING that begins or completes -/

section Floor
variable {s : State}

/-- The report that every microphone is CLOSED ends CLOSING where it holds. -/
theorem State.ClosingWaits.reportClosed (h : s.cal.session = .closing → s.floor.openList = []) : s.reportClosed.ClosingWaits := by
  rcases s.reportClosed_cases with e | ⟨-, -, e⟩
  · intro hc
    rw [e] at hc ⊢
    refine ⟨h hc, ?_⟩
    by_contra none
    have all : s.allClosed = true := (s.allClosed_iff).2 fun i => not_not.1 fun k => none ⟨i, k⟩
    have done : s.reportClosed = s.completeClosing := if_pos ⟨hc, all⟩
    obtain ⟨-, settled⟩ := s.completeClosing_settled
    exact settled (by rw [← done, e, hc])
  · rw [e]
    exact .of_not_closing s.completeClosing_settled.2

theorem State.ClosingWaits.startClosing (s : State) (c : EndCause) : (s.startClosing c).ClosingWaits := by
  rw [s.startClosing_eq]
  exact .reportClosed fun _ => (s.closingBegun_floor c).1

/-- In CLOSING there is nobody to remove. -/
theorem State.ClosingWaits.removeCore (h : s.ClosingWaits) (seat : Seat) (r : Reason) : (s.removeCore seat r).ClosingWaits := by
  by_cases hc : s.cal.session = .closing
  · have off : s.holds seat = false := (s.holds_false_iff seat).2 (by simp [(h hc).1])
    rwa [s.removeCore_of_not _ _ off]
  · exact .of_cal hc (s.removeCore_keeps seat r) (by decide)

theorem State.ClosingWaits.autoAdvance (h : s.ClosingWaits) : s.autoAdvance.ClosingWaits := by
  rcases s.autoAdvance_cases with e | ⟨-, hs, -⟩
  · rwa [e]
  · exact .of_cal (by simp [hs]) s.autoAdvance_keeps (by decide)

theorem State.ClosingWaits.withdraw (h : s.ClosingWaits) (seat : Seat) (r : Reason) : (s.withdraw seat r).ClosingWaits :=
  h.of_same (by simp) (s.withdraw_openList seat r) fun i hi => by
    rw [s.withdraw_micOf]
    split <;> exact hi

theorem State.ClosingWaits.clearQueue (h : s.ClosingWaits) (r : Reason) : (s.clearQueue r).ClosingWaits :=
  h.of_same (by simp) (by rw [s.clearQueue_floor]) fun i hi => by
    rw [s.clearQueue_micOf]
    split <;> exact hi

theorem State.ClosingWaits.refuse (h : s.ClosingWaits) (seat : Seat) (r : Refuse) (k : PressKind) : (s.refuse seat r k).ClosingWaits :=
  h.of_same (by rw [s.refuse_cal]) (by simp) fun i hi => by
    rw [s.refuse_micOf]
    split <;> exact hi

theorem State.ClosingWaits.removeEntry (h : s.ClosingWaits) (seat : Seat) (r : Reason) : (s.removeEntry seat r).ClosingWaits := by
  unfold State.removeEntry
  split
  · simp only
    split
    · exact .startClosing _ _
    · exact h.removeCore seat r
  · exact h

theorem State.ClosingWaits.removeThenAdvance (h : s.ClosingWaits) (seat : Seat) (r : Reason) : (s.removeThenAdvance seat r).ClosingWaits := by
  unfold State.removeThenAdvance
  split
  · exact (h.removeEntry seat r).autoAdvance
  · exact h

theorem State.ClosingWaits.reduceLoop (n : Nat) : ∀ {s : State}, s.ClosingWaits → (State.reduceLoop n s).ClosingWaits := by
  induction n with
  | zero => exact id
  | succ n ih =>
    intro s h
    unfold State.reduceLoop
    split
    · split
      · exact ih (h.removeThenAdvance _ _)
      · exact h
    · exact h

theorem State.ClosingWaits.reduceOpen (h : s.ClosingWaits) : s.reduceOpen.ClosingWaits := h.reduceLoop _

/-! ## Limits, classes and permissions -/

theorem State.ClosingWaits.evaluateLimit (h : s.ClosingWaits) (seat : Seat) : (s.evaluateLimit seat).ClosingWaits := by
  by_cases ho : (s.micOf seat).state = .opened
  · cases hl : s.limitOf seat with
    | none =>
      rw [s.evaluateLimit_none seat ho hl]
      exact h.setMic seat fun _ hm => hm
    | some l =>
      have marked : (s.limitMarked seat l).ClosingWaits := h.of_same
        (by rw [(s.limitMarked_keeps seat l .cal (by decide) : (s.limitMarked seat l).cal = s.cal)])
        (by rw [s.limitMarked_floor]) fun i hi => by
          rw [s.limitMarked_micOf]
          split <;> exact hi
      rw [s.evaluateLimit_some seat ho hl]
      split
      · exact marked.removeThenAdvance seat .limit
      · exact marked
  · rwa [s.evaluateLimit_closed seat ho]

theorem State.ClosingWaits.keyNotice (h : s.ClosingWaits) (seat : Seat) : (s.keyNotice seat).ClosingWaits := by
  unfold State.keyNotice
  split
  · exact h.removeThenAdvance seat .key
  · exact h.withdraw seat .key

theorem State.ClosingWaits.classChange (h : s.ClosingWaits) (seat : Seat) (c : SeatClass) : (s.classChange seat c).ClosingWaits := by
  unfold State.classChange
  simp only
  split
  · exact h
  · refine State.ClosingWaits.evaluateLimit ?_ seat
    split
    · exact h
    · split
      · exact h.autoAdvance
      · split
        · exact h.reduceOpen
        · exact h

theorem State.ClosingWaits.permissionChange (h : s.ClosingWaits) (seat : Seat) (b : Bool) : (s.permissionChange seat b).ClosingWaits := by
  unfold State.permissionChange
  split
  · exact h.keyNotice seat
  · exact h

/-! ## The calendar -/

theorem State.ClosingWaits.evaluateIdle (h : s.cal.session.settled) : s.evaluateIdle.ClosingWaits :=
  .of_not_closing (s.evaluateIdle_settled h).2

/-- A test of the session's end outside CLOSING: CLOSING begins, or the session stands in IN_SESSION or GRACE. -/
theorem State.ClosingWaits.testEnd (h : s.ClosingWaits) : s.testEnd.ClosingWaits := by
  unfold State.testEnd
  split
  · exact h
  · simp only
    split
    · split
      · split
        · exact .of_not_closing (by simp)
        · exact .startClosing _ _
      · exact h
    · split
      · exact State.ClosingWaits.autoAdvance (.of_not_closing (by simp))
      · split
        · exact .startClosing _ _
        · next hg _ _ => exact .of_not_closing (by simp [hg])
    · exact h

theorem State.ClosingWaits.removeMissed (h : s.ClosingWaits) : s.removeMissed.ClosingWaits :=
  h.of_same s.removeMissed_session (by rw [s.removeMissed_rests.openList]) fun i hi => by
    rwa [State.micOf, s.removeMissed_rests.recs]

theorem State.ClosingWaits.evaluate (h : s.ClosingWaits) : s.evaluate.ClosingWaits := by
  unfold State.evaluate
  split
  · next hs => exact .evaluateIdle (by simp [Session.settled, hs])
  · next hs => exact .evaluateIdle (by simp [Session.settled, hs])
  · exact h
  all_goals
    split
    · split
      · exact h.testEnd
      · exact h
    · exact h.removeMissed.testEnd

/-! ## Losses -/

theorem State.ClosingWaits.floorLost (h : s.ClosingWaits) (seat : Seat) : (s.floorLost seat).ClosingWaits := by
  unfold State.floorLost
  split
  · exact h.removeThenAdvance seat .lost
  · exact h.withdraw seat .lost

theorem State.micClose_cal (seat : Seat) : (s.micClose seat).cal = s.cal := s.micClose_keeps seat .cal (by decide)

theorem State.micClose_floor (seat : Seat) : (s.micClose seat).floor = s.floor := s.micClose_keeps seat .floor (by decide)

theorem State.ClosingWaits.micLost (h : s.ClosingWaits) (seat : Seat) : (s.micLost seat).ClosingWaits := by
  unfold State.micLost
  split
  · exact h
  · exact .reportClosed fun hc => by
      rw [State.micClose_cal] at hc
      rw [State.micClose_floor]
      exact (h hc).1

theorem State.ClosingWaits.lossNotice (h : s.ClosingWaits) (p : Pos) : (s.lossNotice p).ClosingWaits :=
  ((h.floorLost _).micLost _ : (s.lossHeard p).ClosingWaits)

end Floor

end Sys2Proof.Machine

namespace Sys2Proof.Machine

/-! ## Requests for the floor (04 R74–R82) -/

section Press
variable {s : State}

/-- A request for the floor outside GRACE and CLOSING leaves the session. -/
theorem State.replaceAndGrant_cal (h : s.cal.session.settled) (o i : Seat) (c : Source) : (s.replaceAndGrant o i c).cal = s.cal := by
  have removed := ((s.removeEntry_moves o .replaced).of_settled h).1
  unfold State.replaceAndGrant
  simp [removed]

theorem State.askOpen_session (h : s.cal.session.settled) (i : Seat) : (s.askOpen i).cal.session = s.cal.session := by
  unfold State.askOpen
  split
  · simp
  · split
    · split
      · rw [State.replaceAndGrant_cal h]
      · simp [State.refuse_cal]
    · simp [State.refuse_cal]

theorem State.askQueue_session (h : s.cal.session.settled) (i : Seat) : (s.askQueue i).cal.session = s.cal.session := by
  unfold State.askQueue
  split
  · exact State.askOpen_session h i
  · split
    · simp
    · simp [State.refuse_cal]

/-- A press that passes its checks is made in IN_SESSION, or in GRACE by a seat that holds the floor. -/
theorem State.pressRefusal_none {seat : Seat} (h : s.pressRefusal seat = none) (hh : s.holds seat = false) :
    s.cal.session = .inSession := by
  unfold State.pressRefusal at h
  cases hl : s.store.halted with
  | true => simp [hl] at h
  | false => cases hs : s.cal.session <;> simp_all [Session.runs]

theorem State.ClosingWaits.press (h : s.ClosingWaits) (seat : Seat) : (s.press seat).ClosingWaits := by
  unfold State.press
  split
  · exact h.refuse _ _ _
  · next none =>
    split
    · exact h.removeThenAdvance seat .released
    · next hh =>
      have running : s.cal.session = .inSession := State.pressRefusal_none none (by simpa using hh)
      have waits : (s.setFloor fun f => { f with blocked := f.blocked.set seat false }).ClosingWaits := h
      have settled : (s.setFloor fun f => { f with blocked := f.blocked.set seat false }).cal.session.settled := by
        simp [Session.settled, running]
      simp only
      split
      · exact (waits.withdraw seat .withdrawn).autoAdvance
      · split
        · exact .of_not_closing (by rw [State.askOpen_session settled]; exact settled.2)
        · exact .of_not_closing (by rw [State.askQueue_session settled]; exact settled.2)
        · exact waits

theorem State.priorityRefusal_none {seat : Seat} (h : s.priorityRefusal seat = none) : s.cal.session = .inSession := by
  unfold State.priorityRefusal at h
  cases hl : s.store.halted with
  | true => simp [hl] at h
  | false => cases hs : s.cal.session <;> simp_all [Session.runs]

/-- Several removals outside GRACE and CLOSING leave the calendar. -/
theorem State.removeEntries_cal (l : List Seat) (r : Reason) (h : s.cal.session.settled) :
    (l.foldl (fun t i => t.removeEntry i r) s).cal = s.cal := by
  induction l generalizing s with
  | nil => rfl
  | cons i l ih =>
    have removed := ((s.removeEntry_moves i r).of_settled h).1
    exact (ih (by rw [removed]; exact h)).trans removed

theorem State.priorityTaken_session (h : s.cal.session.settled) (seat : Seat) :
    (s.priorityTaken seat).cal.session = s.cal.session := by
  have removed := State.removeEntries_cal ((s.floor.openList.map (·.seat)).filter fun t => s.classOf t ≠ .chair) .priority h
  unfold State.priorityTaken
  simp only [State.autoAdvance_frame]
  generalize List.foldl _ _ _ = u at removed
  have cleared : (if s.cfg.clearQueue = true then u.clearQueue .priority else u).cal = s.cal := by
    split
    · simp [removed]
    · exact removed
  generalize (if s.cfg.clearQueue = true then u.clearQueue .priority else u) = v at cleared
  split
  · rw [cleared]
  · split
    · simp [cleared]
    · simp [State.refuse_cal, cleared]

theorem State.ClosingWaits.priorityPress (h : s.ClosingWaits) (seat : Seat) : (s.priorityPress seat).ClosingWaits := by
  unfold State.priorityPress
  split
  · exact h
  · split
    · exact h.refuse _ _ _
    · next none =>
      have running := State.priorityRefusal_none none
      exact .of_not_closing (by rw [State.priorityTaken_session (by simp [Session.settled, running]), running]; simp)

theorem State.ClosingWaits.takeAnswer (h : s.ClosingWaits) (p : Pos) (card : Option Key) (serial : Serial) :
    (s.takeAnswer p card serial).ClosingWaits := by
  unfold State.takeAnswer
  split
  · exact h.of_keeps (s.startPass_keeps _) (by decide)
  · exact State.ClosingWaits.permissionChange (h.of_keeps (s.setPos_keeps p _) (by decide)) _ _

theorem State.ClosingWaits.slotAnswer (h : s.ClosingWaits) (p : Pos) : (s.slotAnswer p).ClosingWaits := by
  unfold State.slotAnswer
  split
  · split
    · exact State.ClosingWaits.takeAnswer (h.of_keeps (s.setPos_keeps p _) (by decide)) _ _ _
    · exact h
  · exact h

theorem State.ClosingWaits.slotEvent (h : s.ClosingWaits) (p : Pos) : (s.slotEvent p).ClosingWaits := by
  have answered := h.slotAnswer p
  unfold State.slotEvent
  simp only
  split
  · exact answered
  · next k _ =>
    split
    · have taken := answered.of_keeps ((s.slotAnswer p).setPos_keeps p fun r => { r with event := none }) (by decide)
      cases k with
      | button => exact taken.press _
      | priority => exact taken.priorityPress _
    · exact answered

end Press

/-! ## A chain cycle -/

section Cycle
variable {s : State}

theorem State.ClosingWaits.voiceTry (h : s.ClosingWaits) (seen : Seat → Bool) (seat : Seat) : (State.voiceTry seen s seat).ClosingWaits := by
  unfold State.voiceTry
  split
  · exact h
  · split
    · next hs =>
      split
      · exact .of_cal (by simp [hs]) (s.grantSeat_keeps seat .voice) (by decide)
      · exact h
    · split
      · exact h
      · exact h.refuse _ _ _
    · exact h

theorem State.ClosingWaits.voiceCycle (h : s.ClosingWaits) : s.voiceCycle.ClosingWaits := by
  unfold State.voiceCycle
  refine State.ClosingWaits.setFloor ?_ _ rfl
  split
  · exact State.ClosingWaits.foldl (f := State.voiceTry fun i => s.floor.seen[i]) (fun _ _ ht => ht.voiceTry _ _) _
      (h.foldl (fun _ _ ht => ht.removeEntry _ _) _)
  · exact h

theorem State.ClosingWaits.passNotice (h : s.ClosingWaits) (p : Pos) (o : PassOutcome) : (s.passNotice p o).ClosingWaits := by
  unfold State.passNotice
  split
  · exact h.lossNotice p
  · exact h.lossNotice p
  · exact h
  · exact h
  · exact h

theorem State.ClosingWaits.endPass (h : s.ClosingWaits) (w : Wing) : (s.endPass w).ClosingWaits := by
  unfold State.endPass
  split
  · have decided : (s.wingDecided w).ClosingWaits := h.of_keeps (s.wingDecided_keeps w) (by decide)
    rw [s.finishPass_eq w]
    exact State.ClosingWaits.of_keeps (decided.foldl (fun _ _ ht => ht.passNotice _ _) _) (State.forgetDisplays_keeps _ w) (by decide)
  · exact h

theorem State.ClosingWaits.endCycle (h : s.ClosingWaits) : s.endCycle.ClosingWaits := by
  have taken : s.takeSlots.ClosingWaits := h.foldl (fun _ _ ht => ht.slotEvent _) _
  exact ((taken.voiceCycle.endPass .a).endPass .b).of_keeps (State.moveScan_keeps _) (by decide)

theorem State.ClosingWaits.endGap (h : s.ClosingWaits) (seat : Seat) : (s.endGap seat).ClosingWaits := by
  unfold State.endGap
  split
  · have opened : (s.setMic seat fun m => { m with state := .opened, gap := 0, timer := 0, cycles := 0 }).ClosingWaits :=
      h.setMic seat fun _ _ => by simp
    refine State.ClosingWaits.evaluateLimit ?_ seat
    split
    · exact opened
    · exact opened
  · exact .reportClosed fun hc => (h hc).1
  · exact h

theorem State.ClosingWaits.advanceTurn (h : s.ClosingWaits) (seat : Seat) : (s.advanceTurn seat).ClosingWaits :=
  State.ClosingWaits.evaluateLimit (s := s.tenthOn seat) (h.setMic seat fun _ hm => hm) seat

theorem MicRec.tick_state (m : MicRec) (early : Bool) : (m.tick early).state = m.state := by
  unfold MicRec.tick
  cases hs : m.state <;> split <;> simp

theorem State.ClosingWaits.micBoundary (h : s.ClosingWaits) : s.micBoundary.ClosingWaits := by
  have ticked : s.ticked.ClosingWaits := h.of_same rfl rfl fun i hi => by rwa [s.ticked_micOf, MicRec.tick_state]
  rw [s.micBoundary_eq]
  refine ticked.foldl (fun t i ht => ?_) _
  unfold State.micStep
  split
  · exact ht
  · split
    · exact ht.endGap i
    · exact ht.advanceTurn i

theorem State.ClosingWaits.advanceClock (h : s.ClosingWaits) : s.advanceClock.ClosingWaits := by
  have advanced : s.advanced.ClosingWaits := by
    refine h.of_same ?_ ?_ fun i hi => ?_
    · unfold State.advanced State.holdRoll
      split <;> rfl
    · rw [(s.advanced_keeps .floor (by decide) : s.advanced.floor = s.floor)]
    · rwa [State.micOf_congr (s.advanced_keeps .mic (by decide))]
  rw [s.advanceClock_eq]
  split
  · exact advanced.evaluate
  · exact advanced

theorem State.ClosingWaits.clockBoundary (h : s.ClosingWaits) : s.clockBoundary.ClosingWaits := by
  have held : ∀ u : State, u.ClosingWaits → ({ u with clock := u.clock.holdover } : State).ClosingWaits := fun _ hu => hu
  unfold State.clockBoundary
  refine held _ ?_
  split
  · exact h
  · split
    · exact h.advanceClock
    · exact h

theorem State.ClosingWaits.boundary (h : s.ClosingWaits) : s.boundary.ClosingWaits := by
  have transferred : s.transferDue.ClosingWaits := h.of_keeps s.transferDue_keeps (by decide)
  have shown := (transferred.micBoundary.of_keeps (State.messageBoundary_keeps _) (by decide)).of_keeps
    (State.screenBoundary_keeps _ s) (by decide)
  exact shown.clockBoundary.of_keeps (State.staggerBoundary_keeps _) (by decide)

theorem State.ClosingWaits.beginCycle (h : s.ClosingWaits) (t : State) : (s.beginCycle t).ClosingWaits := by
  have cal : (s.beginCycle t).cal = s.cal := s.beginCycle_rest t .cal (by decide)
  have floor : (s.beginCycle t).floor = s.floor := s.beginCycle_rest t .floor (by decide)
  exact h.of_same (by rw [cal]) (by rw [floor]) fun i hi => by rwa [s.beginCycle_micOf t i]

end Cycle

end Sys2Proof.Machine

namespace Sys2Proof.Machine

/-! ## A restart, power and the clock (11 R192–R195; 03 R44, R46) -/

section Restart
variable {s : State}

theorem State.ClosingWaits.warmRestart (s : State) : s.warmRestart.ClosingWaits := by
  have cal : s.restartLeft.cal = { s.cal.dropSession with stepPending := false } := s.restartLeft_keeps .cal (by decide)
  have ended : s.cal.dropSession.session ≠ .closing := by
    unfold Calendar.dropSession
    split
    · simp
    · next active => exact fun hc => active (by rw [hc]; rfl)
  have left : s.restartLeft.ClosingWaits := .of_not_closing (by rw [cal]; exact ended)
  rw [s.warmRestart_eq]
  exact left.evaluate.of_keeps (State.refreshScreens_keeps _) (by decide)

theorem State.ClosingWaits.takeRestart (h : s.ClosingWaits) : s.takeRestart.ClosingWaits := by
  unfold State.takeRestart
  split
  · exact .warmRestart s
  · exact h

theorem State.ClosingWaits.cycle (h : s.ClosingWaits) : s.cycle.ClosingWaits :=
  State.ClosingWaits.of_keeps (h.takeRestart.endCycle.boundary.beginCycle _) (State.refreshScreens_keeps _) (by decide)

theorem State.ClosingWaits.powerOn (s : State) (carrierA carrierB : Bool) : (s.powerOn carrierA carrierB).ClosingWaits :=
  .of_not_closing (by rw [State.powerOn_eq]; simp [State.fromImage, Calendar.powerOn])

theorem State.ClosingWaits.powerLoss (s : State) : s.powerLoss.ClosingWaits := .of_not_closing (by
  simp [State.powerLoss, State.fromImage, Calendar.powerOn])

theorem State.ClosingWaits.saveComplete (h : s.ClosingWaits) (success : Bool) : (s.saveComplete success).ClosingWaits := by
  unfold State.saveComplete
  split
  · exact h
  · split
    · exact h
    · exact h

/-- The ACTIVE booking moves into the new time, and the session goes on. -/
theorem State.ClosingWaits.moveAdhoc (h : s.ClosingWaits) (old : Nat) : (s.moveAdhoc old).ClosingWaits := by
  unfold State.moveAdhoc
  split
  · exact h
  · exact h.removeMissed

theorem State.ClosingWaits.takeTime (h : s.ClosingWaits) (t : RoomTime) : (s.takeTime t).ClosingWaits := by
  have now : ({ s with clock := { now := t, cycles := 0, sync := .synced, age := 0 } } : State).ClosingWaits := h
  unfold State.takeTime
  simp only
  split
  · exact h
  · refine State.ClosingWaits.evaluate ?_
    split
    · exact now.moveAdhoc _
    · exact now

end Restart

/-! ## The chain ports and the room link -/

section Ports
variable {s : State}

theorem State.ClosingWaits.carrierLoss (h : s.ClosingWaits) (w : Wing) : (s.carrierLoss w).ClosingWaits :=
  State.ClosingWaits.foldl (s := s.carrierDropped w) (fun _ _ ht => ht.lossNotice _) _
    (h.of_keeps (s.carrierDropped_keeps w) (by decide))

theorem State.ClosingWaits.badSlot (h : s.ClosingWaits) (p : Pos) : (s.badSlot p).ClosingWaits := by
  by_cases hl : s.pos[p].loss < 2
  · unfold State.badSlot
    simp only [if_pos hl]
    exact h
  · rw [s.badSlot_lost p hl]
    exact (h.of_keeps (s.slotDropped_keeps p) (by decide)).lossNotice p

theorem State.ClosingWaits.upstreamSlot (h : s.ClosingWaits) (p : Pos) (raw : List Byte) : (s.upstreamSlot p raw).ClosingWaits := by
  unfold State.upstreamSlot
  split
  · split
    · exact State.ClosingWaits.of_keeps (h.of_keeps (s.identify_keeps p _) (by decide)) (State.chunkReport_keeps _ _ _) (by decide)
    · exact h
  · split
    · split
      · exact h
      · exact h.badSlot p
    · exact h

theorem State.ClosingWaits.startPass (h : s.ClosingWaits) (w : Wing) : (s.startPass w).ClosingWaits :=
  h.of_keeps (s.startPass_keeps w) (by decide)

/-- A good marker starts a pass, is counted, or is passed over. -/
theorem State.ClosingWaits.marker (h : s.ClosingWaits) (w : Wing) (count : Nat) : (s.marker w count).ClosingWaits := by
  have starts : ∀ c : Prop, ∀ _ : Decidable c, (if c then s.startPass w else s).ClosingWaits := fun c _ => by
    split
    · exact h.startPass w
    · exact h
  unfold State.marker
  simp only
  split
  · exact starts _ _
  · exact starts _ _
  · exact starts _ _
  · split
    · exact h
    · split
      · exact h.of_keeps (s.setWing_keeps w _) (by decide)
      · split
        · exact h
        · exact h.startPass w

theorem State.ClosingWaits.wingEndMarker (h : s.ClosingWaits) (w : Wing) (raw : List Byte) : (s.wingEndMarker w raw).ClosingWaits := by
  unfold State.wingEndMarker
  split
  · exact h.marker w _
  · exact h

theorem State.storeInvalidNotice_keeps (s : State) : s.keeps s.storeInvalidNotice [.store, .sending, .linkCounters] := by
  unfold State.storeInvalidNotice
  split
  · refine State.keeps_trans (t := ({ s with store := { s.store with storeInvalid := false } } : State)) ?_
      (State.keeps_mono (State.notice_keeps _ _ _) (by decide))
    intro p hp
    cases p <;> simp_all [State.agrees]
  · exact s.keeps_refl _

theorem State.ClosingWaits.linkUp (h : s.ClosingWaits) : s.linkUp.ClosingWaits := by
  unfold State.linkUp
  split
  · exact h
  · exact State.ClosingWaits.of_keeps (s := { s with link := { s.link with up := true } }) h (State.storeInvalidNotice_keeps _) (by decide)

theorem State.ClosingWaits.linkDown (h : s.ClosingWaits) : s.linkDown.ClosingWaits := by
  unfold State.linkDown
  split
  · exact h
  · exact h

theorem State.ClosingWaits.fillPlace (h : s.ClosingWaits) : s.fillPlace.ClosingWaits := by
  unfold State.fillPlace
  split
  · exact h.of_keeps s.admitReply_keeps (by decide)
  · split
    · next e _ =>
      exact State.ClosingWaits.of_keeps (s := { s with link := { s.link with lastAdmitted := e } }) h (State.admitScreen_keeps _ e) (by decide)
    · exact h

theorem State.ClosingWaits.frameSent (h : s.ClosingWaits) : s.frameSent.ClosingWaits := by
  unfold State.frameSent
  split
  · have sent := h.takeRestart.of_keeps (State.startSending_keeps _) (by decide)
    have counted : s.takeRestart.startSending.countHeld.ClosingWaits := by
      unfold State.countHeld
      split
      · exact sent
      · exact sent
    exact State.ClosingWaits.fillPlace counted
  · exact h

/-- An operation ends without another effect on the session. -/
theorem State.ClosingWaits.finishOp {op : Op} {r : OpResult} (h : r.state.ClosingWaits) : (State.finishOp op r).ClosingWaits :=
  h.of_keeps (State.finishOp_keeps op r) (by decide)

theorem State.ClosingWaits.takeRequest (h : s.ClosingWaits) : s.takeRequest.ClosingWaits := by
  unfold State.takeRequest
  split
  · split
    · exact h
    · unfold State.malformedRequest
      simp only
      split
      · exact h
      · exact State.ClosingWaits.of_keeps (s := s.setMgmt _) h (State.reply_keeps _ _) (by decide)
  · split
    · exact State.ClosingWaits.finishOp (r := fail s .badValue) h
    · exact h
  · exact h

end Ports

/-! ## The owners of the operations -/

section Owners
variable {s : State}

theorem done_waits (h : s.ClosingWaits) (clamped : Bool) : (done s clamped).state.ClosingWaits := h

theorem takeValues_waits (h : s.ClosingWaits) {o : Object} {index fld : Nat} {vals : List Byte} {owner : List Value → OpResult}
    (ho : ∀ vs, (owner vs).state.ClosingWaits) : (takeValues o index fld vals s owner).state.ClosingWaits := by
  unfold takeValues
  split
  · exact h
  · split
    · split
      · exact h
      · exact ho _
    · exact h

theorem accept_waits {σ : Type} (h : s.ClosingWaits) {r : Stored σ} {effects : σ → State}
    (he : ∀ x c, r = .ok (x, c) → (effects x).ClosingWaits) : (accept s r effects).state.ClosingWaits := by
  unfold accept
  split
  · exact h
  · exact done_waits (he _ _ rfl) _

/-- What every stored value keeps, all of them keep. -/
theorem storeAll_invariant {σ : Type} {P : σ → Prop} {f : σ → Value → Stored σ} (hf : ∀ x v y c, P x → f x v = .ok (y, c) → P y) :
    ∀ (vs : List Value) {x y : σ} {c : Bool}, P x → storeAll f x vs = .ok (y, c) → P y := by
  intro vs
  induction vs with
  | nil =>
    intro x y c hx hs
    simp only [storeAll, Except.ok.injEq, Prod.mk.injEq] at hs
    exact hs.1 ▸ hx
  | cons v vs ih =>
    intro x y c hx hs
    unfold storeAll at hs
    split at hs
    · cases hs
    · next z d stored =>
      split at hs
      · cases hs
      · next rest =>
        obtain ⟨rfl, -⟩ := Prod.mk.inj (Except.ok.inj hs)
        exact ih (hf _ _ _ _ hx stored) rest

theorem State.ClosingWaits.configEffects (h : s.ClosingWaits) (vs : List Value) : (s.configEffects vs).ClosingWaits := by
  have led : (if wroteField vs 0 then s.evaluate else s).ClosingWaits := by
    split
    · exact h.evaluate
    · exact h
  unfold State.configEffects
  simp only
  generalize (if wroteField vs 0 then s.evaluate else s) = u at led
  have advanced : (if wroteField vs 1 ∧ s.cfg.autoAdvance then u.autoAdvance else u).ClosingWaits := by
    split
    · exact led.autoAdvance
    · exact led
  split
  · exact advanced.foldl (fun _ _ ht => ht.evaluateLimit _) _
  · exact advanced

theorem State.ClosingWaits.writeConfig (h : s.ClosingWaits) (index fld : Nat) (vals : List Byte) :
    (s.writeConfig index fld vals).state.ClosingWaits :=
  takeValues_waits h fun vs => by
    split
    · exact h
    · next c _ _ => exact done_waits (State.ClosingWaits.configEffects (s := { s with cfg := (c.settle vs).1 }) (h.of_eq rfl rfl rfl) vs) _

theorem State.ClosingWaits.storeSeat (h : s.ClosingWaits) (v : Value) : (s.storeSeat v).ClosingWaits := by
  unfold State.storeSeat
  split
  · exact h.of_keeps (s.setRec_keeps _ _) (by decide)
  · exact h

theorem State.ClosingWaits.seatEffect (h : s.ClosingWaits) (before : State) (v : Value) : (State.seatEffect before s v).ClosingWaits := by
  unfold State.seatEffect
  split
  · exact (h.classChange _ _).permissionChange _ _
  · exact h.evaluateLimit _
  · exact h

theorem State.ClosingWaits.writeSeats (h : s.ClosingWaits) (index fld : Nat) (vals : List Byte) :
    (s.writeSeats index fld vals).state.ClosingWaits :=
  takeValues_waits h fun vs => by
    split
    · exact h
    · split
      · exact h
      · exact done_waits (State.ClosingWaits.foldl (fun _ v ht => ht.seatEffect s v) vs (h.foldl (fun _ v ht => ht.storeSeat v) vs)) _

theorem State.ClosingWaits.setMode (h : s.ClosingWaits) (m : Mode) : (s.setMode m).ClosingWaits := by
  unfold State.setMode
  split
  · exact h
  · have set : (s.setFloor fun f => { f with mode := m, blocked := Vector.replicate 64 false }).ClosingWaits := h.setFloor _ rfl
    simp only
    refine State.ClosingWaits.autoAdvance ?_
    split
    · exact set.clearQueue .mode
    · exact set

theorem State.ClosingWaits.setMaxOpen (h : s.ClosingWaits) (n : Nat) : (s.setMaxOpen n).ClosingWaits :=
  State.ClosingWaits.autoAdvance (State.ClosingWaits.reduceOpen (h.setFloor _ rfl))

theorem State.ClosingWaits.writeFloor (h : s.ClosingWaits) (index fld : Nat) (vals : List Byte) :
    (s.writeFloor index fld vals).state.ClosingWaits :=
  takeValues_waits h fun vs => accept_waits h fun t c stored => by
    refine storeAll_invariant (P := State.ClosingWaits) (fun x v y c hx hy => ?_) vs h stored
    unfold State.storeFloor at hy
    simp only at hy
    split at hy
    · split at hy
      · obtain ⟨rfl, -⟩ := Prod.mk.inj (Except.ok.inj hy)
        exact hx.setMode _
      · cases hy
    · obtain ⟨rfl, -⟩ := Prod.mk.inj (Except.ok.inj hy)
      exact hx.setMaxOpen _

theorem State.ClosingWaits.gainMark (h : s.ClosingWaits) (v : Value) : (s.gainMark v).ClosingWaits := by
  unfold State.gainMark
  split
  · split
    · exact h.of_keeps (s.setRec_keeps _ _) (by decide)
    · exact h
  · exact h

theorem State.ClosingWaits.writeMixStaged (h : s.ClosingWaits) (index fld : Nat) (vals : List Byte) :
    (s.writeMixStaged index fld vals).state.ClosingWaits :=
  takeValues_waits h fun vs => accept_waits h fun t _ _ =>
    State.ClosingWaits.foldl (s := ({ s with mix := { s.mix with staged := t, pending := true } }).markStaged true)
      (fun _ v ht => ht.gainMark v) vs h

theorem State.ClosingWaits.writeDestinations (h : s.ClosingWaits) (index fld : Nat) (vals : List Byte) :
    (s.writeDestinations index fld vals).state.ClosingWaits :=
  takeValues_waits h fun _ => accept_waits h fun l _ _ =>
    State.ClosingWaits.of_keeps (s := { s with link := l }) h (State.storeInvalidNotice_keeps _) (by decide)

theorem State.ClosingWaits.writeBookings (h : s.ClosingWaits) (index fld : Nat) (vals : List Byte) :
    (s.writeBookings index fld vals).state.ClosingWaits :=
  takeValues_waits h fun _ => accept_waits h fun bs _ _ =>
    State.ClosingWaits.evaluate (s := { s with cal := { s.cal with bookings := bs } }) h

theorem State.ClosingWaits.writeRoomScreens (h : s.ClosingWaits) (index fld : Nat) (vals : List Byte) :
    (s.writeRoomScreens index fld vals).state.ClosingWaits :=
  takeValues_waits h fun _ => accept_waits h fun t _ _ =>
    State.ClosingWaits.of_keeps (s := { s with disp := { s.disp with screens := t } }) h (State.refreshScreens_keeps _) (by decide)

/-- STATION, GROUPS, ROSTERS and TEMPLATES are stored, and nothing follows. -/
theorem State.ClosingWaits.writeStored (h : s.ClosingWaits) (index fld : Nat) (vals : List Byte) :
    (s.writeStation index fld vals).state.ClosingWaits ∧ (s.writeGroups index fld vals).state.ClosingWaits ∧
      (s.writeRosters index fld vals).state.ClosingWaits ∧ (s.writeTemplates index fld vals).state.ClosingWaits :=
  ⟨takeValues_waits h fun _ => accept_waits h fun _ _ _ => h, takeValues_waits h fun _ => accept_waits h fun _ _ _ => h,
    takeValues_waits h fun _ => accept_waits h fun _ _ _ => h, takeValues_waits h fun _ => accept_waits h fun _ _ _ => h⟩

theorem State.ClosingWaits.writeObject (h : s.ClosingWaits) (o : Object) (index fld : Nat) (vals : List Byte) :
    (s.writeObject o index fld vals).state.ClosingWaits := by
  obtain ⟨station, groups, rosters, templates⟩ := h.writeStored index fld vals
  unfold State.writeObject
  split
  · exact station
  · exact groups
  · exact h.writeDestinations index fld vals
  · exact h.writeConfig index fld vals
  · exact h.writeBookings index fld vals
  · exact rosters
  · exact templates
  · exact h.writeRoomScreens index fld vals
  · exact h.writeSeats index fld vals
  · exact h.writeMixStaged index fld vals
  · exact h.writeFloor index fld vals
  all_goals exact takeValues_waits h fun _ => h

theorem State.ClosingWaits.writeByCode (h : s.ClosingWaits) (obj : Byte) (index : BitVec 16) (fld : Byte) (vals : List Byte) :
    (s.writeByCode obj index fld vals).state.ClosingWaits := by
  unfold State.writeByCode
  split
  · exact h.writeObject _ _ _ _
  · exact h

theorem State.ClosingWaits.flagOwner (h : s.ClosingWaits) (k : FlagOp) (obj : Byte) (index : BitVec 16) (fld : Byte) (mask : BitVec 16) :
    (s.flagOwner k obj index fld mask).state.ClosingWaits := by
  unfold State.flagOwner
  split
  · exact h
  · split
    · exact h
    · split
      · exact h
      · split
        · exact h
        · exact h.writeObject _ _ _ _

theorem State.ClosingWaits.readOwner (h : s.ClosingWaits) (obj : Byte) (first count : BitVec 16) :
    (s.readOwner obj first count).state.ClosingWaits := by
  unfold State.readOwner
  split
  · exact h
  · simp only
    split
    · exact h
    · exact h

theorem State.ClosingWaits.readClearOwner (h : s.ClosingWaits) (obj part : Byte) : (s.readClearOwner obj part).state.ClosingWaits := by
  have cleared : ∀ n, (s.clearPart n).ClosingWaits := fun n => by
    unfold State.clearPart
    split <;> exact h.of_eq rfl rfl rfl
  unfold State.readClearOwner
  simp only
  split
  · exact h
  · split
    · exact h
    · split
      · exact cleared _
      · exact h

end Owners

end Sys2Proof.Machine

namespace Sys2Proof.Machine

/-! ## The actions -/

section Actions
variable {s : State}

/-- A floor action that passes the state checks is taken while the session runs (04 R83). -/
theorem floorAction_waits (h : s.ClosingWaits) {act : State → OpResult}
    (ha : s.cal.session.runs = true → (act s).state.ClosingWaits) : (floorAction s act).state.ClosingWaits := by
  unfold floorAction
  split
  · exact h
  · split
    · exact h
    · next hr => exact ha (by simpa using hr)

theorem withSeat_waits (h : s.ClosingWaits) {n : Byte} {act : Seat → OpResult} (ha : ∀ i, (act i).state.ClosingWaits) :
    (withSeat s n act).state.ClosingWaits := by
  unfold withSeat
  split
  · exact ha _
  · exact h

theorem Session.runs_not_closing {x : Session} (h : x.runs = true) : x ≠ .closing := fun hc => by
  rw [hc] at h
  cases h

/-- A GRANT to a seat that does not hold the floor is refused in GRACE. -/
theorem State.grantRefusal_none {seat : Seat} (h : s.grantRefusal seat = none) (hr : s.cal.session.runs = true)
    (hh : s.holds seat = false) : s.cal.session.settled := by
  unfold State.grantRefusal at h
  refine ⟨fun hg => ?_, Session.runs_not_closing hr⟩
  simp [hg, hh] at h

theorem State.ClosingWaits.grant (h : s.ClosingWaits) (hr : s.cal.session.runs = true) (seat : Seat) (force : Bool) :
    (s.grant seat force).state.ClosingWaits := by
  unfold State.grant
  split
  · exact h
  · next none =>
    split
    · exact h
    · next hh =>
      split
      · exact done_waits (.of_cal (Session.runs_not_closing hr) (s.grantSeat_keeps seat .management) (by decide)) false
      · split
        · have settled := State.grantRefusal_none none hr (by simpa using hh)
          exact done_waits (.of_not_closing (by rw [State.replaceAndGrant_cal settled]; exact settled.2)) false
        · exact h

theorem State.ClosingWaits.grantAction (h : s.ClosingWaits) (seat force : Byte) : (s.grantAction seat force).state.ClosingWaits :=
  floorAction_waits h fun hr => withSeat_waits h fun i => by
    split
    · exact h
    · exact h.grant hr i _

theorem State.ClosingWaits.revokeAction (h : s.ClosingWaits) (seat : Byte) : (s.revokeAction seat).state.ClosingWaits :=
  floorAction_waits h fun _ => withSeat_waits h fun i => by
    split
    · exact done_waits (h.removeThenAdvance i .revoked) false
    · split
      · exact done_waits (h.withdraw i .revoked) false
      · exact h

theorem State.ClosingWaits.closeAllAction (h : s.ClosingWaits) : s.closeAllAction.state.ClosingWaits :=
  floorAction_waits h fun _ => done_waits (h.foldl (fun _ _ ht => ht.removeThenAdvance _ _) s.floor.openList) false

theorem State.ClosingWaits.nextAction (h : s.ClosingWaits) : s.nextAction.state.ClosingWaits :=
  floorAction_waits h fun hr => by
    split
    · exact h
    · split
      · exact h
      · split
        · next e _ _ _ =>
          have granted : (s.grantSeat e.seat .management).ClosingWaits :=
            .of_cal (Session.runs_not_closing hr) (s.grantSeat_keeps e.seat .management) (by decide)
          exact done_waits granted.autoAdvance false
        · exact h

/-- A seat is placed in the queue: the open list and the states of the microphones are as they were. -/
theorem State.ClosingWaits.placeAt (h : s.ClosingWaits) (seat : Seat) (p : Nat) : (s.placeAt seat p).ClosingWaits := by
  have marked : ∀ f : Floor → Floor, (f s.floor).openList = s.floor.openList →
      ((s.setFloor f).setMic seat fun m => { m with queued := true }).ClosingWaits :=
    fun f hf => (h.setFloor f hf).setMic seat fun _ hm => hm
  unfold State.placeAt
  simp only
  exact (marked _ rfl).of_keeps (State.floorChange_keeps _ _ _ _ _ _) (by decide)

theorem State.ClosingWaits.queuePlaceAction (h : s.ClosingWaits) (seat position : Byte) :
    (s.queuePlaceAction seat position).state.ClosingWaits :=
  floorAction_waits h fun _ => withSeat_waits h fun i => by
    split
    · exact h
    · split
      · exact h
      · exact done_waits (h.placeAt i _).autoAdvance false

theorem State.ClosingWaits.clearQueueAction (h : s.ClosingWaits) : s.clearQueueAction.state.ClosingWaits :=
  floorAction_waits h fun _ => done_waits (h.clearQueue .cleared) false

theorem State.ClosingWaits.openAdhocAction (h : s.ClosingWaits) (duration : BitVec 16) (key chair mode maxOpen : Byte) :
    (s.openAdhocAction duration key chair mode maxOpen).state.ClosingWaits := by
  unfold State.openAdhocAction
  split
  · exact h
  · exact h
  · exact h
  · exact h
  · split
    · simp only
      split
      · exact h
      · split
        · exact h
        · exact done_waits (State.ClosingWaits.evaluate (.of_not_closing (by rw [State.startSession_session]; decide))) _
    · exact h

theorem State.ClosingWaits.extendAction (h : s.ClosingWaits) (minutes : Byte) : (s.extendAction minutes).state.ClosingWaits := by
  have grown : ∀ n, (s.lengthen n).evaluate.ClosingWaits := fun n =>
    State.ClosingWaits.evaluate (h.of_same rfl rfl fun _ hi => hi)
  have extended : (match s.activeBooking with
      | none => fail s .noSession
      | some b =>
        let m := clampTo 1 120 minutes.toNat
        let e := min m (1440 - b.duration)
        if e = 0 then done s true
        else if s.passesNext (b.finish + e) then fail s .overlap
        else done ((s.lengthen e).evaluate) (m != minutes.toNat || e != m) : OpResult).state.ClosingWaits := by
    split
    · exact h
    · simp only
      split
      · exact h
      · split
        · exact h
        · exact done_waits (grown _) _
  unfold State.extendAction
  split
  · exact h
  · exact h
  · exact h
  · exact extended
  · exact extended

theorem State.ClosingWaits.endSessionAction (h : s.ClosingWaits) : s.endSessionAction.state.ClosingWaits := by
  unfold State.endSessionAction
  split
  · exact done_waits (.startClosing s .endSession) false
  · exact h

theorem State.ClosingWaits.sendMessageAction (h : s.ClosingWaits) (target : Byte) (txt : List Byte) :
    (s.sendMessageAction target txt).state.ClosingWaits := by
  have given : ∀ d, ({ s with disp := d } : State).ClosingWaits := fun _ => h.of_eq rfl rfl rfl
  unfold State.sendMessageAction
  simp only
  split
  · exact done_waits (given _) _
  · split
    · exact h
    · split
      · exact done_waits (given _) _
      · exact h

theorem State.ClosingWaits.saveAction (h : s.ClosingWaits) : s.saveAction.state.ClosingWaits := by
  have stored : ∀ st, ({ s with store := st } : State).ClosingWaits := fun _ => h.of_eq rfl rfl rfl
  unfold State.saveAction
  split
  · exact h
  · exact done_waits (stored _) false

theorem State.ClosingWaits.enumerateAction (h : s.ClosingWaits) (wing : Byte) : (s.enumerateAction wing).state.ClosingWaits := by
  unfold State.enumerateAction
  split
  · exact done_waits (h.startPass .a) false
  · exact done_waits (h.startPass .b) false
  · exact h

/-- Of the floor and the session HALT's closing of a microphone moves nothing. -/
theorem State.closeMic_keeps (s : State) (seat : Seat) : s.keeps (s.closeMic seat) [.mic, .seats] := by
  unfold State.closeMic
  split
  · exact s.keeps_refl _
  · exact s.micClose_keeps seat

theorem State.closeMics_keeps (s : State) (l : List Seat) : s.keeps (l.foldl State.closeMic s) [.mic, .seats] :=
  State.foldl_keeps _ _ State.closeMic_keeps l s

/-- HALT has emptied the floor (04 R94). -/
def State.haltEmptied (s : State) : State :=
  s.floor.openList.foldl (fun t e => t.removeEntry e.seat .halted) { s with store := { s.store with halted := true } }

/-- HALT has closed every microphone, and has not reported it (05 R101, R110). -/
def State.haltClosed (s : State) : State := (numbers 64).foldl State.closeMic s.haltEmptied

/-- Every transfer is dropped, and the known texts stand (08 R156). -/
def State.transfersDropped (s : State) : State :=
  { s with disp := { s.disp with delivery := mapAll s.disp.delivery fun _ (d : Delivery) => { d with transfer := none } } }

theorem State.transfersDropped_keeps (s : State) : s.keeps s.transfersDropped [.delivery] := by
  intro p hp
  cases p <;> simp_all [State.agrees, State.transfersDropped]

theorem State.halt_eq (s : State) : s.halt = (s.haltClosed.reportClosed.clearQueue .halted).transfersDropped := by
  simp only [State.halt, State.haltEmptied, State.haltClosed, State.transfersDropped]

theorem State.ClosingWaits.halt (h : s.ClosingWaits) : s.halt.ClosingWaits := by
  have emptied : s.haltEmptied.ClosingWaits :=
    State.ClosingWaits.foldl (fun _ _ ht => ht.removeEntry _ _) s.floor.openList (h.of_eq rfl rfl rfl)
  have closed := s.haltEmptied.closeMics_keeps (numbers 64)
  have reported : s.haltClosed.reportClosed.ClosingWaits := .reportClosed fun hc => by
    rw [State.haltClosed, (closed .cal (by decide) : _ = s.haltEmptied.cal)] at hc
    rw [State.haltClosed, (closed .floor (by decide) : _ = s.haltEmptied.floor)]
    exact (emptied hc).1
  rw [s.halt_eq]
  exact (reported.clearQueue .halted).of_keeps (State.transfersDropped_keeps _) (by decide)

theorem State.ClosingWaits.haltAction (h : s.ClosingWaits) : s.haltAction.state.ClosingWaits := by
  unfold State.haltAction done
  simp only
  split
  · exact h
  · exact h.halt

theorem State.ClosingWaits.resumeAction (h : s.ClosingWaits) : s.resumeAction.state.ClosingWaits := by
  unfold State.resumeAction done
  simp only
  split
  · have running : ({ s with
        store := { s.store with halted := false }, level := mapAll s.level fun _ l => l.zero, link := s.link.unlearn } : State).ClosingWaits :=
      h.of_eq rfl rfl rfl
    exact (running.startPass .a).startPass .b
  · exact h

theorem State.ClosingWaits.unlockOwner (h : s.ClosingWaits) (value : Byte) : (s.unlockOwner value).state.ClosingWaits := by
  unfold State.unlockOwner
  split
  · exact done_waits (h.of_keeps (s.setMgmt_keeps _) (by decide)) false
  · exact h

end Actions

/-! ## Every command -/

/-- From a state in which CLOSING waits for a microphone, what a command leaves does so too. -/
def KeepsWaiting (f : State → Result) : Prop := ∀ s t, s.ClosingWaits → f s = .next t → t.ClosingWaits

theorem ok_waits {s t : State} (h : s.ClosingWaits) (ht : ok s = .next t) : t.ClosingWaits := by
  obtain rfl := Host.Outcome.next.inj ht
  exact h.of_keeps s.ended_keeps (by decide)

theorem KeepsWaiting.powered {f : State → State} (hf : ∀ s, s.ClosingWaits → (f s).ClosingWaits) :
    KeepsWaiting fun s => whenPowered s f := fun s t h ht => by
  simp only [whenPowered] at ht
  split at ht
  · exact ok_waits (hf s h) ht
  · obtain rfl := Host.Outcome.next.inj ht
    exact h

theorem KeepsWaiting.received {raw : List Byte} {f : State → Filtered → State}
    (hf : ∀ s r, s.ClosingWaits → (f s r).ClosingWaits) : KeepsWaiting fun s => whenReceived s raw f :=
  KeepsWaiting.powered fun s h => by
    split
    · exact hf s _ h
    · exact h

theorem KeepsWaiting.op {op : Op} {owner : State → OpResult} (ho : ∀ s, s.ClosingWaits → (owner s).state.ClosingWaits) :
    KeepsWaiting fun s => s.runOp op owner := fun s t h ht => by
  have performed : (s.perform op owner).state.ClosingWaits := by
    unfold State.perform
    split
    · exact h
    · split
      · exact h
      · exact ho s h
  simp only [State.runOp] at ht
  split at ht
  · obtain rfl := Host.Outcome.next.inj ht
    exact (State.ClosingWaits.finishOp performed).of_keeps (State.startSending_keeps _) (by decide)
  · obtain rfl := Host.Outcome.next.inj ht
    exact h

end Sys2Proof.Machine

namespace Sys2Proof.Machine

/-- A WRITE row is the WRITE of its object. -/
theorem KeepsWaiting.write {code : Byte} {index : BitVec 16} {fld : Byte} {vals : List Byte}
    {owner : Nat → Nat → List Byte → State → OpResult}
    (ho : ∀ s, s.ClosingWaits → (owner index.toNat fld.toNat vals s).state.ClosingWaits) :
    KeepsWaiting fun s => s.runWrite code index fld vals owner := KeepsWaiting.op ho

theorem KeepsWaiting.action {a : Action} {args : List Byte} {owner : State → OpResult}
    (ho : ∀ s, s.ClosingWaits → (owner s).state.ClosingWaits) : KeepsWaiting fun s => s.runAction a args owner := KeepsWaiting.op ho

/-- A step that is taken when it is due, and for the coming boundary. -/
theorem State.ClosingWaits.early {s t : State} (h : s.ClosingWaits) (ht : t.ClosingWaits) (c : Prop) [Decidable c] (e : Early) :
    (if c then t.takeEarly e else s).ClosingWaits := by
  split
  · exact ht.of_keeps (t.takeEarly_keeps e) (by decide)
  · exact h

/-! The frames that are received, each by its own row. -/

theorem frameDropped_keepsWaiting (raw : List Byte) : KeepsWaiting (execFrameDropped raw) := KeepsWaiting.received fun _ _ h => by
  split
  · exact h.of_eq rfl rfl rfl
  · exact h

theorem audioIn_keepsWaiting (raw : List Byte) : KeepsWaiting (execAudioIn raw) := KeepsWaiting.received fun _ _ h => by
  split
  · exact h.of_eq rfl rfl rfl
  · exact h

theorem time_keepsWaiting (raw : List Byte) : KeepsWaiting (execTime raw) := KeepsWaiting.received fun _ _ h => by
  split
  · exact h.takeTime _
  · exact h

theorem request_keepsWaiting (raw : List Byte) : KeepsWaiting (execRequest raw) := KeepsWaiting.received fun s _ h => by
  split
  · exact h.of_keeps (s.setMgmt_keeps _) (by decide)
  · exact h

/-- The events of the chain ports, the room link, power and time. -/
theorem events_keepWaiting : ∀ i : Instr, i.op = none → KeepsWaiting (exec i)
  | .powerOn a b, _ => fun s _ _ ht => ok_waits (.powerOn s a b) ht
  | .resetInput a b, _ => KeepsWaiting.powered fun s _ => .powerOn s a b
  | .carrierGain w, _ => KeepsWaiting.powered fun s h => h.of_keeps (State.carrierGain_keeps s w) (by decide)
  | .carrierLoss w, _ => KeepsWaiting.powered fun _ h => h.carrierLoss w
  | .chainCycle, _ => KeepsWaiting.powered fun _ h => h.cycle
  | .upstreamSlot p raw, _ => KeepsWaiting.powered fun _ h => h.upstreamSlot p raw
  | .wingEndMarker w raw, _ => KeepsWaiting.powered fun _ h => h.wingEndMarker w raw
  | .statusWord p _ _, _ => KeepsWaiting.powered fun _ h => by
    split
    · exact h.slotAnswer p
    · exact h
  | .button p, _ => KeepsWaiting.powered fun _ h => by
    split
    · exact h.slotEvent p
    · exact h
  | .priority p, _ => KeepsWaiting.powered fun _ h => by
    split
    · exact h.slotEvent p
    · exact h
  | .enumerationPassEnd w, _ => KeepsWaiting.powered fun _ h => h.endPass w
  | .commitTransfer, _ => KeepsWaiting.powered fun s h => h.of_keeps s.transferDue_keeps (by decide)
  | .gapEnd seat, _ => KeepsWaiting.powered fun _ h => h.early (h.endGap seat) _ _
  | .turnTimerAdvance seat, _ => KeepsWaiting.powered fun _ h => h.early (h.advanceTurn seat) _ _
  | .refusalFlashEnd seat, _ => KeepsWaiting.powered fun s h => by
    split
    · exact h.setMic seat fun _ hm => hm
    · exact h
  | .messageStep seat, _ => KeepsWaiting.powered fun s h => by
    have stepped : ∀ f, (s.setMessage seat f).ClosingWaits := fun _ => h.of_eq rfl rfl rfl
    split
    · exact h.early (stepped _) _ _
    · exact h
  | .screenWindowEnd e, _ => KeepsWaiting.powered fun s h => h.early (h.of_keeps (s.endWindow_keeps e) (by decide)) _ _
  | .clockTenth, _ => KeepsWaiting.powered fun _ h => h.early h.advanceClock _ _
  | .closingComplete, _ => KeepsWaiting.powered fun _ h => .reportClosed fun hc => (h hc).1
  | .holdover, _ => KeepsWaiting.powered fun _ h => h.of_eq rfl rfl rfl
  | .linkUp, _ => KeepsWaiting.powered fun _ h => h.linkUp
  | .linkDown, _ => KeepsWaiting.powered fun _ h => h.linkDown
  | .frameDropped raw, _ => frameDropped_keepsWaiting raw
  | .audioIn raw, _ => audioIn_keepsWaiting raw
  | .time raw, _ => time_keepsWaiting raw
  | .request raw, _ => request_keepsWaiting raw
  | .frameSent, _ => KeepsWaiting.powered fun _ h => h.frameSent
  | .requestTake, _ => KeepsWaiting.powered fun _ h => h.takeRequest
  | .staggerExpiry, _ => KeepsWaiting.powered fun s h => h.early (h.of_keeps s.offerReply_keeps (by decide)) _ _
  | .saveComplete success, _ => KeepsWaiting.powered fun _ h => h.saveComplete success
  | .restartTakesEffect, _ => KeepsWaiting.powered fun _ h => h.takeRestart
  | .powerLoss, _ => fun s _ _ ht => Host.Outcome.next.inj ht ▸ .powerLoss s

/-- The operations of a request. -/
theorem operations_keepWaiting : ∀ (i : Instr) {op : Op}, i.op = some op → KeepsWaiting (exec i)
  | .read obj first count, _, _ => KeepsWaiting.op fun _ h => h.readOwner obj first count
  | .readClear obj part, _, _ => KeepsWaiting.op fun _ h => h.readClearOwner obj part
  | .write obj index fld vals, _, _ => KeepsWaiting.op fun _ h => h.writeByCode obj index fld vals
  | .setFlags obj index fld mask, _, _ => KeepsWaiting.op fun _ h => h.flagOwner .set obj index fld mask
  | .clearFlags obj index fld mask, _, _ => KeepsWaiting.op fun _ h => h.flagOwner .clear obj index fld mask
  | .toggleFlags obj index fld mask, _, _ => KeepsWaiting.op fun _ h => h.flagOwner .toggle obj index fld mask
  | .unlock value, _, _ => KeepsWaiting.op fun _ h => h.unlockOwner value
  | .bookingInsert _, _, _ => KeepsWaiting.write fun _ h => h.writeBookings _ _ _
  | .bookingChange _ _ _, _, _ => KeepsWaiting.write fun _ h => h.writeBookings _ _ _
  | .bookingDelete _ _, _, _ => KeepsWaiting.write fun _ h => h.writeBookings _ _ _
  | .rosterWrite _ _ _, _, _ => KeepsWaiting.write fun _ h => (h.writeStored _ _ _).2.2.1
  | .templateWrite _ _ _, _, _ => KeepsWaiting.write fun _ h => (h.writeStored _ _ _).2.2.2
  | .roomScreenWrite _ _ _, _, _ => KeepsWaiting.write fun _ h => h.writeRoomScreens _ _ _
  | .stationWrite _ _ _, _, _ => KeepsWaiting.write fun _ h => (h.writeStored _ _ _).1
  | .groupsWrite _ _ _, _, _ => KeepsWaiting.write fun _ h => (h.writeStored _ _ _).2.1
  | .destinationsWrite _ _ _, _, _ => KeepsWaiting.write fun _ h => h.writeDestinations _ _ _
  | .mixStagedWrite _ _ _, _, _ => KeepsWaiting.write fun _ h => h.writeMixStaged _ _ _
  | .floorModeWrite _ _, _, _ => KeepsWaiting.write fun _ h => h.writeFloor _ _ _
  | .maxOpenWrite _ _, _, _ => KeepsWaiting.write fun _ h => h.writeFloor _ _ _
  | .classOverrideWrite _ _, _, _ => KeepsWaiting.write fun _ h => h.writeSeats _ _ _
  | .limitOverrideWrite _ _, _, _ => KeepsWaiting.write fun _ h => h.writeSeats _ _ _
  | .muteWrite _ _, _, _ => KeepsWaiting.write fun _ h => h.writeSeats _ _ _
  | .leadWrite _ _, _, _ => KeepsWaiting.write fun _ h => h.writeConfig _ _ _
  | .switchWrite _ _, _, _ => KeepsWaiting.write fun _ h => h.writeConfig _ _ _
  | .gapWarnWrite _ _ _, _, _ => KeepsWaiting.write fun _ h => h.writeConfig _ _ _
  | .detectorSettingsWrite _ _ _, _, _ => KeepsWaiting.write fun _ h => h.writeConfig _ _ _
  | .pageSelectionWrite _ _ _, _, _ => KeepsWaiting.write fun _ h => h.writeConfig _ _ _
  | .grant seat force, _, _ => KeepsWaiting.action fun _ h => h.grantAction seat force
  | .revoke seat, _, _ => KeepsWaiting.action fun _ h => h.revokeAction seat
  | .next, _, _ => KeepsWaiting.action fun _ h => h.nextAction
  | .queuePlace seat position, _, _ => KeepsWaiting.action fun _ h => h.queuePlaceAction seat position
  | .clearQueue, _, _ => KeepsWaiting.action fun _ h => h.clearQueueAction
  | .closeAll, _, _ => KeepsWaiting.action fun _ h => h.closeAllAction
  | .openAdhoc duration key chair mode maxOpen, _, _ => KeepsWaiting.action fun _ h => h.openAdhocAction duration key chair mode maxOpen
  | .extend minutes, _, _ => KeepsWaiting.action fun _ h => h.extendAction minutes
  | .endSession, _, _ => KeepsWaiting.action fun _ h => h.endSessionAction
  | .sendMessage target txt, _, _ => KeepsWaiting.action fun _ h => h.sendMessageAction target txt
  | .commit, _, _ => KeepsWaiting.action fun s h => h.of_keeps s.commit_keeps (by decide)
  | .discard, _, _ => KeepsWaiting.action fun _ h => h.of_eq rfl rfl rfl
  | .save, _, _ => KeepsWaiting.action fun _ h => h.saveAction
  | .enumerate wing, _, _ => KeepsWaiting.action fun _ h => h.enumerateAction wing
  | .halt, _, _ => KeepsWaiting.action fun _ h => h.haltAction
  | .resume, _, _ => KeepsWaiting.action fun _ h => h.resumeAction
  | .restart, _, _ => KeepsWaiting.action fun s h => h.of_keeps (s.setMgmt_keeps _) (by decide)

/-- No step leaves CLOSING with every microphone CLOSED. -/
theorem State.ClosingWaits.step {s t : State} (h : s.ClosingWaits) (ht : step s = .next t) : t.ClosingWaits := by
  unfold Machine.step at ht
  split at ht
  · exact Host.Outcome.next.inj ht ▸ h
  · next c rest _ =>
    have waits : ({ s with pending := rest } : State).ClosingWaits := h.of_eq rfl rfl rfl
    cases hop : c.op with
    | none => exact events_keepWaiting c hop _ t waits ht
    | some op => exact operations_keepWaiting c hop _ t waits ht

end Sys2Proof.Machine

namespace Sys2Proof.Machine

/-! ## The last microphone of CLOSING closes (03 R58; 05 R110) -/

section Last
variable {s t u v : State}

/-- Of the calendar, the seats, the clock and the floor's two collections the two states agree. -/
structure State.SameTable (s u : State) : Prop where
  cal : u.cal = s.cal
  seats : u.seats = s.seats
  clock : u.clock = s.clock
  openList : u.floor.openList = s.floor.openList
  queue : u.floor.queue = s.floor.queue
  mode : u.floor.mode = s.floor.mode

theorem State.SameTable.of_keeps {l : List Piece} (k : s.keeps u l) (hl : ∀ p ∈ [Piece.cal, .seats, .clock, .floor], p ∉ l) :
    s.SameTable u := by
  have floor : u.floor = s.floor := k .floor (hl _ (by decide))
  exact ⟨k .cal (hl _ (by decide)), k .seats (hl _ (by decide)), k .clock (hl _ (by decide)), by rw [floor], by rw [floor], by rw [floor]⟩

theorem State.SameTable.trans (h : s.SameTable t) (k : t.SameTable u) : s.SameTable u :=
  ⟨k.cal.trans h.cal, k.seats.trans h.seats, k.clock.trans h.clock, k.openList.trans h.openList, k.queue.trans h.queue,
    k.mode.trans h.mode⟩

theorem State.SameTable.completed (h : s.SameTable u) (hc : u.Completed t) : s.Completed t :=
  hc.of_same (by rw [h.cal]) (by rw [h.cal]) h.seats h.openList h.queue h.mode (by rw [h.clock])

theorem State.TableOk.unique (h : s.TableOk) : (s.cal.bookings.map (·.number)).Nodup := by
  obtain ⟨⟨-, unique, -⟩, -⟩ := h
  exact unique

/-- Where nothing but microphones has moved since CLOSING, and all of them are CLOSED, the report completes it. -/
theorem State.SameTable.completes (h : s.SameTable u) (hs : s.cal.session = .closing) (ht : s.TableOk)
    (all : ∀ i, (u.micOf i).state = .closed) :
    u.reportClosed = u.completeClosing ∧ s.Completed u.reportClosed ∧ ∀ i, (u.reportClosed.micOf i).state = .closed := by
  have completes : u.reportClosed = u.completeClosing := if_pos ⟨by rw [h.cal, hs], (State.allClosed_iff _).2 all⟩
  refine ⟨completes, ?_, fun i => ?_⟩
  · rw [completes]
    exact h.completed (u.completeClosing_completed fun _ => by rw [h.cal]; exact ht.unique)
  · rw [State.micOf, u.reportClosed_rests.recs]
    exact all i

/-- What a completion shows stands where messages are cleared at most. -/
theorem State.Completed.after_messages (h : s.Completed t) {l : List Piece} (k : t.keeps u l)
    (hl : ∀ p ∈ shownPieces, p ≠ .messages → p ∉ l) (hm : ∀ i : Seat, u.disp.messages[i] = none) : s.Completed u := by
  obtain ⟨none, -⟩ := id h
  have mic := k .mic (hl _ (by decide) (by decide))
  have messages : u.disp.messages = t.disp.messages := Vector.ext fun i hi => (hm ⟨i, hi⟩).trans (none ⟨i, hi⟩).symm
  exact h.to (k .cal (hl _ (by decide) (by decide))) (congrArg Clock.now (k .clock (hl _ (by decide) (by decide))))
    (k .seats (hl _ (by decide) (by decide))) (k .floor (hl _ (by decide) (by decide))) (congrArg MicBlock.speakLimit mic)
    (congrArg MicBlock.limitAction mic) (k .mixCycle (hl _ (by decide) (by decide))).2.2.1 messages
    (k .cfg (hl _ (by decide) (by decide)))

end Last

/-! ## CLOSING_COMPLETE and GAP_END -/

section Commands
variable {s : State} {seat : Seat}

theorem exec_closingComplete (hp : s.powered = true) : exec .closingComplete s = .next s.reportClosed.ended := by
  have hx : exec .closingComplete s = whenPowered s State.reportClosed := rfl
  rw [hx, whenPowered_next _ hp]

/-- CLOSING_COMPLETE completes nothing that it does not find. -/
theorem State.reportClosed_idle (h : s.cal.session ≠ .closing ∨ ∃ i, (s.micOf i).state ≠ .closed) : s.reportClosed = s := by
  rcases h with h | ⟨i, hi⟩
  · exact if_neg fun k => h k.1
  · exact State.reportClosed_of_open s hi

/-- In UNSYNCED a completion leaves it at the end of the session. -/
theorem State.completeClosing_unsynced (hy : s.clock.sync = .unsynced) : s.completeClosing = s.sessionEnded := by
  have clock : s.sessionEnded.clock = s.clock := s.sessionEnded_keeps .clock (by decide)
  rw [s.completeClosing_eq]
  exact if_pos (by rw [clock]; exact hy)

/-- The clause of O34 on CLOSING_COMPLETE. -/
theorem closingComplete_completes (hp : s.powered = true) :
    ∃ t, exec .closingComplete s = .next t ∧
      ((s.cal.session ≠ .closing ∨ ∃ seat, (s.micOf seat).state ≠ .closed) → s.keeps t screenPieces) ∧
      (s.cal.session = .closing → (∀ seat, (s.micOf seat).state = .closed) → s.TableOk →
        s.keeps t sessionPieces ∧ s.Completed t ∧
        (s.clock.sync = .unsynced → s.keeps t ([.cal, .seats, .messages] ++ screenPieces))) := by
  refine ⟨_, exec_closingComplete hp, fun h => ?_, fun hs all ht => ?_⟩
  · rw [State.reportClosed_idle h]
    exact s.ended_keeps
  · obtain ⟨completes, completed, -⟩ := (State.SameTable.of_keeps (s.keeps_refl []) (by decide)).completes hs ht all
    refine ⟨State.keeps_ended s.reportClosed_keeps (by decide), completed.after (State.ended_keeps _) (by decide), fun hy => ?_⟩
    rw [completes, State.completeClosing_unsynced hy]
    exact State.keeps_ended (State.keeps_mono s.sessionEnded_keeps (by decide)) (by decide)

/-- The clause on GAP_END of the last microphone. -/
theorem gapEnd_completes (hp : s.powered = true) (he : s.early.contains (.mic seat) = false) (hs : s.cal.session = .closing)
    (hm : (s.micOf seat).state = .closing) (hg : (s.micOf seat).gap ≤ 1) (others : ∀ i, i ≠ seat → (s.micOf i).state = .closed)
    (ht : s.TableOk) :
    ∃ t, exec (.gapEnd seat) s = .next t ∧ s.keeps t (.early :: sessionPieces) ∧ s.Completed t ∧ (t.micOf seat).state = .closed := by
  have all : ∀ i, ((s.setMic seat fun m => { m with state := .closed, gap := 0 }).micOf i).state = .closed := fun i => by
    rw [s.micOf_setMic]
    split
    · rfl
    · next hi => exact others i hi
  obtain ⟨-, completed, closed⟩ := (State.SameTable.of_keeps (s.setMic_keeps seat _) (by decide)).completes hs ht all
  have taken := State.taken_keeps (s.endGap seat) (.mic seat)
  refine ⟨_, exec_gapEnd hp he hg (.inr hm), State.keeps_trans (State.keeps_mono (s.endGap_keeps seat) (by decide))
    (State.keeps_mono taken (by decide)), ?_, ?_⟩
  · rw [← s.endGap_closing seat hm] at completed
    exact completed.after taken (by decide)
  · rw [State.micOf_congr (taken .mic (by decide)), s.endGap_closing seat hm]
    exact closed seat

end Commands

/-! ## A boundary at which the last gaps end -/

section Boundary
variable {s : State}

/-- The gaps of `done` have ended: while one is due still CLOSING waits, and then it has completed. -/
structure State.GapsEnd (s u : State) (done : List Seat) : Prop where
  ended : ∀ i ∈ done, (u.micOf i).state = .closed
  rest : ∀ i, i ∉ done → (u.micOf i).state = (s.micOf i).state
  early : u.early = s.early
  waits : (∃ i ∈ s.micDue, i ∉ done) → s.SameTable u
  completed : (∀ i ∈ s.micDue, i ∈ done) → s.Completed u

section Closing
variable (hs : s.cal.session = .closing) (ht : s.TableOk) (he : s.early = [])
  (hm : ∀ i, (s.micOf i).state = .closed ∨ ((s.micOf i).state = .closing ∧ (s.micOf i).gap ≤ 1))
include he hm

/-- Every microphone that is not CLOSED yet ends its gap at this boundary. -/
theorem State.mem_micDue_closing (i : Seat) : i ∈ s.micDue ↔ (s.micOf i).state = .closing := by
  rw [s.mem_micDue, he, MicRec.gapDue_iff, MicRec.turnDue_iff]
  rcases hm i with k | ⟨k, g⟩
  · simp [k]
  · simp [k, g]

include hs ht

/-- The gap of one seat ends. -/
theorem State.GapsEnd.next {u : State} {done : List Seat} {i : Seat} (hi : i ∈ s.micDue) (hd : i ∉ done) (h : s.GapsEnd u done) :
    s.GapsEnd (s.micStep u i) (done ++ [i]) := by
  have due := State.mem_micDue_closing he hm
  have state := (due i).1 hi
  have ownState : (u.micOf i).state = .closing := (h.rest i hd).trans state
  have gap : (s.micOf i).gapDue = true := (MicRec.gapDue_iff _).2 ⟨.inr state, ((hm i).resolve_left (by simp [state])).2⟩
  have step : s.micStep u i = (u.setMic i fun m => { m with state := .closed, gap := 0 }).reportClosed := by
    rw [State.micStep, if_neg (by simp [ownState, state]), if_pos gap, u.endGap_closing i ownState]
  have mic : ∀ j, ((u.setMic i fun m => { m with state := .closed, gap := 0 }).micOf j).state =
      if j = i then .closed else (u.micOf j).state := fun j => by
    rw [u.micOf_setMic]
    split <;> rfl
  have same : s.SameTable (u.setMic i fun m => { m with state := .closed, gap := 0 }) :=
    (h.waits ⟨i, hi, hd⟩).trans (.of_keeps (u.setMic_keeps i _) (by decide))
  have early : (u.setMic i fun m => { m with state := .closed, gap := 0 }).early = s.early := h.early
  rw [step]
  generalize (u.setMic i fun m => { m with state := .closed, gap := 0 }) = w at mic same early
  have after : ∀ j, (w.reportClosed.micOf j).state = if j = i then .closed else (u.micOf j).state := fun j => by
    rw [State.micOf, w.reportClosed_rests.recs]
    exact mic j
  refine ⟨fun j hj => ?_, fun j hj => ?_, (w.reportClosed_keeps .early (by decide)).trans early, fun ⟨j, hj, left⟩ => ?_, fun none => ?_⟩
  · rw [after]
    split
    · rfl
    · next ne => exact h.ended j ((List.mem_append.1 hj).resolve_right (by simpa using ne))
  · obtain ⟨other, ne⟩ : j ∉ done ∧ j ≠ i := by simpa using hj
    rw [after, if_neg ne, h.rest j other]
  · obtain ⟨other, ne⟩ : j ∉ done ∧ j ≠ i := by simpa using left
    have waiting : (w.micOf j).state ≠ .closed := by
      rw [mic, if_neg ne, h.rest j other, (due j).1 hj]
      decide
    rw [State.reportClosed_of_open w waiting]
    exact same
  · refine (same.completes hs ht fun j => ?_).2.1
    rw [mic]
    split
    · rfl
    · next ne =>
      by_cases hj : j ∈ done
      · exact h.ended j hj
      · have notDue : j ∉ s.micDue := fun k => hj ((List.mem_append.1 (none j k)).resolve_right (by simpa using ne))
        rw [h.rest j hj]
        exact (hm j).resolve_right fun k => notDue ((due j).2 k.1)

/-- A boundary at which the last gaps end completes CLOSING. -/
theorem State.micBoundary_completes (some' : ∃ i, (s.micOf i).state = .closing) :
    s.Completed s.micBoundary ∧ (∀ i, (s.micBoundary.micOf i).state = .closed) ∧ s.micBoundary.early = s.early := by
  have due := State.mem_micDue_closing he hm
  have start : s.GapsEnd s.ticked [] := by
    refine ⟨by simp, fun i _ => ?_, s.ticked_keeps .early (by decide), fun _ => .of_keeps s.ticked_keeps (by decide), fun none => ?_⟩
    · rw [s.ticked_micOf, MicRec.tick_state]
    · obtain ⟨i, hi⟩ := some'
      cases none i ((due i).2 hi)
  have ends : s.GapsEnd s.micBoundary s.micDue := by
    rw [s.micBoundary_eq]
    exact foldl_done (fun u done i hi hd h => h.next hs ht he hm hi hd) s.micDue_nodup start
  refine ⟨ends.completed fun _ => id, fun i => ?_, ends.early⟩
  by_cases hi : i ∈ s.micDue
  · exact ends.ended i hi
  · rw [ends.rest i hi]
    exact (hm i).resolve_right fun k => hi ((due i).2 k.1)

end Closing

/-- The clause on a quiet cycle. -/
theorem State.quiet.cycled_completes (hq : s.quiet) (hs : s.cal.session = .closing) (he : s.early = []) (hn : s.clock.cycles < 199)
    (hm : ∀ i, (s.micOf i).state = .closed ∨ ((s.micOf i).state = .closing ∧ (s.micOf i).gap ≤ 1))
    (some' : ∃ i, (s.micOf i).state = .closing) (ht : s.TableOk) :
    s.Completed s.cycled ∧ ∀ i, (s.cycled.micOf i).state = .closed := by
  have noTenth : s.noTenth := .inl hn
  have start := hq.atBoundary
  have cal : s.atBoundary.cal = s.cal := start .cal (by decide)
  have store : s.atBoundary.store = s.store := start .store (by decide)
  have early : s.atBoundary.early = s.early := start .early (by decide)
  have bearly : s.atBoundary.early = [] := early.trans he
  have mic : ∀ i, s.atBoundary.micOf i = s.micOf i := State.micOf_congr (start .mic (by decide))
  have floor := hq.floor
  have same : s.SameTable s.atBoundary := ⟨cal, start .seats (by decide), start .clock (by decide), by rw [floor], by rw [floor], by rw [floor]⟩
  obtain ⟨completed, closed, stays⟩ := State.micBoundary_completes (s := s.atBoundary) (by rw [cal, hs])
    (by rw [State.TableOk, cal, store]; exact ht) bearly (fun i => by rw [mic]; exact hm i) (by simpa only [mic] using some')
  refine ⟨?_, fun i => ?_⟩
  · have reports := same.completed completed
    obtain ⟨messages, -⟩ := id reports
    have steps : s.atBoundary.micBoundary.keeps s.atClock [.messages, .screens, .sending] :=
      State.keeps_trans (State.keeps_mono (State.messageBoundary_keeps _) (by decide)) (State.keeps_mono (State.screenBoundary_keeps _ _) (by decide))
    have screens : s.atWindows.keeps s.atClock screenPieces := State.screenBoundary_keeps _ _
    have windows : s.atClock.disp.messages = s.atWindows.disp.messages := screens .messages (by decide)
    have shown := reports.after_messages steps (by decide) fun i => by
      rw [windows, State.atWindows, State.messageBoundary_messages (stays.trans bearly), messages, Option.bind_none]
    have later := State.clockBoundary_noTenth (State.atClock_noTenth noTenth)
    have rest := s.cycled_from_clock
    obtain ⟨limit, action, send⟩ := s.cycled_session
    have now : s.cycled.clock.now = s.atClock.clock.now := by
      have kept : s.atClock.clock = s.clock :=
        (steps .clock (by decide)).trans (((State.micBoundary_keeps _) .clock (by decide)).trans (start .clock (by decide)))
      rw [kept]
      exact (s.cycled_now.1 hn (by simp [he])).1
    have clips := later .mixCycle (by decide)
    have clockMic := later .mic (by decide)
    exact shown.to ((rest .cal (by decide)).trans (later .cal (by decide))) now ((rest .seats (by decide)).trans (later .seats (by decide)))
      ((rest .floor (by decide)).trans (later .floor (by decide))) (limit.trans (congrArg MicBlock.speakLimit clockMic))
      (action.trans (congrArg MicBlock.limitAction clockMic)) (send.trans clips.2.2.1)
      ((rest .messages (by decide)).trans (later .messages (by decide))) ((rest .cfg (by decide)).trans (later .cfg (by decide)))
  · obtain ⟨state, -⟩ := MicRec.of_latched (s.cycled_mics noTenth i)
    exact state.trans (closed i)

end Boundary

end Sys2Proof.Machine

namespace Sys2Proof.Machine

/-! ## A microphone that goes to CLOSED at once in CLOSING (05 R101) -/

section AtOnce
variable {s : State}

/-- In CLOSING no microphone is OPENING or OPEN. -/
theorem State.MicOk.closing_not_open (hm : s.MicOk) (hf : s.FloorOk) (hs : s.cal.session = .closing) (i : Seat) :
    (s.micOf i).state ≠ .opening ∧ (s.micOf i).state ≠ .opened := by
  have off : ¬ s.holds i = true := by
    rw [(s.holds_false_iff i).2 (by simp [(hf.closing_empty hs).1])]
    simp
  exact ⟨fun k => off ((hm i).2 (.inl k)), fun k => off ((hm i).2 (.inr k))⟩

/-- A microphone that was not OPEN closes without a capture. -/
theorem State.micClose_quiet {i : Seat} (h : (s.micOf i).state ≠ .opened) :
    s.micClose i = s.setMic i fun m => { m with state := .closed, gap := 0 } := by
  rw [State.micClose, State.leaveOpen, if_neg h]

theorem State.setMic_closed_state (s : State) (i j : Seat) :
    ((s.setMic i fun m => { m with state := .closed, gap := 0 }).micOf j).state = if j = i then .closed else (s.micOf j).state := by
  rw [s.micOf_setMic]
  split <;> rfl

end AtOnce

/-! ## The loss of the last microphone's position (01 R11, R13) -/

section Loss
variable {s : State} {p : Pos}

/-- In CLOSING the floor controller has nothing of a loss to do but to clear the seat's marks. -/
theorem State.floorLost_empty (s : State) (seat : Seat) (ho : s.floor.openList = []) (hq : s.floor.queue = []) :
    s.floorLost seat = s.setFloor fun f => { f with blocked := f.blocked.set seat false, seen := f.seen.set seat false } := by
  have off : s.holds seat = false := (s.holds_false_iff seat).2 (by simp [ho])
  have none : s.withdraw seat .lost = s := by
    rw [State.withdraw, hq]
    rfl
  rw [State.floorLost, off, none]
  rfl

theorem State.floorLost_table (s : State) (seat : Seat) (ho : s.floor.openList = []) (hq : s.floor.queue = []) :
    s.SameTable (s.floorLost seat) ∧ (s.floorLost seat).mic = s.mic := by
  rw [s.floorLost_empty seat ho hq]
  exact ⟨⟨rfl, rfl, rfl, rfl, rfl, rfl⟩, rfl⟩

/-- What the level and the composer do of a loss. -/
theorem State.lossHeard_keeps (s : State) (p : Pos) : (s.lossHeard p).keeps (s.lossNotice p) [.level, .delivery, .messages] := by
  rw [s.lossNotice_eq p]
  exact State.keeps_trans (State.keeps_mono (State.zeroLevel_keeps _ p) (by decide))
    (State.keeps_mono (State.composerLost_keeps _ p _) (by decide))

/-- The clause on the third bad slot of the last microphone's unit. -/
theorem upstreamSlot_completes {raw : List Byte} (hp : s.powered = true) (hl : s.live p = true) (hb : readUpSlot raw = none)
    (hloss : 2 ≤ s.pos[p].loss) (hs : s.cal.session = .closing) (hopen : (s.micOf (s.logical p)).state ≠ .closed)
    (others : ∀ i, i ≠ s.logical p → (s.micOf i).state = .closed) (hf : s.FloorOk) (hm : s.MicOk) (ht : s.TableOk) :
    ∃ t, exec (.upstreamSlot p raw) s = .next t ∧ s.keeps t ([.pos, .wings] ++ lossPieces) ∧ s.Completed t ∧
      (t.micOf (s.logical p)).state = .closed := by
  have dropped := s.slotDropped_keeps p
  have logical : (s.slotDropped p).logical p = s.logical p := State.logical_congr (by rw [dropped .seats (by decide)]) p
  have floor : (s.slotDropped p).floor = s.floor := dropped .floor (by decide)
  obtain ⟨noOpen, noQueue⟩ := hf.closing_empty hs
  obtain ⟨lost, lostMic⟩ := (s.slotDropped p).floorLost_table (s.logical p) (by rw [floor, noOpen]) (by rw [floor, noQueue])
  have mic : ∀ i, ((s.slotDropped p).floorLost (s.logical p)).micOf i = s.micOf i :=
    State.micOf_congr (lostMic.trans (dropped .mic (by decide)))
  have table := (State.SameTable.of_keeps dropped (by decide)).trans lost
  have heard : (s.slotDropped p).lossHeard p =
      (((s.slotDropped p).floorLost (s.logical p)).setMic (s.logical p) fun m => { m with state := .closed, gap := 0 }).reportClosed := by
    rw [State.lossHeard, logical, State.micLost, if_neg (by rw [mic]; exact hopen),
      State.micClose_quiet (by rw [mic]; exact (hm.closing_not_open hf hs _).2)]
  obtain ⟨-, completed, closed⟩ := (table.trans (.of_keeps (State.setMic_keeps _ (s.logical p) _) (by decide))).completes hs ht fun i => by
    rw [State.setMic_closed_state, mic]
    split
    · rfl
    · next hi => exact others i hi
  rw [← heard] at completed closed
  have told := (s.slotDropped p).lossHeard_keeps p
  have slot : s.upstreamSlot p raw = (s.slotDropped p).lossNotice p := by
    rw [s.upstreamSlot_bad p hl hb, s.badSlot_lost p (by omega)]
  refine ⟨_, by rw [exec_upstreamSlot, whenPowered_next _ hp], ?_, ?_, ?_⟩
  · rw [slot]
    exact State.keeps_trans (State.keeps_mono dropped (by decide))
      (State.keeps_mono (State.keeps_ended ((s.slotDropped p).lossNotice_keeps p) (by decide)) (by decide))
  · obtain ⟨messages, -⟩ := id completed
    rw [slot]
    refine (completed.after_messages told (by decide) fun i => ?_).after (State.ended_keeps _) (by decide)
    rw [State.lossNotice_messages]
    split
    · rfl
    · exact messages i
  · rw [slot, State.ended_micOf, State.micOf_congr (told .mic (by decide))]
    exact closed _

end Loss

/-! ## HALT in CLOSING (04 R94; 11 R196) -/

section Halt
variable {s : State}

/-- The microphones of `done` have gone to CLOSED at once, and nothing else has moved. -/
structure State.MicsClosed (s u : State) (done : List Seat) : Prop where
  table : s.SameTable u
  ended : ∀ i ∈ done, (u.micOf i).state = .closed
  rest : ∀ i, i ∉ done → (u.micOf i).state = (s.micOf i).state

theorem State.MicsClosed.next {u : State} {done : List Seat} {i : Seat} (hopen : ∀ j, (s.micOf j).state ≠ .opened) (hd : i ∉ done)
    (h : s.MicsClosed u done) : s.MicsClosed (u.closeMic i) (done ++ [i]) := by
  have state : ((u.closeMic i).micOf i).state = .closed ∧ (∀ j, j ≠ i → (u.closeMic i).micOf j = u.micOf j) ∧ u.SameTable (u.closeMic i) := by
    unfold State.closeMic
    split
    · next hc => exact ⟨hc, fun _ _ => rfl, .of_keeps (u.keeps_refl []) (by decide)⟩
    · rw [State.micClose_quiet (by rw [h.rest i hd]; exact hopen i)]
      refine ⟨by rw [State.setMic_closed_state, if_pos rfl], fun j hj => ?_, .of_keeps (u.setMic_keeps i _) (by decide)⟩
      rw [u.micOf_setMic, if_neg hj]
  obtain ⟨closed, others, table⟩ := state
  refine ⟨h.table.trans table, fun j hj => ?_, fun j hj => ?_⟩
  · by_cases hi : j = i
    · rw [hi]
      exact closed
    · rw [others j hi]
      exact h.ended j ((List.mem_append.1 hj).resolve_right (by simpa using hi))
  · obtain ⟨other, ne⟩ : j ∉ done ∧ j ≠ i := by simpa using hj
    rw [others j ne]
    exact h.rest j other

/-- HALT with nobody on the floor closes what is left of the microphones. -/
theorem State.haltClosed_closed (ho : s.floor.openList = []) (hopen : ∀ i, (s.micOf i).state ≠ .opened) :
    s.SameTable s.haltClosed ∧ ∀ i, (s.haltClosed.micOf i).state = .closed := by
  have emptied : s.haltEmptied = { s with store := { s.store with halted := true } } := by
    rw [State.haltEmptied, ho]
    rfl
  have start : s.MicsClosed s.haltEmptied [] := by
    rw [emptied]
    exact ⟨⟨rfl, rfl, rfl, rfl, rfl, rfl⟩, by simp, fun _ _ => rfl⟩
  have ends : s.MicsClosed s.haltClosed (numbers 64) :=
    foldl_done (fun _ _ _ _ hd h => h.next hopen hd) (List.nodup_finRange 64) start
  exact ⟨ends.table, fun i => ends.ended i (List.mem_finRange i)⟩

/-- A clear of an empty queue is told, and changes nothing. -/
theorem State.clearQueue_empty (s : State) (r : Reason) (hq : s.floor.queue = []) :
    s.keeps (s.clearQueue r) [.screens, .sending, .linkCounters] := by
  have same : ((s.unqueueAll s.floor.queue).setFloor fun f => { f with queue := [] }) = s := by
    rw [hq]
    exact congrArg (fun f => ({ s with floor := f } : State)) (show ({ s.floor with queue := [] } : Floor) = s.floor by rw [← hq])
  have told := ((s.unqueueAll s.floor.queue).setFloor fun f => { f with queue := [] }).floorChange_keeps noByte .queueCleared r.code noByte
    s.floor.queue.length
  rw [State.clearQueue]
  rwa [same] at told ⊢

/-- The clause on HALT. -/
theorem halt_completes (hr : s.reaches .halt = true) (hh : s.store.halted = false) (hs : s.cal.session = .closing) (hf : s.FloorOk)
    (hm : s.MicOk) (ht : s.TableOk) :
    ∃ t, exec .halt s = .next t ∧ s.Completed t ∧ (∀ i, (t.micOf i).state = .closed) := by
  obtain ⟨-, hx⟩ := State.reaches_next (owner := State.haltAction) hr rfl rfl
  obtain ⟨noOpen, noQueue⟩ := hf.closing_empty hs
  obtain ⟨table, all⟩ := State.haltClosed_closed noOpen fun i => (hm.closing_not_open hf hs i).2
  obtain ⟨-, completed, closed⟩ := table.completes hs ht all
  have cleared := s.haltClosed.reportClosed.clearQueue_empty .halted (by rw [s.haltClosed.reportClosed_rests.queue, table.queue, noQueue])
  have halts : s.haltAction = done s.halt := by
    rw [State.haltAction, hh]
    rfl
  have rest : s.haltClosed.reportClosed.keeps s.halt [.screens, .sending, .linkCounters, .delivery] := by
    rw [s.halt_eq]
    exact State.keeps_trans (State.keeps_mono cleared (by decide)) (State.keeps_mono (State.transfersDropped_keeps _) (by decide))
  have ends := State.opEnd_keeps (.action Action.halt.code []) s.haltAction
  rw [halts] at ends
  have after := State.keeps_trans (State.keeps_mono rest (by decide)) (State.keeps_mono ends (by decide))
    (l := [.screens, .sending, .linkCounters, .delivery, .mgmt, .tables])
  refine ⟨_, hx, ?_, fun i => ?_⟩
  · rw [halts]
    exact completed.after after (by decide)
  · rw [halts, State.micOf_congr (after .mic (by decide))]
    exact closed i

end Halt

/-! ## O34 -/

/-- Settles O34: every step keeps that CLOSING waits for a microphone, and each event that closes the last one is followed by the
report that completes it. -/
theorem closingCompletesWhenEveryMicrophoneIsClosed : Obligations.ClosingCompletesWhenEveryMicrophoneIsClosed := by
  refine ⟨fun s t hf hc ht => ((hc.waits hf).step ht).ok, fun s hp => closingComplete_completes hp,
    fun s seat hp he hs hm hg others ht => gapEnd_completes hp he hs hm hg others ht, fun s hq hs he hn hm some' ht => ?_,
    fun s p raw hp hl hb hloss hs hopen others hf hm ht => upstreamSlot_completes hp hl hb hloss hs hopen others hf hm ht,
    fun s hr hh hs hf hm ht _ => halt_completes hr hh hs hf hm ht⟩
  obtain ⟨hp, hr, -⟩ := id hq
  obtain ⟨completed, closed⟩ := State.quiet.cycled_completes hq hs he hn hm some' ht
  exact ⟨s.cycled, exec_chainCycle_next hp hr, completed, closed⟩

end Sys2Proof.Machine


namespace Sys2Proof.Machine

/-! ## What every step keeps of the link, the engine, the clock, the clip counters and the booking table -/

/-- What a step leaves in order where it found it so: each of the five from itself alone. -/
structure State.Safe (s t : State) : Prop where
  link : s.LinkOk → t.LinkOk
  mgmt : s.MgmtOk → t.MgmtOk
  clock : s.ClockOk → t.ClockOk
  clips : s.ClipsOk → t.ClipsOk
  table : s.TableOk → t.TableOk

/-- The pieces that the five speak of. -/
def safePieces : List Piece := [.sending, .audioReturn, .linkState, .mgmt, .clock, .mixCycle, .cal, .store]

section Parts
variable {s t u : State} {l : List Piece}

theorem State.Safe.refl (s : State) : s.Safe s := ⟨id, id, id, id, id⟩

theorem State.Safe.trans (h : s.Safe t) (k : t.Safe u) : s.Safe u :=
  ⟨k.link ∘ h.link, k.mgmt ∘ h.mgmt, k.clock ∘ h.clock, k.clips ∘ h.clips, k.table ∘ h.table⟩

theorem State.Safe.foldl {α : Type} {f : State → α → State} (hf : ∀ s a, State.Safe s (f s a)) (l : List α) (s : State) :
    s.Safe (l.foldl f s) := by
  induction l generalizing s with
  | nil => exact .refl s
  | cons a l ih => exact (hf s a).trans (ih _)

theorem State.LinkOk.of_eq (h : s.LinkOk) (hl : t.link = s.link) : t.LinkOk := by
  unfold State.LinkOk at h ⊢
  rwa [hl]

theorem State.LinkOk.of_keeps (h : s.LinkOk) (k : s.keeps t l) (hl : ∀ p ∈ [Piece.sending, .audioReturn, .linkState], p ∉ l) :
    t.LinkOk := by
  obtain ⟨queue, begun, held, -⟩ : s.agrees t .sending := k _ (hl _ (by decide))
  obtain ⟨learnt, -, buffer⟩ : s.agrees t .audioReturn := k _ (hl _ (by decide))
  have up : t.link.up = s.link.up := k .linkState (hl _ (by decide))
  unfold State.LinkOk at h ⊢
  rwa [queue, begun, held, learnt, buffer, up]

theorem State.MgmtOk.of_eq (h : s.MgmtOk) (hm : t.mgmt = s.mgmt) : t.MgmtOk := by
  unfold State.MgmtOk at h ⊢
  rwa [hm]

theorem State.ClockOk.of_eq (h : s.ClockOk) (hc : t.clock = s.clock) : t.ClockOk := by
  unfold State.ClockOk at h ⊢
  rwa [hc]

theorem State.ClipsOk.of_eq (h : s.ClipsOk) (ho : t.mix.outClips = s.mix.outClips) (hs : t.mix.sendClips = s.mix.sendClips) :
    t.ClipsOk := by
  unfold State.ClipsOk at h ⊢
  rwa [ho, hs]

theorem State.TableOk.of_eq (h : s.TableOk) (hb : t.cal.bookings = s.cal.bookings) (hs : t.cal.session = s.cal.session)
    (hi : t.store = s.store) : t.TableOk := by
  unfold State.TableOk at h ⊢
  rwa [hb, hs, hi]

/-- What touches none of the five. -/
theorem State.Safe.of_keeps (k : s.keeps t l) (hl : ∀ p ∈ safePieces, p ∉ l) : s.Safe t := by
  obtain ⟨outClips, sendClips, -⟩ : s.agrees t .mixCycle := k _ (hl _ (by decide))
  have cal : t.cal = s.cal := k .cal (hl _ (by decide))
  exact {
    link := fun h => h.of_keeps k fun p hp => hl p (by revert p; decide)
    mgmt := fun h => h.of_eq (k .mgmt (hl _ (by decide)))
    clock := fun h => h.of_eq (k .clock (hl _ (by decide)))
    clips := fun h => h.of_eq outClips sendClips
    table := fun h => h.of_eq (by rw [cal]) (by rw [cal]) (k .store (hl _ (by decide))) }

/-- What touches the link alone of the five. -/
theorem State.Safe.of_link (h : s.LinkOk → t.LinkOk) (k : s.keeps t l) (hl : ∀ p ∈ [Piece.mgmt, .clock, .mixCycle, .cal, .store], p ∉ l) :
    s.Safe t := by
  obtain ⟨outClips, sendClips, -⟩ : s.agrees t .mixCycle := k _ (hl _ (by decide))
  have cal : t.cal = s.cal := k .cal (hl _ (by decide))
  exact {
    link := h
    mgmt := fun h => h.of_eq (k .mgmt (hl _ (by decide)))
    clock := fun h => h.of_eq (k .clock (hl _ (by decide)))
    clips := fun h => h.of_eq outClips sendClips
    table := fun h => h.of_eq (by rw [cal]) (by rw [cal]) (k .store (hl _ (by decide))) }

/-- What touches the booking table alone of the five. -/
theorem State.Safe.of_table (h : s.TableOk → t.TableOk) (k : s.keeps t l)
    (hl : ∀ p ∈ [Piece.sending, .audioReturn, .linkState, .mgmt, .clock, .mixCycle], p ∉ l) : s.Safe t := by
  obtain ⟨outClips, sendClips, -⟩ : s.agrees t .mixCycle := k _ (hl _ (by decide))
  exact {
    link := fun h => h.of_keeps k fun p hp => hl p (by revert p; decide)
    mgmt := fun h => h.of_eq (k .mgmt (hl _ (by decide)))
    clock := fun h => h.of_eq (k .clock (hl _ (by decide)))
    clips := fun h => h.of_eq outClips sendClips
    table := h }

end Parts

/-! ## Frames that are offered -/

section Offers
variable (s : State)

/-- A frame enters a queue that has room for it. -/
theorem State.LinkOk.queued {s t : State} {f : Frame} (h : s.LinkOk) (hq : s.link.queue.length < 8)
    (ht : t.link = { s.link with queue := s.link.queue ++ [f] }) : t.LinkOk := by
  obtain ⟨-, buffer, learnt, begun, held⟩ := h
  unfold State.LinkOk
  rw [ht]
  exact ⟨by simp; omega, buffer, learnt, fun hb => ⟨(begun hb).1, by simp⟩, held⟩

theorem State.notice_safe (kind : Nat) (body : List Byte) : s.Safe (s.notice kind body) := by
  refine .of_link (fun h => ?_) (s.notice_keeps kind body) (by decide)
  cases hd : s.link.noticeDest with
  | none => exact h.of_eq (by simp [Link.offerNotice, hd])
  | some d =>
    by_cases hq : s.link.queue.length < 8
    · exact h.queued hq (by simp only [State.notice, Link.offerNotice, hd, if_pos hq]; rfl)
    · have dropped : (s.notice kind body).link =
          { s.link with counters := { s.link.counters with noticesDropped := satAdd s.link.counters.noticesDropped 1 } } := by
        simp only [State.notice, Link.offerNotice, hd, if_neg hq]
      unfold State.LinkOk at h ⊢
      rwa [dropped]

/-- An entry's frame enters the queue where there is room for it. -/
theorem State.admitScreen_safe (e : Fin 4) (hq : s.LinkOk → s.link.queue.length < 8) : s.Safe (s.admitScreen e) := by
  refine .of_link (fun h => ?_) (s.admitScreen_keeps e) (by decide)
  cases ha : s.disp.screens[e].addr with
  | none =>
    rw [show s.admitScreen e = s by simp only [State.admitScreen, ha]]
    exact h
  | some a => exact h.queued (hq h) (by simp only [State.admitScreen, ha]; rfl)

theorem State.setScreen_safe (e : Fin 4) (f : Screen → Screen) : s.Safe (s.setScreen e f) :=
  .of_link (fun h => h.of_eq (by simp)) (s.setScreen_keeps e f) (by decide)

theorem State.offerScreen_safe (e : Fin 4) : s.Safe (s.offerScreen e) := by
  unfold State.offerScreen
  split
  · next hq => exact s.admitScreen_safe e fun _ => hq
  · exact s.setScreen_safe e _

theorem State.refreshScreen_safe (e : Fin 4) : s.Safe (s.refreshScreen e) := by
  unfold State.refreshScreen
  simp only
  split
  · exact .refl s
  · split
    · exact s.setScreen_safe e _
    · split
      · exact s.offerScreen_safe e
      · exact .refl s

theorem State.refreshScreens_safe : s.Safe s.refreshScreens := .foldl State.refreshScreen_safe _ s

theorem State.floorChange_safe (seat : Nat) (ev : FloorEvent) (r c n : Nat) : s.Safe (s.floorChange seat ev r c n) :=
  s.refreshScreens_safe.trans (State.notice_safe _ _ _)

/-- The head of the queue begins to be sent while the link is UP. -/
theorem State.startSending_safe : s.Safe s.startSending := by
  refine .of_link (fun h => ?_) s.startSending_keeps (by decide)
  rcases s.startSending_cases with ⟨-, e⟩ | ⟨-, e⟩
  · rw [e]
    rcases s.link.startSending_cases with ⟨up, -, f, rest, hq, el⟩ | ⟨el, -⟩
    · obtain ⟨queue, buffer, learnt, -, -⟩ := h
      unfold State.LinkOk
      rw [el]
      exact ⟨queue, buffer, learnt, fun _ => ⟨up, by simp [hq]⟩, by simp⟩
    · exact h.of_eq el
  · rwa [e]

end Offers

/-! ## The floor -/

section Floor
variable (s : State)

theorem State.setMic_safe (seat : Seat) (f : MicRec → MicRec) : s.Safe (s.setMic seat f) := .of_keeps (s.setMic_keeps seat f) (by decide)

theorem State.setFloor_safe (f : Floor → Floor) : s.Safe (s.setFloor f) := .of_keeps (s.setFloor_keeps f) (by decide)

theorem State.dequeue_safe (seat : Seat) : s.Safe (s.dequeue seat) := .of_keeps (s.dequeue_keeps seat) (by decide)

theorem State.refuse_safe (seat : Seat) (r : Refuse) (k : PressKind) : s.Safe (s.refuse seat r k) :=
  ((s.setMic_safe seat _).trans (State.notice_safe _ _ _)).trans
    ⟨id, id, id, id, fun h => h.of_eq rfl rfl rfl⟩

theorem State.grantSeat_safe (seat : Seat) (c : Source) : s.Safe (s.grantSeat seat c) :=
  ((s.dequeue_safe seat).trans ((State.setFloor_safe _ _).trans (State.setMic_safe _ _ _))).trans (State.floorChange_safe _ _ _ _ _ _)

theorem State.removeCore_safe (seat : Seat) (r : Reason) : s.Safe (s.removeCore seat r) := by
  unfold State.removeCore
  split
  · exact .refl s
  · simp only
    refine State.Safe.trans ?_ (State.floorChange_safe _ _ _ _ _ _)
    split
    · exact (s.setFloor_safe _).trans (.of_keeps (State.micClose_keeps _ seat) (by decide))
    · exact (s.setFloor_safe _).trans (.of_keeps (State.micRemove_keeps _ seat) (by decide))

theorem State.withdraw_safe (seat : Seat) (r : Reason) : s.Safe (s.withdraw seat r) := by
  unfold State.withdraw
  split
  · exact .refl s
  · exact (s.dequeue_safe seat).trans (State.floorChange_safe _ _ _ _ _ _)

theorem State.enqueue_safe (seat : Seat) (c : Source) : s.Safe (s.enqueue seat c) :=
  ((s.setFloor_safe _).trans (State.setMic_safe _ _ _)).trans (State.floorChange_safe _ _ _ _ _ _)

theorem State.clearQueue_safe (r : Reason) : s.Safe (s.clearQueue r) :=
  State.Safe.trans (.of_keeps (s.unqueueAll_keeps s.floor.queue) (by decide)) ((State.setFloor_safe _ _).trans (State.floorChange_safe _ _ _ _ _ _))

theorem State.advanceLoop_safe (n : Nat) : ∀ s : State, s.Safe (State.advanceLoop n s) := by
  induction n with
  | zero => exact .refl
  | succ n ih =>
    intro s
    unfold State.advanceLoop
    split
    · exact .refl s
    · split
      · exact (s.grantSeat_safe _ _).trans (ih _)
      · exact .refl s

theorem State.autoAdvance_safe : s.Safe s.autoAdvance := by
  unfold State.autoAdvance
  split
  · exact State.advanceLoop_safe _ s
  · exact .refl s

theorem State.removeAll_safe (l : List OpenEntry) (r : Reason) : s.Safe (s.removeAll l r) := .foldl (fun s _ => s.removeCore_safe _ r) l s

end Floor

end Sys2Proof.Machine

namespace Sys2Proof.Machine

/-! ## The shape of the booking table (03 R47) -/

/-- Two records of the table, the earlier one first: in start order, with no minute in common, an ACTIVE record before a record
of equal start, and not both ACTIVE. -/
def Booking.apart (a b : Booking) : Prop :=
  a.start ≤ b.start ∧ ¬ (max a.start b.start < min (a.start + a.duration) (b.start + b.duration)) ∧
    (a.start = b.start → b.active = false) ∧ ¬ (a.active = true ∧ b.active = true)

theorem bookingsOk_iff (bs : List Booking) : bookingsOk bs ↔
    bs.length ≤ 32 ∧ (bs.map (·.number)).Nodup ∧ (∀ b ∈ bs, b.ok) ∧ bs.Pairwise Booking.apart := Iff.rfl

theorem bookingsOk.sublist {bs cs : List Booking} (h : bookingsOk bs) (hs : cs.Sublist bs) : bookingsOk cs := by
  obtain ⟨length, numbers, ok, apart⟩ := h
  exact ⟨hs.length_le.trans length, numbers.sublist (hs.map _), fun b hb => ok b (hs.subset hb), apart.sublist hs⟩

section Table
variable {s t : State}

/-- The table of one state, where the images are those of another. -/
theorem State.TableOk.of_bookings (h : s.TableOk) (hi : t.store = s.store) (hb : bookingsOk t.cal.bookings)
    (ha : t.cal.session.isActive = true ↔ ∃ b ∈ t.cal.bookings, b.active = true) : t.TableOk := by
  obtain ⟨-, -, images⟩ := h
  exact ⟨hb, ha, by rwa [hi]⟩

/-- The session moves among the states in which it is active, or among those in which it is not. -/
theorem State.TableOk.of_session (h : s.TableOk) (hi : t.store = s.store) (hb : t.cal.bookings = s.cal.bookings)
    (hs : t.cal.session.isActive = s.cal.session.isActive) : t.TableOk := by
  obtain ⟨bookings, active, -⟩ := id h
  exact h.of_bookings hi (by rwa [hb]) (by rw [hb, hs]; exact active)

theorem State.TableOk.waiting (h : s.TableOk) (hs : s.cal.session.isActive = false) : ∀ b ∈ s.cal.bookings, b.active = false := by
  obtain ⟨-, active, -⟩ := h
  intro b hb
  by_contra ha
  exact absurd (active.2 ⟨b, hb, by simpa using ha⟩) (by simp [hs])

/-- Records that wait go, and the session goes on as it was (03 R63). -/
theorem State.TableOk.missed (h : s.TableOk) (hi : t.store = s.store) (hb : t.cal.bookings = s.remaining)
    (hs : t.cal.session = s.cal.session) : t.TableOk := by
  obtain ⟨bookings, active, -⟩ := id h
  refine h.of_bookings hi (by rw [hb]; exact bookings.sublist List.filter_sublist) ?_
  rw [hs, active, hb]
  constructor
  · rintro ⟨b, hb, ha⟩
    exact ⟨b, List.mem_filter.2 ⟨hb, by simp [ha]⟩, ha⟩
  · rintro ⟨b, hb, ha⟩
    exact ⟨b, (List.mem_filter.1 hb).1, ha⟩

/-- The ACTIVE record goes with its session (03 R58). -/
theorem State.TableOk.ended (h : s.TableOk) (hi : t.store = s.store) (hb : t.cal.bookings = s.cal.bookings.filter fun b => !b.active)
    (hs : t.cal.session.isActive = false) : t.TableOk := by
  obtain ⟨bookings, -, -⟩ := id h
  refine h.of_bookings hi (by rw [hb]; exact bookings.sublist List.filter_sublist) ?_
  rw [hs, hb]
  simp

/-- A record at the head of the table becomes ACTIVE. -/
theorem bookingsOk.activate {b : Booking} {rest : List Booking} (h : bookingsOk (b :: rest)) (hr : ∀ x ∈ rest, x.active = false) :
    bookingsOk ({ b with active := true } :: rest) := by
  obtain ⟨length, numbers, ok, apart⟩ := h
  obtain ⟨first, others⟩ := List.pairwise_cons.1 apart
  obtain ⟨number, least, most, -⟩ := ok b (by simp)
  refine ⟨length, numbers, fun x hx => ?_, List.pairwise_cons.2 ⟨fun x hx => ?_, others⟩⟩
  · rcases List.mem_cons.1 hx with rfl | hx
    · exact ⟨number, least, most, by simp⟩
    · exact ok x (List.mem_cons_of_mem _ hx)
  · obtain ⟨order, minutes, -, -⟩ := first x hx
    exact ⟨order, minutes, fun _ => hr x hx, by simp [hr x hx]⟩

/-- The earliest WAITING record starts (03 R54). -/
theorem State.TableOk.started (h : s.TableOk) (hs : s.cal.session.isActive = false) {b : Booking} (hb : s.nextBooking = some b) :
    (s.startSession b).TableOk := by
  have waits := h.waiting hs
  obtain ⟨bookings, -, -⟩ := id h
  obtain ⟨rest, hl⟩ : ∃ rest, s.cal.bookings = b :: rest := by
    rw [State.nextBooking, waitingOf_all waits] at hb
    exact List.head?_eq_some_iff.1 hb
  rw [hl] at bookings waits
  obtain ⟨-, unique, -⟩ := id bookings
  have table := s.startSession_bookings b rest hl unique
  refine h.of_bookings (by simp) ?_ ?_
  · rw [table]
    exact bookings.activate fun x hx => waits x (List.mem_cons_of_mem _ hx)
  · rw [table]
    exact ⟨fun _ => ⟨_, List.mem_cons_self, rfl⟩, fun _ => rfl⟩

end Table

/-! ## Sessions and the calendar -/

section Sessions
variable (s : State)

theorem State.clearMessages_safe : s.Safe s.clearMessages := .of_keeps s.clearMessages_keeps (by decide)

theorem State.startSession_safe (b : Booking) (ht : s.TableOk → (s.startSession b).TableOk) : s.Safe (s.startSession b) where
  link h := by
    unfold State.startSession
    exact (State.notice_safe _ _ _).link (h.of_eq (by simp))
  mgmt h := h.of_eq (by simp)
  clock h := h.of_eq (by simp)
  clips h := h.of_eq (by rw [s.startSession_clips]) (by rw [s.startSession_clips])
  table := ht

theorem State.removeMissed_safe : s.Safe s.removeMissed := by
  refine ⟨fun h => ?_, fun h => h.of_eq (by simp), fun h => h.of_eq (by simp), fun h => h.of_eq (by simp) (by simp),
    fun h => h.missed (by simp) (by rw [s.removeMissed_cal]) (by rw [s.removeMissed_cal])⟩
  unfold State.removeMissed
  simp only
  split
  · exact h
  · exact (State.notice_safe _ _ _).link h

/-- The session changes among VACANT and ARMED. -/
theorem State.idleSession_safe {x : Session} (hs : s.cal.session.isActive = false) (hx : x.isActive = false) :
    s.Safe { s with cal := { s.cal with session := x } } :=
  ⟨id, id, id, id, fun h => h.of_session rfl rfl (hx.trans hs.symm)⟩

theorem State.testNext_safe (hs : s.cal.session.isActive = false) : s.Safe s.testNext := by
  unfold State.testNext
  split
  · exact s.idleSession_safe hs rfl
  · next b hb =>
    split
    · exact s.startSession_safe b fun h => h.started hs hb
    · split
      · exact s.idleSession_safe hs rfl
      · exact s.idleSession_safe hs rfl

theorem State.evaluateIdle_safe (hs : s.cal.session.isActive = false) : s.Safe s.evaluateIdle := by
  unfold State.evaluateIdle
  split
  · exact .refl s
  · exact s.removeMissed_safe.trans (State.testNext_safe _ (by rw [s.removeMissed_cal]; exact hs))

theorem State.sessionEnded_safe : s.Safe s.sessionEnded := by
  refine State.Safe.trans ?_ (State.refreshScreens_safe _)
  exact ⟨fun h => h.of_eq (by simp), fun h => h.of_eq (by simp), fun h => h.of_eq (by simp), fun h => h.of_eq (by simp) (by simp),
    fun h => h.ended (by simp) (by simp) (by simp [Session.isActive])⟩

theorem State.completeClosing_safe : s.Safe s.completeClosing := by
  rw [s.completeClosing_eq]
  exact s.sessionEnded_safe.trans (State.evaluateIdle_safe _ (by rw [s.sessionEnded_cal]; rfl))

theorem State.reportClosed_safe : s.Safe s.reportClosed := by
  unfold State.reportClosed
  split
  · exact s.completeClosing_safe
  · exact .refl s

theorem Session.runs_isActive {x : Session} (h : x.runs = true) : x.isActive = true := by cases x <;> simp_all [Session.runs, Session.isActive]

/-- CLOSING begins in a session that is active. -/
theorem State.closingNamed_safe (c : EndCause) (hs : s.cal.session.isActive = true) : s.Safe (s.closingNamed c) :=
  State.Safe.trans (t := { s with cal := { s.cal with
      session := .closing, endCause := some c, actualEnd := s.clock.now, graceEnd := none } })
    ⟨id, id, id, id, fun h => h.of_session rfl rfl hs.symm⟩ (State.clearMessages_safe _)

theorem State.startClosing_safe (c : EndCause) (hs : s.cal.session.isActive = true) : s.Safe (s.startClosing c) := by
  have emptied : s.Safe (s.closingEmptied c) :=
    (s.closingNamed_safe c hs).trans ((State.removeAll_safe _ _ _).trans (State.clearQueue_safe _ _))
  have reported : ∀ (u : State) (r : Report), u.Safe { u with cal := { u.cal with lastReport := some r } } :=
    fun _ _ => ⟨id, id, id, id, fun h => h.of_eq rfl rfl rfl⟩
  rw [s.startClosing_eq]
  exact (emptied.trans ((reported _ _).trans (State.notice_safe _ _ _))).trans (State.reportClosed_safe _)

theorem State.removeEntry_safe (seat : Seat) (r : Reason) : s.Safe (s.removeEntry seat r) := by
  unfold State.removeEntry
  split
  · simp only
    split
    · next h => exact (s.removeCore_safe seat r).trans (State.startClosing_safe _ _ (by rw [h.1]; rfl))
    · exact s.removeCore_safe seat r
  · exact .refl s

theorem State.removeThenAdvance_safe (seat : Seat) (r : Reason) : s.Safe (s.removeThenAdvance seat r) := by
  unfold State.removeThenAdvance
  split
  · exact (s.removeEntry_safe seat r).trans (State.autoAdvance_safe _)
  · exact .refl s

theorem State.reduceLoop_safe (n : Nat) : ∀ s : State, s.Safe (State.reduceLoop n s) := by
  induction n with
  | zero => exact .refl
  | succ n ih =>
    intro s
    unfold State.reduceLoop
    split
    · split
      · exact (s.removeThenAdvance_safe _ _).trans (ih _)
      · exact .refl s
    · exact .refl s

theorem State.reduceOpen_safe : s.Safe s.reduceOpen := State.reduceLoop_safe _ s

theorem State.testEnd_safe : s.Safe s.testEnd := by
  unfold State.testEnd
  split
  · exact .refl s
  · simp only
    split
    · next hs =>
      split
      · split
        · exact ⟨id, id, id, id, fun h => h.of_session rfl rfl (by rw [hs]; rfl)⟩
        · exact s.startClosing_safe _ (by rw [hs]; rfl)
      · exact .refl s
    · next hs =>
      split
      · refine State.Safe.trans ?_ (State.autoAdvance_safe _)
        exact ⟨id, id, id, id, fun h => h.of_session rfl rfl (by rw [hs]; rfl)⟩
      · split
        · exact s.startClosing_safe _ (by rw [hs]; rfl)
        · exact ⟨id, id, id, id, fun h => h.of_session rfl rfl rfl⟩
    · exact .refl s

theorem State.evaluate_safe : s.Safe s.evaluate := by
  unfold State.evaluate
  split
  · next hs => exact s.evaluateIdle_safe (by rw [hs]; rfl)
  · next hs => exact s.evaluateIdle_safe (by rw [hs]; rfl)
  · exact .refl s
  all_goals
    split
    · split
      · exact s.testEnd_safe
      · exact .refl s
    · exact s.removeMissed_safe.trans (State.testEnd_safe _)

/-! ## Limits, classes and losses -/

theorem State.evaluateLimit_safe (seat : Seat) : s.Safe (s.evaluateLimit seat) := by
  have marked : ∀ l, s.Safe (s.limitMarked seat l) := fun l => by
    unfold State.limitMarked
    simp only
    split
    · exact (s.setMic_safe _ _).trans (State.notice_safe _ _ _)
    · exact s.setMic_safe _ _
  by_cases ho : (s.micOf seat).state = .opened
  · cases hl : s.limitOf seat with
    | none =>
      rw [s.evaluateLimit_none seat ho hl]
      exact s.setMic_safe _ _
    | some l =>
      rw [s.evaluateLimit_some seat ho hl]
      split
      · exact (marked l).trans (State.removeThenAdvance_safe _ _ _)
      · exact marked l
  · rw [s.evaluateLimit_closed seat ho]
    exact .refl s

theorem State.keyNotice_safe (seat : Seat) : s.Safe (s.keyNotice seat) := by
  unfold State.keyNotice
  split
  · exact s.removeThenAdvance_safe _ _
  · exact s.withdraw_safe _ _

theorem State.classChange_safe (seat : Seat) (c : SeatClass) : s.Safe (s.classChange seat c) := by
  unfold State.classChange
  simp only
  split
  · exact .refl s
  · refine State.Safe.trans ?_ (State.evaluateLimit_safe _ seat)
    split
    · exact .refl s
    · split
      · exact s.autoAdvance_safe
      · split
        · exact s.reduceOpen_safe
        · exact .refl s

theorem State.permissionChange_safe (seat : Seat) (b : Bool) : s.Safe (s.permissionChange seat b) := by
  unfold State.permissionChange
  split
  · exact s.keyNotice_safe seat
  · exact .refl s

theorem State.lossNotice_safe (p : Pos) : s.Safe (s.lossNotice p) := by
  have told : ∀ seat, s.Safe (s.floorLost seat) := fun seat => by
    unfold State.floorLost
    simp only
    refine State.Safe.trans ?_ (State.setFloor_safe _ _)
    split
    · exact s.removeThenAdvance_safe _ _
    · exact s.withdraw_safe _ _
  have closed : ∀ (u : State) (seat : Seat), u.Safe (u.micLost seat) := fun u seat => by
    unfold State.micLost
    split
    · exact .refl u
    · exact State.Safe.trans (.of_keeps (u.micClose_keeps seat) (by decide)) (State.reportClosed_safe _)
  exact (((told _).trans (closed _ _)).trans (.of_keeps (State.zeroLevel_keeps _ p) (by decide))).trans
    (.of_keeps (State.composerLost_keeps _ p _) (by decide))

end Sessions

end Sys2Proof.Machine

namespace Sys2Proof.Machine

/-! ## A record takes its place in the table (03 R47) -/

section Place
variable {b : Booking} {bs : List Booking}

theorem placeBooking_perm (b : Booking) (bs : List Booking) : (placeBooking b bs).Perm (b :: bs) := by
  obtain ⟨before, after, rfl, placed⟩ := placeBooking_split b bs
  rw [placed]
  exact List.perm_middle

/-- The window of a record shares no minute with another. -/
def Booking.free (b r : Booking) : Prop := ¬ max b.start r.start < min (b.start + b.duration) (r.start + r.duration)

theorem Booking.apart_of_precedes {x : Booking} (hp : b.precedes x = true) (hf : b.free x) (ha : b.active = true → x.active = false) :
    b.apart x := by
  have order : b.start < x.start ∨ b.start = x.start ∧ (b.active = true ∨ x.active = false) := by
    simpa [Booking.precedes] using hp
  refine ⟨by omega, hf, fun he => ?_, fun h => by simp [ha h.1] at h⟩
  rcases order with lt | ⟨-, active | waits⟩
  · omega
  · exact ha active
  · exact waits

theorem Booking.apart_of_not_precedes {x : Booking} (hp : b.precedes x = false) (hf : b.free x) (ha : b.active = true → x.active = false) :
    x.apart b := by
  have order : x.start ≤ b.start ∧ (b.start = x.start → b.active = false) := by
    simp only [Booking.precedes, Bool.or_eq_false_iff, Bool.and_eq_false_iff, decide_eq_false_iff_not] at hp
    refine ⟨by omega, fun he => ?_⟩
    rcases hp.2 with k | ⟨k, -⟩
    · exact absurd he k
    · exact k
  exact ⟨order.1, by unfold Booking.free at hf; omega, fun he => order.2 he.symm, fun h => by simp [ha h.2] at h⟩

theorem Booking.apart.precedes {x y : Booking} (h : x.apart y) (hp : b.precedes x = true) :
    b.precedes y = true := by
  obtain ⟨order, -, second, -⟩ := h
  simp only [Booking.precedes, Bool.or_eq_true, Bool.and_eq_true, decide_eq_true_eq, Bool.not_eq_true'] at hp ⊢
  rcases Nat.lt_or_ge b.start y.start with lt | ge
  · exact .inl lt
  · refine .inr ⟨by omega, .inr (second ?_)⟩
    omega

/-- A record that shares no minute with another stands in its place. -/
theorem placeBooking_apart (h : bs.Pairwise Booking.apart) (hf : ∀ r ∈ bs, b.free r) (ha : b.active = true → ∀ r ∈ bs, r.active = false) :
    (placeBooking b bs).Pairwise Booking.apart := by
  induction bs with
  | nil => simp [placeBooking]
  | cons x xs ih =>
    obtain ⟨first, others⟩ := List.pairwise_cons.1 h
    have fits := hf x (by simp)
    have alone := fun k => ha k x (by simp)
    unfold placeBooking
    split
    · next hp =>
      refine List.pairwise_cons.2 ⟨fun y hy => ?_, h⟩
      have goes : b.precedes y = true := by
        rcases List.mem_cons.1 hy with rfl | hy
        · exact hp
        · exact (first y hy).precedes hp
      exact Booking.apart_of_precedes goes (hf y hy) fun k => ha k y hy
    · next hp =>
      refine List.pairwise_cons.2 ⟨fun y hy => ?_,
        ih others (fun r hr => hf r (List.mem_cons_of_mem _ hr)) fun k r hr => ha k r (List.mem_cons_of_mem _ hr)⟩
      rcases List.mem_cons.1 ((placeBooking_perm b xs).subset hy) with rfl | hy
      · exact Booking.apart_of_not_precedes (by simpa using hp) fits alone
      · exact first y hy

theorem bookingsOk.place (h : bookingsOk bs) (hl : bs.length < 32) (hn : ∀ r ∈ bs, r.number ≠ b.number) (hb : b.ok)
    (hf : ∀ r ∈ bs, b.free r) (ha : b.active = true → ∀ r ∈ bs, r.active = false) : bookingsOk (placeBooking b bs) := by
  obtain ⟨-, numbers, ok, apart⟩ := h
  have perm := placeBooking_perm b bs
  refine ⟨by rw [perm.length_eq]; simpa using hl, ?_, fun r hr => ?_, placeBooking_apart apart hf ha⟩
  · rw [(perm.map _).nodup_iff]
    simp only [List.map_cons, List.nodup_cons, List.mem_map, not_exists, not_and]
    exact ⟨hn, numbers⟩
  · rcases List.mem_cons.1 (perm.subset hr) with rfl | hr
    · exact hb
    · exact ok r hr

end Place

/-! ## Writes to BOOKINGS (03 R48, R49) -/

section Writes
variable {now : Nat} {b : Booking} {bs cs : List Booking} {v : Value} {c : Bool}

theorem number_lt (bytes : List Byte) : number bytes < 256 ^ bytes.length := by
  induction bytes using List.reverseRecOn with
  | nil => simp [number]
  | append_singleton bytes b ih =>
    have digit := b.isLt
    simp only [number, List.foldl_append, List.foldl_cons, List.foldl_nil, List.length_append, List.length_singleton, pow_succ] at ih ⊢
    omega

theorem field_lt (bytes : List Byte) (i n : Nat) : field bytes i n < 256 ^ n :=
  (number_lt _).trans_le (Nat.pow_le_pow_right (by decide) (by simp))

theorem readBooking_ok {num : Nat} {bytes : List Byte} (h : readBooking num bytes = some (b, c)) (hn : num < 65536) (h0 : num ≠ 0) :
    b.number = num ∧ b.active = false ∧ b.ok := by
  unfold readBooking at h
  split at h
  · split at h
    · cases h
    · simp only [Option.some.injEq, Prod.mk.injEq] at h
      obtain ⟨rfl, -⟩ := h
      exact ⟨rfl, rfl, hn, by simp [clampTo], by simp [clampTo], fun _ => ⟨Nat.pos_of_ne_zero h0, by simp [clampTo]⟩⟩
  · cases h

theorem Booking.conflict_none (h : b.conflict now bs = none) : ∀ r ∈ bs, b.free r := by
  unfold Booking.conflict at h
  split at h
  · cases h
  · split at h
    · cases h
    · next hs =>
      intro r hr hm
      exact hs (List.any_eq_true.2 ⟨r, hr, by simpa [sharesMinute, Booking.finish] using hm⟩)

/-- The table keeps its shape, with an ACTIVE record exactly where there was one. -/
def keepsShape (bs cs : List Booking) : Prop := bookingsOk bs → bookingsOk cs ∧ ((∃ r ∈ cs, r.active = true) ↔ ∃ r ∈ bs, r.active = true)

theorem keepsShape.refl (bs : List Booking) : keepsShape bs bs := fun h => ⟨h, .rfl⟩

theorem keepsShape.trans {ds : List Booking} (h : keepsShape bs cs) (k : keepsShape cs ds) : keepsShape bs ds := fun hb =>
  have ⟨okc, first⟩ := h hb
  have ⟨okd, second⟩ := k okc
  ⟨okd, second.trans first⟩

/-- Records that wait go. -/
theorem keepsShape_filter {p : Booking → Bool} (hp : ∀ r ∈ bs, r.active = true → p r = true) : keepsShape bs (bs.filter p) := by
  refine fun hb => ⟨hb.sublist List.filter_sublist, ⟨?_, ?_⟩⟩
  · rintro ⟨r, hr, ha⟩
    exact ⟨r, (List.mem_filter.1 hr).1, ha⟩
  · rintro ⟨r, hr, ha⟩
    exact ⟨r, List.mem_filter.2 ⟨hr, hp r hr ha⟩, ha⟩

/-- A record that waits takes its place. -/
theorem keepsShape_place (hw : b.active = false) (hl : bookingsOk bs → bs.length < 32) (hn : ∀ r ∈ bs, r.number ≠ b.number) (hb : b.ok)
    (hf : ∀ r ∈ bs, b.free r) : keepsShape bs (placeBooking b bs) := by
  refine fun h => ⟨h.place (hl h) hn hb hf (by simp [hw]), ?_⟩
  simp [(placeBooking_perm b bs).mem_iff, hw]

theorem insertBooking_shape (h : insertBooking now bs v = .ok (cs, c)) : keepsShape bs cs := by
  unfold insertBooking at h
  split at h
  · cases h
  · next b _ read =>
    split at h
    · cases h
    · next h0 =>
      split at h
      · cases h
      · next held =>
        split at h
        · cases h
        · next room =>
          split at h
          · cases h
          · next free =>
            obtain ⟨rfl, -⟩ := Prod.mk.inj (Except.ok.inj h)
            have number : b.number = field v.bytes 0 2 := by
              unfold readBooking at read
              split at read
              · split at read
                · cases read
                · simp only [Option.some.injEq, Prod.mk.injEq] at read
                  rw [← read.1]
              · cases read
            obtain ⟨-, waits, ok⟩ := readBooking_ok read (field_lt v.bytes 0 2) (number ▸ h0)
            exact keepsShape_place waits (fun _ => by omega) (by simpa using held) ok (Booking.conflict_none free)

/-- The record with the number of `b` waits, and gives way to `b`. -/
theorem replaceBooking_shape {r : Booking} (hr : r ∈ bs) (hnum : r.number = b.number)
    (hwait : bookingsOk bs → ∀ x ∈ bs, x.number = b.number → x.active = false)
    (hw : b.active = false) (hb : b.ok) {d : Bool} (h : replaceBooking now bs b d = .ok (cs, c)) : keepsShape bs cs := by
  unfold replaceBooking at h
  simp only at h
  split at h
  · cases h
  · next free =>
    obtain ⟨rfl, -⟩ := Prod.mk.inj (Except.ok.inj h)
    have shorter : (bs.filter fun x => x.number ≠ b.number).length < bs.length :=
      List.length_filter_lt_length_iff_exists.2 ⟨r, hr, by simp [hnum]⟩
    intro ok
    have left : keepsShape bs (bs.filter fun x => x.number ≠ b.number) :=
      keepsShape_filter fun x hx ha => by
        by_contra same
        rw [hwait ok x hx (by simpa using same)] at ha
        cases ha
    refine (left.trans (keepsShape_place hw (fun _ => ?_) (fun x hx => by simpa using (List.mem_filter.1 hx).2) hb
      (Booking.conflict_none free))) ok
    obtain ⟨length, -⟩ := ok
    omega

theorem changeBooking_shape (h0 : v.index ≠ 0) (h : changeBooking now bs v = .ok (cs, c)) : keepsShape bs cs := by
  unfold changeBooking at h
  split at h
  · cases h
  · next r found =>
    have mem := List.mem_of_find?_eq_some found
    have number : r.number = v.index := by simpa using List.find?_some found
    split at h
    · cases h
    · next ha =>
      have rest : r.active = false := by simpa using ha
      have wait : bookingsOk bs → ∀ x ∈ bs, x.number = v.index → x.active = false := fun hb x hx he => by
        obtain ⟨-, unique, -⟩ := hb
        rwa [List.inj_on_of_nodup_map unique hx mem (he.trans number.symm)]
      intro ok
      obtain ⟨-, -, records, -⟩ := id ok
      obtain ⟨fits, least, most, long⟩ := records r mem
      revert ok
      split at h
      · obtain ⟨rfl, -⟩ := Prod.mk.inj (Except.ok.inj h)
        intro ok
        refine keepsShape_filter (fun x hx k => ?_) ok
        by_contra same
        rw [wait ok x hx (by simpa using same)] at k
        cases k
      · split at h
        · simp only at h
          split at h
          · cases h
          · exact replaceBooking_shape (b := r.withFlags (Machine.number v.bytes)) mem rfl
              (fun ok x hx he => wait ok x hx (he.trans number)) rest ⟨fits, least, most, long⟩ h
        · split at h
          · cases h
          · next b d read =>
            obtain ⟨num, waits, ok⟩ := readBooking_ok read (number ▸ fits) h0
            exact replaceBooking_shape mem (number.trans num.symm) (fun ok x hx he => wait ok x hx (he.trans num)) waits ok h

theorem storeBooking_shape (h : storeBooking now bs v = .ok (cs, c)) : keepsShape bs cs := by
  unfold storeBooking at h
  split at h
  · split at h
    · exact insertBooking_shape h
    · split at h <;> cases h
  · next h0 => exact changeBooking_shape h0 h

end Writes

end Sys2Proof.Machine

namespace Sys2Proof.Machine

/-! ## The ACTIVE record among the others -/

section Active
variable {s : State} {b n : Booking}

/-- The ACTIVE record, and the others, which wait. -/
theorem State.TableOk.split (h : s.TableOk) (hb : s.activeBooking = some b) : b.active = true ∧
    ∃ before after, s.cal.bookings = before ++ b :: after ∧ ∀ x ∈ before ++ after, x.active = false := by
  obtain ⟨⟨-, -, -, apart⟩, -, -⟩ := h
  obtain ⟨ha, before, after, hl, first⟩ := List.find?_eq_some_iff_append.1 hb
  refine ⟨ha, before, after, hl, fun x hx => ?_⟩
  rw [hl, List.pairwise_append] at apart
  obtain ⟨-, others, -⟩ := apart
  rcases List.mem_append.1 hx with hx | hx
  · simpa using first x hx
  · obtain ⟨-, -, -, alone⟩ := (List.pairwise_cons.1 others).1 x hx
    simpa [ha] using alone

theorem State.activeBooking_mem (hb : s.activeBooking = some b) : b ∈ s.cal.bookings ∧ b.active = true :=
  ⟨List.mem_of_find?_eq_some hb, List.find?_some hb⟩

/-- The next booking is the earliest of those that wait. -/
theorem bookingsOk.next_least {bs : List Booking} (h : bookingsOk bs) (hn : (waitingOf bs).head? = some n) :
    ∀ x ∈ bs, x.active = false → n.start ≤ x.start := by
  intro x hx ha
  obtain ⟨-, -, -, apart⟩ := h.sublist (cs := waitingOf bs) List.filter_sublist
  obtain ⟨rest, hl⟩ := List.head?_eq_some_iff.1 hn
  have mem : x ∈ waitingOf bs := List.mem_filter.2 ⟨hx, by simp [ha]⟩
  rw [hl] at apart mem
  rcases List.mem_cons.1 mem with rfl | mem
  · exact Nat.le_refl _
  · exact ((List.pairwise_cons.1 apart).1 x mem).1

/-- No record that waits stands where there is no next booking. -/
theorem no_next {bs : List Booking} (hn : (waitingOf bs).head? = none) : ∀ x ∈ bs, x.active = true := by
  intro x hx
  by_contra ha
  have mem : x ∈ waitingOf bs := List.mem_filter.2 ⟨hx, by simpa using ha⟩
  rw [List.head?_eq_none_iff.1 hn] at mem
  cases mem

/-- An end that does not pass the next start passes no start of a record that waits. -/
theorem State.not_passesNext (h : bookingsOk s.cal.bookings) {finish : Nat} (hp : s.passesNext finish = false) :
    ∀ x ∈ s.cal.bookings, x.active = false → finish ≤ x.start := by
  intro x hx ha
  unfold State.passesNext at hp
  split at hp
  · next n hn =>
    have least := h.next_least hn x hx ha
    simp at hp
    omega
  · next hn => exact absurd (no_next hn x hx) (by simp [ha])

end Active

/-! ## The ACTIVE record begins, grows and moves (03 R46, R60, R61) -/

section Grows
variable {s : State} {b : Booking}

/-- An ad hoc booking takes its place in a table in which nothing is ACTIVE, and its session starts (03 R60). -/
theorem State.TableOk.adhoc (h : s.TableOk) (hs : s.cal.session.isActive = false) (hl : s.cal.bookings.length < 32) (hn : b.number = 0)
    (ha : b.active = true) (ho : b.ok) (hp : s.passesNext (b.start + b.duration) = false) :
    ((s.adhocPlaced b).startSession b).TableOk := by
  have waits := h.waiting hs
  obtain ⟨ok, -, -⟩ := id h
  obtain ⟨-, -, records, -⟩ := id ok
  have numbered : ∀ x ∈ s.cal.bookings, x.number ≠ b.number := fun x hx he => by
    obtain ⟨-, -, -, positive⟩ := records x hx
    have := (positive (waits x hx)).1
    omega
  have placed : bookingsOk (placeBooking b s.cal.bookings) := by
    refine ok.place hl numbered ho (fun x hx hm => ?_) fun _ => waits
    have := State.not_passesNext ok hp x hx (waits x hx)
    omega
  have same : ((s.adhocPlaced b).startSession b).cal.bookings = placeBooking b s.cal.bookings := by
    refine State.startSession_active fun x hx he => ?_
    rcases List.mem_cons.1 ((placeBooking_perm b _).subset hx) with rfl | hx
    · exact ha
    · exact absurd he (numbered x hx)
  refine h.of_bookings (by simp [State.adhocPlaced]) (by rwa [same]) ?_
  rw [same]
  exact ⟨fun _ => ⟨b, (placeBooking_perm b _).symm.subset List.mem_cons_self, ha⟩, fun _ => rfl⟩

/-- The duration of the ACTIVE record grows, before the next start (03 R61). -/
theorem State.lengthen_bookings {before after : List Booking} (hl : s.cal.bookings = before ++ b :: after) (ha : b.active = true)
    (hw : ∀ x ∈ before ++ after, x.active = false) (e : Nat) :
    (s.lengthen e).cal.bookings = before ++ { b with duration := b.duration + e } :: after := by
  have still : ∀ l : List Booking, (∀ x ∈ l, x.active = false) →
      l.map (fun x : Booking => if x.active then { x with duration := x.duration + e } else x) = l := fun l hx => by
    refine (List.map_congr_left fun x hm => ?_).trans (List.map_id l)
    simp [hx x hm]
  simp only [State.lengthen, hl, List.map_append, List.map_cons, ha, if_true]
  rw [still before fun x hx => hw x (by simp [hx]), still after fun x hx => hw x (by simp [hx])]

theorem State.TableOk.lengthened (h : s.TableOk) (hb : s.activeBooking = some b) {e : Nat} (he : 0 < e)
    (hp : s.passesNext (b.finish + e) = false) : (s.lengthen e).TableOk := by
  obtain ⟨ha, before, after, hl, waits⟩ := h.split hb
  have late := State.not_passesNext h.1 hp
  have grown := State.lengthen_bookings hl ha waits e
  obtain ⟨⟨length, numbers, records, apart⟩, active, -⟩ := id h
  rw [hl] at length numbers records apart late active
  obtain ⟨earlier, later, between⟩ := List.pairwise_append.1 apart
  obtain ⟨first, others⟩ := List.pairwise_cons.1 later
  have none_before : ∀ x ∈ before, False := fun x hx => by
    have order := (between x hx b (by simp)).1
    have start := late x (by simp [hx]) (waits x (by simp [hx]))
    simp only [Booking.finish] at start
    omega
  refine h.of_bookings rfl ?_ ?_
  · rw [grown]
    refine ⟨by simpa using length, by simpa using numbers, fun x hx => ?_,
      List.pairwise_append.2 ⟨earlier, List.pairwise_cons.2 ⟨fun x hx => ?_, others⟩, fun x hx => (none_before x hx).elim⟩⟩
    · rcases List.mem_append.1 hx with hx | hx
      · exact records x (by simp [hx])
      · rcases List.mem_cons.1 hx with rfl | hx
        · obtain ⟨number, least, most, -⟩ := records b (by simp)
          exact ⟨number, least, most, by simp [ha]⟩
        · exact records x (by simp [hx])
    · obtain ⟨order, -, second, alone⟩ := first x hx
      have start := late x (by simp [hx]) (waits x (by simp [hx]))
      refine ⟨order, ?_, second, alone⟩
      simp only [Booking.finish] at start ⊢
      omega
  · show s.cal.session.isActive = true ↔ _
    rw [grown]
    exact ⟨fun _ => ⟨_, List.mem_append_right _ List.mem_cons_self, ha⟩, fun _ => active.2 ⟨b, by simp, ha⟩⟩

/-- Where an end is cut: at the next start, and no earlier than now (03 R46). -/
def State.cutEnd (s : State) (finish : Nat) : Nat :=
  match s.nextBooking with
  | some n => if n.start < finish then max n.start s.clock.now.minute else finish
  | none => finish

/-- The ACTIVE record moved to now; `old` is the minute before the TIME frame. -/
def State.movedBooking (s : State) (b : Booking) (old : Nat) : Booking :=
  { b with start := s.clock.now.minute
           duration := s.removeMissed.cutEnd (s.clock.now.minute + (b.finish - old)) - s.clock.now.minute }

theorem State.moveAdhoc_none (hb : s.activeBooking = none) (old : Nat) : s.moveAdhoc old = s := by
  simp only [State.moveAdhoc, hb]

theorem State.moveAdhoc_some (hb : s.activeBooking = some b) (old : Nat) : s.moveAdhoc old = { s.removeMissed with cal := { s.removeMissed.cal with
    bookings := placeBooking (s.movedBooking b old) (waitingOf s.removeMissed.cal.bookings), actualStart := s.clock.now } } := by
  have clock : s.removeMissed.clock = s.clock := by simp
  cases hn : s.removeMissed.nextBooking <;> simp only [State.moveAdhoc, hb, State.movedBooking, State.cutEnd, waitingOf, clock, hn]

theorem State.cutEnd_early (h : bookingsOk s.cal.bookings) (finish : Nat) :
    ∀ x ∈ s.cal.bookings, x.active = false → s.cutEnd finish ≤ max x.start s.clock.now.minute := by
  intro x hx ha
  unfold State.cutEnd
  split
  · next n hn =>
    have least := h.next_least hn x hx ha
    split <;> omega
  · next hn => exact absurd (no_next hn x hx) (by simp [ha])

/-- The ACTIVE record moves to now and is cut at the next start (03 R46). -/
theorem State.TableOk.moved (h : s.TableOk) (old : Nat) : (s.moveAdhoc old).TableOk := by
  cases hb : s.activeBooking with
  | none => rwa [State.moveAdhoc_none hb]
  | some b =>
    have left : s.removeMissed.TableOk := s.removeMissed_safe.table h
    obtain ⟨ha, before, after, hl, waits⟩ := left.split (s.removeMissed_active.trans hb)
    obtain ⟨ok, active, -⟩ := id left
    obtain ⟨length, numbers, records, -⟩ := id ok
    have others : waitingOf s.removeMissed.cal.bookings = before ++ after := by
      rw [waitingOf, hl, List.filter_append, List.filter_cons_of_neg (by simp [ha]), ← List.filter_append, List.filter_eq_self]
      exact fun x hx => by simp [waits x hx]
    have early := State.cutEnd_early ok (s.clock.now.minute + (b.finish - old))
    have ready : bookingsOk (before ++ after) := others ▸ ok.sublist List.filter_sublist
    rw [hl] at length numbers records early
    have unique : ∀ x ∈ before ++ after, x.number ≠ b.number := fun x hx he => by
      have perm : (before ++ b :: after).Perm (b :: (before ++ after)) := List.perm_middle
      rw [(perm.map _).nodup_iff, List.map_cons, List.nodup_cons] at numbers
      exact numbers.1 (List.mem_map.2 ⟨x, hx, he⟩)
    have placed : bookingsOk (placeBooking (s.movedBooking b old) (before ++ after)) := by
      obtain ⟨number, least, most, -⟩ := records b (by simp)
      refine ready.place (by simp at length ⊢; omega) unique ⟨number, least, most, by simp [State.movedBooking, ha]⟩
        (fun x hx hm => ?_) fun _ => waits
      have cut := early x (by simp only [List.mem_append, List.mem_cons] at hx ⊢; tauto) (waits x hx)
      simp only [State.movedBooking, s.removeMissed_frame] at hm cut
      omega
    rw [State.moveAdhoc_some hb]
    refine left.of_bookings rfl (by rw [others]; exact placed) ?_
    rw [others, active]
    exact ⟨fun _ => ⟨_, (placeBooking_perm _ _).symm.subset List.mem_cons_self, ha⟩, fun _ => ⟨b, by rw [hl]; simp, ha⟩⟩

end Grows

end Sys2Proof.Machine

namespace Sys2Proof.Machine

/-! ## Requests for the floor (04 R74–R82) -/

section Press
variable (s : State)

theorem State.replaceAndGrant_safe (o i : Seat) (c : Source) : s.Safe (s.replaceAndGrant o i c) :=
  ((s.removeEntry_safe o .replaced).trans (State.grantSeat_safe _ i c)).trans (State.autoAdvance_safe _)

theorem State.askOpen_safe (i : Seat) : s.Safe (s.askOpen i) := by
  unfold State.askOpen
  split
  · exact s.grantSeat_safe i .button
  · split
    · split
      · exact s.replaceAndGrant_safe _ i .button
      · exact s.refuse_safe i _ _
    · exact s.refuse_safe i _ _

theorem State.askQueue_safe (i : Seat) : s.Safe (s.askQueue i) := by
  unfold State.askQueue
  split
  · exact s.askOpen_safe i
  · split
    · exact (s.enqueue_safe i .button).trans (State.autoAdvance_safe _)
    · exact s.refuse_safe i _ _

theorem State.press_safe (i : Seat) : s.Safe (s.press i) := by
  unfold State.press
  split
  · exact s.refuse_safe i _ _
  · split
    · exact s.removeThenAdvance_safe i .released
    · simp only
      refine State.Safe.trans (s.setFloor_safe fun f => { f with blocked := f.blocked.set i false }) ?_
      split
      · exact (State.withdraw_safe _ i .withdrawn).trans (State.autoAdvance_safe _)
      · split
        · exact State.askOpen_safe _ i
        · exact State.askQueue_safe _ i
        · exact .refl _

theorem State.priorityTaken_safe (i : Seat) : s.Safe (s.priorityTaken i) := by
  have removed := State.Safe.foldl (fun s j => State.removeEntry_safe s j .priority)
    ((s.floor.openList.map (·.seat)).filter fun t => s.classOf t ≠ .chair) s
  unfold State.priorityTaken
  simp only
  refine State.Safe.trans ?_ (State.autoAdvance_safe _)
  generalize List.foldl _ _ _ = u at removed ⊢
  have cleared : u.Safe (if s.cfg.clearQueue = true then u.clearQueue .priority else u) := by
    split
    · exact u.clearQueue_safe .priority
    · exact .refl u
  generalize (if s.cfg.clearQueue = true then u.clearQueue .priority else u) = v at cleared ⊢
  refine (removed.trans cleared).trans ?_
  split
  · exact .refl _
  · split
    · exact State.grantSeat_safe _ i .button
    · exact State.refuse_safe _ i _ _

theorem State.priorityPress_safe (i : Seat) : s.Safe (s.priorityPress i) := by
  unfold State.priorityPress
  split
  · exact .refl s
  · split
    · exact s.refuse_safe i _ _
    · exact s.priorityTaken_safe i

theorem State.setPos_safe (p : Pos) (f : PosRec → PosRec) : s.Safe (s.setPos p f) := .of_keeps (s.setPos_keeps p f) (by decide)

theorem State.setWing_safe (w : Wing) (f : WingPort → WingPort) : s.Safe (s.setWing w f) := .of_keeps (s.setWing_keeps w f) (by decide)

theorem State.startPass_safe (w : Wing) : s.Safe (s.startPass w) := s.setWing_safe w _

theorem State.slotAnswer_safe (p : Pos) : s.Safe (s.slotAnswer p) := by
  unfold State.slotAnswer
  split
  · split
    · refine (s.setPos_safe p fun r => { r with answer := none }).trans ?_
      unfold State.takeAnswer
      split
      · exact State.startPass_safe _ _
      · exact (State.setPos_safe _ p _).trans (State.permissionChange_safe _ _ _)
    · exact .refl s
  · exact .refl s

theorem State.slotEvent_safe (p : Pos) : s.Safe (s.slotEvent p) := by
  unfold State.slotEvent
  simp only
  refine (s.slotAnswer_safe p).trans ?_
  split
  · exact .refl _
  · next k _ =>
    split
    · refine (State.setPos_safe _ p fun r => { r with event := none }).trans ?_
      cases k with
      | button => exact State.press_safe _ _
      | priority => exact State.priorityPress_safe _ _
    · exact .refl _

end Press

/-! ## The reply, and the end of a request -/

section Engine
variable (s : State)

/-- What touches the engine alone of the five. -/
theorem State.Safe.of_mgmt {s t : State} (h : s.MgmtOk → t.MgmtOk) {l : List Piece} (k : s.keeps t l)
    (hl : ∀ p ∈ [Piece.sending, .audioReturn, .linkState, .clock, .mixCycle, .cal, .store], p ∉ l) : s.Safe t := by
  obtain ⟨outClips, sendClips, -⟩ : s.agrees t .mixCycle := k _ (hl _ (by decide))
  have cal : t.cal = s.cal := k .cal (hl _ (by decide))
  exact {
    link := fun h => h.of_keeps k fun p hp => hl p (by revert p; decide)
    mgmt := h
    clock := fun h => h.of_eq (k .clock (hl _ (by decide)))
    clips := fun h => h.of_eq outClips sendClips
    table := fun h => h.of_eq (by rw [cal]) (by rw [cal]) (k .store (hl _ (by decide))) }

theorem State.setMgmt_safe {f : Mgmt → Mgmt} (h : s.MgmtOk → (s.setMgmt f).MgmtOk) : s.Safe (s.setMgmt f) :=
  .of_mgmt h (s.setMgmt_keeps f) (by decide)

/-- A change of the engine's marks: the requests and the engine's state stand. -/
theorem State.marks_safe {f : Mgmt → Mgmt} (hr : (f s.mgmt).requests = s.mgmt.requests) (he : (f s.mgmt).engine = s.mgmt.engine) :
    s.Safe (s.setMgmt f) :=
  s.setMgmt_safe fun h => by
    unfold State.MgmtOk at h ⊢
    rwa [State.setMgmt_mgmt, hr, he]

theorem State.leaveHead_safe : s.Safe (s.setMgmt Mgmt.leaveHead) := s.setMgmt_safe fun h => by
  obtain ⟨length, -⟩ := h
  have shorter : s.mgmt.requests.tail.length ≤ 4 := by rw [List.length_tail]; omega
  refine ⟨shorter, ?_⟩
  cases ht : s.mgmt.requests.tail <;> simp [Mgmt.leaveHead, ht]

/-- The head request's engine moves to a state other than IDLE. -/
theorem State.busy_safe {f : Mgmt → Mgmt} (hr : (f s.mgmt).requests = s.mgmt.requests) (hq : s.MgmtOk → s.mgmt.requests ≠ [])
    (he : (f s.mgmt).engine ≠ .idle) : s.Safe (s.setMgmt f) :=
  s.setMgmt_safe fun h => by
    have some' := hq h
    obtain ⟨length, -⟩ := h
    unfold State.MgmtOk
    rw [State.setMgmt_mgmt, hr]
    exact ⟨length, iff_of_false he some'⟩

/-- A reply enters a queue that has room for it. -/
theorem State.admitReply_safe (hq : s.LinkOk → s.link.queue.length < 8) : s.Safe s.admitReply := by
  unfold State.admitReply
  split
  · exact .refl s
  · refine State.Safe.trans ?_ (State.leaveHead_safe _)
    exact ⟨fun h => h.queued (hq h) rfl, id, id, id, id⟩

theorem State.offerReply_safe (hr : s.MgmtOk → s.mgmt.requests ≠ []) : s.Safe s.offerReply := by
  have waits : s.Safe (s.setMgmt fun m => { m with engine := .replyWait, stagger := 0, restart := m.restart.offered }) :=
    s.busy_safe rfl hr (by simp)
  unfold State.offerReply
  simp only
  split
  · next hq => exact waits.trans (State.admitReply_safe _ fun _ => hq)
  · exact waits

theorem State.reply_safe (payload : List Byte) : s.Safe (s.reply payload) := by
  unfold State.reply
  split
  · exact .refl s
  · next r rest hr =>
    have some' : s.mgmt.requests ≠ [] := by simp [hr]
    simp only
    refine State.Safe.trans (s.marks_safe (f := fun m => { m with reply := some ⟨r.source, s.link.station, .reply, payload⟩ }) rfl rfl) ?_
    split
    · exact State.busy_safe _ rfl (fun _ => some') (by simp)
    · exact State.offerReply_safe _ fun _ => some'

theorem State.commit_safe : s.Safe s.commit := by
  refine ⟨id, id, id, fun h => h.of_eq ?_ ?_, id⟩ <;> simp only [State.commit, MixBlock.commit] <;> split <;> rfl

theorem State.endRequest_safe (h : Hand) : s.Safe (s.endRequest h) := by
  unfold State.endRequest
  simp only
  refine State.Safe.trans (s.marks_safe (f := fun m => { m with unlocked := false }) rfl rfl) ?_
  generalize s.setMgmt _ = u
  have committed : u.Safe (if u.autoCommits h = true then u.commit else u) := by
    split
    · exact u.commit_safe
    · exact .refl u
  generalize (if u.autoCommits h = true then u.commit else u) = v at committed ⊢
  refine committed.trans ?_
  split
  · split
    · exact State.marks_safe _ rfl rfl
    · exact State.leaveHead_safe _
  · exact State.reply_safe _ _

theorem State.finishOp_safe (op : Op) (r : OpResult) : r.state.Safe (State.finishOp op r) := by
  unfold State.finishOp
  split
  · exact .refl _
  · simp only
    have marked : ∀ h' : Hand, r.state.Safe (r.state.setMgmt fun m => { m with hand := some h' }).refreshScreens :=
      fun _ => (State.marks_safe _ rfl rfl).trans (State.refreshScreens_safe _)
    split
    · exact (marked _).trans (State.endRequest_safe _ _)
    · exact marked _

end Engine

/-! ## The end of a cycle and its boundary -/

section Cycle
variable (s : State)

theorem State.voiceTry_safe (seen : Seat → Bool) (i : Seat) : s.Safe (State.voiceTry seen s i) := by
  unfold State.voiceTry
  split
  · exact .refl s
  · split
    · split
      · exact s.grantSeat_safe i .voice
      · exact .refl s
    · split
      · exact .refl s
      · exact s.refuse_safe i _ _
    · exact .refl s

theorem State.voiceCycle_safe : s.Safe s.voiceCycle := by
  unfold State.voiceCycle
  refine State.Safe.trans ?_ (State.setFloor_safe _ _)
  split
  · exact (State.Safe.foldl (fun s j => State.removeEntry_safe s j .voiceIdle) _ s).trans
      (.foldl (fun s j => State.voiceTry_safe s _ j) _ _)
  · exact .refl s

theorem State.endPass_safe (w : Wing) : s.Safe (s.endPass w) := by
  have told : ∀ (u : State) (o : Pos × PassOutcome), u.Safe (u.passNotice o.1 o.2) := fun u o => by
    unfold State.passNotice
    split
    · exact u.lossNotice_safe o.1
    · exact u.lossNotice_safe o.1
    · exact .of_keeps (u.zeroLevel_keeps o.1) (by decide)
    · exact .refl u
    · exact .refl u
  unfold State.endPass
  split
  · rw [s.finishPass_eq w]
    exact (State.Safe.of_keeps (s.wingDecided_keeps w) (by decide)).trans
      ((State.Safe.foldl told _ _).trans (.of_keeps (State.forgetDisplays_keeps _ w) (by decide)))
  · exact .refl s

theorem State.endCycle_safe : s.Safe s.endCycle := by
  have taken : s.Safe s.takeSlots := .foldl State.slotEvent_safe _ s
  exact (((taken.trans (State.voiceCycle_safe _)).trans (State.endPass_safe _ .a)).trans (State.endPass_safe _ .b)).trans
    (.of_keeps (State.moveScan_keeps _) (by decide))

theorem State.endGap_safe (i : Seat) : s.Safe (s.endGap i) := by
  cases hs : (s.micOf i).state with
  | opening =>
    rw [s.endGap_opening i hs]
    exact State.Safe.trans (.of_keeps (s.micOpened_keeps i) (by decide)) (State.evaluateLimit_safe _ i)
  | closing =>
    rw [s.endGap_closing i hs]
    exact (s.setMic_safe i _).trans (State.reportClosed_safe _)
  | opened =>
    simp only [State.endGap, hs]
    exact .refl s
  | closed =>
    simp only [State.endGap, hs]
    exact .refl s

theorem State.advanceTurn_safe (i : Seat) : s.Safe (s.advanceTurn i) := (s.setMic_safe i _).trans (State.evaluateLimit_safe _ i)

theorem State.micBoundary_safe : s.Safe s.micBoundary := by
  have stepped : ∀ (u : State) (i : Seat), u.Safe (s.micStep u i) := fun u i => by
    unfold State.micStep
    split
    · exact .refl u
    · split
      · exact u.endGap_safe i
      · exact u.advanceTurn_safe i
  have ticked : s.Safe s.ticked := .of_keeps s.ticked_keeps (by decide)
  rw [s.micBoundary_eq]
  exact ticked.trans (.foldl stepped s.micDue s.ticked)

theorem State.endWindow_safe (e : Fin 4) : s.Safe (s.endWindow e) := by
  unfold State.endWindow
  simp only
  refine (s.refreshScreen_safe e).trans (State.Safe.trans (State.setScreen_safe _ e fun sc => { sc with window := 0 }) ?_)
  split
  · exact State.offerScreen_safe _ e
  · exact .refl _

theorem State.screenBoundary_safe (before : State) : s.Safe (s.screenBoundary before) := by
  refine State.Safe.foldl (fun s e => ?_) _ s
  split
  · rcases s.windowBoundary_cases e with k | ⟨-, k⟩ | ⟨-, -, k⟩ <;> rw [k]
    · exact .refl s
    · exact s.endWindow_safe e
    · exact s.setScreen_safe e _
  · exact .refl s

/-- The clock alone changes. -/
theorem State.setClock_safe {c : Clock} (h : s.ClockOk → ({ s with clock := c } : State).ClockOk) : s.Safe { s with clock := c } :=
  ⟨id, id, h, id, id⟩

theorem State.ClockOk.advance {s : State} (h : s.ClockOk) :
    ({ s with clock := { s.clock with now := s.clock.now.next, cycles := 0, age := satAdd s.clock.age 1 } } : State).ClockOk := by
  obtain ⟨minute, second, tenth, -, -⟩ := h
  obtain ⟨-, seconds, tenths⟩ := RoomTime.next_count minute second tenth
  refine ⟨?_, by simp only; omega, by simp only; omega, by simp, by simp [satAdd]⟩
  simp only [RoomTime.next]
  split
  · exact minute
  · split
    · exact minute
    · exact Nat.mod_lt _ (by decide)

theorem State.advanced_safe : s.Safe s.advanced := by
  have held : ∀ now, s.Safe (s.holdRoll now) := fun now => by
    unfold State.holdRoll
    split
    · exact ⟨id, id, id, id, fun h => h.of_eq rfl rfl rfl⟩
    · exact .refl s
  have clock : ∀ now, (s.holdRoll now).clock = s.clock := fun now => by
    unfold State.holdRoll
    split <;> rfl
  refine (held s.clock.now.next).trans (State.setClock_safe _ fun h => ?_)
  exact (h.of_eq (clock _).symm).advance.of_eq rfl

theorem State.advanceClock_safe : s.Safe s.advanceClock := by
  rw [s.advanceClock_eq]
  split
  · exact s.advanced_safe.trans (State.evaluate_safe _)
  · exact s.advanced_safe

theorem State.holdover_safe : s.Safe { s with clock := s.clock.holdover } := s.setClock_safe fun h => by
  unfold Clock.holdover
  split
  · exact h
  · exact h

theorem State.clockBoundary_safe : s.Safe s.clockBoundary := by
  unfold State.clockBoundary
  refine State.Safe.trans ?_ (State.holdover_safe _)
  split
  · exact .refl s
  · split
    · exact s.advanceClock_safe
    · refine s.setClock_safe fun h => ?_
      obtain ⟨minute, second, tenth, -, age⟩ := h
      exact ⟨minute, second, tenth, by simp only; omega, age⟩

/-- In STAGGER a request is held. -/
theorem State.MgmtOk.some {s : State} (h : s.MgmtOk) (he : s.mgmt.engine = .stagger) : s.mgmt.requests ≠ [] := fun hr => by
  obtain ⟨-, idle⟩ := h
  rw [idle.2 hr] at he
  cases he

end Cycle

end Sys2Proof.Machine

namespace Sys2Proof.Machine

/-! ## The boundary and the cycle that begins -/

section Begin
variable (s : State)

theorem State.staggerBoundary_safe : s.Safe s.staggerBoundary := by
  unfold State.staggerBoundary
  split
  · exact .refl s
  · next he =>
    have staggers : s.mgmt.engine = .stagger := not_not.1 fun k => he (.inl k)
    split
    · exact s.offerReply_safe fun h => h.some staggers
    · exact s.marks_safe rfl rfl

theorem State.boundary_safe : s.Safe s.boundary := by
  have transferred : s.Safe s.transferDue := .of_keeps s.transferDue_keeps (by decide)
  have shown := ((transferred.trans (State.micBoundary_safe _)).trans (.of_keeps (State.messageBoundary_keeps _) (by decide))).trans
    (State.screenBoundary_safe _ s)
  exact (shown.trans (State.clockBoundary_safe _)).trans (State.staggerBoundary_safe _)

/-- The block of the cycle leaves the return buffer (09 R168). -/
theorem State.giveReturn_safe : s.Safe s.giveReturn := by
  have link : s.LinkOk → s.giveReturn.LinkOk := fun h => by
    unfold State.LinkOk at h ⊢
    obtain ⟨queue, buffer, learnt, begun, held⟩ := h
    unfold State.giveReturn
    split
    · next b rest hb =>
      rw [hb] at buffer learnt
      exact ⟨queue, by simp at buffer ⊢; omega, fun k => absurd (learnt k) (by simp), begun, held⟩
    · next hb =>
      simp only
      split
      · exact ⟨queue, buffer, learnt, begun, held⟩
      · exact ⟨queue, buffer, learnt, begun, held⟩
  have mix : s.giveReturn.mix.outClips = s.mix.outClips ∧ s.giveReturn.mix.sendClips = s.mix.sendClips := by
    rcases s.giveReturn_cases with ⟨-, e, -⟩ | ⟨b, rest, -, e, -⟩ <;> rw [e] <;> exact ⟨rfl, rfl⟩
  have rest := s.giveReturn_keeps
  have cal : s.giveReturn.cal = s.cal := rest .cal (by decide)
  exact ⟨link, fun h => h.of_eq (rest .mgmt (by decide)), fun h => h.of_eq (rest .clock (by decide)), fun h => h.of_eq mix.1 mix.2,
    fun h => h.of_eq (by rw [cal]) (by rw [cal]) (rest .store (by decide))⟩

/-- An AUDIO_OUT frame goes on the line, or follows the frame that is being sent (09 R170). -/
theorem State.sendCycle_safe (t : State) : s.Safe (s.sendCycle t) := by
  have rest := s.sendCycle_keeps t
  have cal : (s.sendCycle t).cal = s.cal := rest .cal (by decide)
  refine ⟨fun h => ?_, fun h => h.of_eq (rest .mgmt (by decide)), fun h => h.of_eq (rest .clock (by decide)), fun h => ?_,
    fun h => h.of_eq (by rw [cal]) (by rw [cal]) (rest .store (by decide))⟩
  · have sent : ∀ f n, ({ s with link := s.link.sendCycle f n } : State).LinkOk := fun f n => by
      unfold State.LinkOk at h ⊢
      obtain ⟨queue, buffer, learnt, begun, held⟩ := h
      unfold Link.sendCycle Link.sendAudio
      cases f with
      | none => exact ⟨queue, buffer, learnt, begun, held⟩
      | some f =>
        simp only
        split
        · next hb => exact ⟨queue, buffer, learnt, begun, fun k => by rw [hb] at k; cases k⟩
        · exact ⟨queue, buffer, learnt, begun, held⟩
    obtain ⟨f, n, link⟩ : ∃ f n, (s.sendCycle t).link = s.link.sendCycle f n := ⟨_, _, by simp only [State.sendCycle]; rfl⟩
    exact (sent f n).of_eq link
  · obtain ⟨send, out⟩ := h
    have outClips : (s.sendCycle t).mix.outClips =
        mapAll s.mix.outClips fun i n => if s.speakerOn (s.phys i) then satAdd n (t.feedClips i) else n := by simp only [State.sendCycle]
    refine ⟨?_, fun i => ?_⟩
    · obtain ⟨c, _, clips⟩ : ∃ (c : Prop) (_ : Decidable c), (s.sendCycle t).mix.sendClips =
          if c then satAdd s.mix.sendClips t.sendClipCount else s.mix.sendClips := ⟨_, _, by simp only [State.sendCycle]; rfl⟩
      rw [clips]
      split
      · exact Nat.min_le_left _ _
      · exact send
    · rw [outClips, mapAll_get]
      split
      · exact Nat.min_le_left _ _
      · exact out i

theorem State.beginCycle_safe (t : State) : s.Safe (s.beginCycle t) := by
  have latched : ∀ u : State, u.Safe u.latchFacts := fun u => by
    have rest := u.latchFacts_keeps
    have cal : u.latchFacts.cal = u.cal := rest .cal (by decide)
    exact ⟨fun h => h.of_keeps rest (by decide), fun h => h.of_eq (rest .mgmt (by decide)), fun h => h.of_eq (rest .clock (by decide)),
      fun h => h.of_eq rfl rfl, fun h => h.of_eq (by rw [cal]) (by rw [cal]) (rest .store (by decide))⟩
  have begun := (s.setWing_safe .a WingPort.beginCycle).trans (State.setWing_safe _ .b WingPort.beginCycle)
  have settled := ((begun.trans (latched _)).trans (State.giveReturn_safe _)).trans (.of_keeps (State.settleTransfers_keeps _) (by decide))
  exact (settled.trans (State.sendCycle_safe _ t)).trans (.of_keeps (State.clearSlots_keeps _) (by decide))

/-! ## A restart, power and the clock -/

theorem Calendar.dropSession_eq (c : Calendar) : (c.session.isActive = true ∧ c.dropSession.bookings = c.bookings.filter (fun b => !b.active) ∧
    c.dropSession.session = .vacant) ∨ c.dropSession = c := by
  unfold Calendar.dropSession
  split
  · next h => exact .inl ⟨h, rfl, rfl⟩
  · exact .inr rfl

theorem State.restartCleared_calendar : s.restartCleared.cal = { s.cal.dropSession with stepPending := false } := by
  simp only [State.restartCleared, State.dropSession, State.endOfSessionWork]

theorem State.restartCleared_safe : s.Safe s.restartCleared := by
  have rest := s.restartCleared_keeps
  have cal := s.restartCleared_calendar
  have images : s.restartCleared.store.images = s.store.images := by
    simp only [State.restartCleared, State.dropSession, State.endOfSessionWork, Store.images]
  refine ⟨fun h => ?_, fun h => ?_, fun h => h.of_eq (rest .clock (by decide)), fun _ => ?_, fun h => ?_⟩
  · obtain ⟨queue, -, -, begun, held⟩ := h
    have link : s.restartCleared.link = { s.link.unlearn with counters := LinkCounters.zero } := by
      simp only [State.restartCleared, State.dropSession, State.endOfSessionWork]
    unfold State.LinkOk
    rw [link]
    exact ⟨queue, by simp [Link.unlearn], fun _ => rfl, begun, held⟩
  · unfold State.MgmtOk at h ⊢
    simpa only [State.restartCleared, State.dropSession, State.endOfSessionWork] using h
  · unfold State.ClipsOk
    simp [State.restartCleared, State.dropSession, State.endOfSessionWork]
  · have table : ({ s with cal := { s.cal.dropSession with stepPending := false } } : State).TableOk := by
      rcases s.cal.dropSession_eq with ⟨-, bookings, session⟩ | e
      · exact h.ended rfl bookings (by simp [session, Session.isActive])
      · exact h.of_eq (by rw [e]) (by rw [e]) rfl
    obtain ⟨bookings, active, stored⟩ := table
    exact ⟨by rwa [cal], by rwa [cal], by rwa [images]⟩

theorem State.warmRestart_safe : s.Safe s.warmRestart := by
  have head : s.restartCleared.Safe s.restartHead := by
    unfold State.restartHead
    split
    · exact State.leaveHead_safe _
    · exact .refl _
  rw [s.warmRestart_eq]
  exact (((s.restartCleared_safe.trans head).trans ((State.refreshScreens_safe _).trans ((State.startPass_safe _ .a).trans
    (State.startPass_safe _ .b)))).trans (State.evaluate_safe _)).trans (State.refreshScreens_safe _)

theorem State.takeRestart_safe : s.Safe s.takeRestart := by
  rcases s.takeRestart_cases with ⟨-, e⟩ | ⟨-, e⟩ <;> rw [e]
  · exact .refl s
  · exact s.warmRestart_safe

theorem State.cycle_safe : s.Safe s.cycle :=
  (((s.takeRestart_safe.trans (State.endCycle_safe _)).trans (State.boundary_safe _)).trans (State.beginCycle_safe _ _)).trans
    (State.refreshScreens_safe _)

/-- Power-on values, with a stored table in its shape and images among those of the store. -/
theorem State.fromImage_safe {t : State} {img : Image} {found : Bool} (hl : t.link = Link.powerOn img.groups img.noticeDest img.audioDest)
    (hm : t.mgmt = Mgmt.powerOn) (hk : t.clock = Clock.powerOn) (hx : t.mix = MixBlock.powerOn img.mix)
    (hc : t.cal = Calendar.powerOn img.bookings img.rosters) (hs : t.store = Store.powerOn s.store.areaA s.store.areaB found)
    (hi : img ∈ s.store.images ∨ img.bookings = []) : s.Safe t := by
  refine ⟨fun _ => ?_, fun _ => ?_, fun _ => ?_, fun _ => ?_, fun h => ?_⟩
  · unfold State.LinkOk
    rw [hl]
    simp [Link.powerOn]
  · unfold State.MgmtOk
    rw [hm]
    simp [Mgmt.powerOn]
  · unfold State.ClockOk
    rw [hk]
    simp [Clock.powerOn, RoomTime.zero, minutes]
  · unfold State.ClipsOk
    rw [hx]
    simp [MixBlock.powerOn]
  · obtain ⟨-, -, images⟩ := h
    have table : bookingsOk img.bookings ∧ ∀ b ∈ img.bookings, b.active = false := by
      rcases hi with hi | hi
      · exact images img hi
      · rw [hi]
        exact ⟨⟨by simp, by simp, by simp, by simp⟩, by simp⟩
    refine ⟨by rw [hc]; exact table.1, ?_, fun i hi => images i ?_⟩
    · rw [hc]
      refine iff_of_false (by simp [Calendar.powerOn, Session.isActive]) ?_
      rintro ⟨b, hb, ha⟩
      rw [table.2 b hb] at ha
      cases ha
    · rw [hs] at hi
      simp only [Store.images, Store.powerOn, List.mem_append] at hi ⊢
      exact .inl (by simpa using hi)

theorem Store.restored_mem (st : Store) : st.restored ∈ st.images ∨ st.restored.bookings = [] := by
  unfold Store.restored
  cases hc : st.currentImage with
  | none => exact .inr rfl
  | some i =>
    refine .inl ?_
    unfold Store.currentImage at hc
    obtain ⟨area, -, ha⟩ := Option.bind_eq_some_iff.1 hc
    cases area <;> simp_all [Store.area, Store.images]

theorem State.powerOn_safe (carrierA carrierB : Bool) : s.Safe (s.powerOn carrierA carrierB) := by
  rw [s.powerOn_eq]
  exact s.fromImage_safe rfl rfl rfl rfl rfl rfl s.store.restored_mem

theorem State.powerLoss_safe : s.Safe s.powerLoss := s.fromImage_safe (img := Image.factory) rfl rfl rfl rfl rfl rfl (.inr rfl)

/-- A save moves images within the store. -/
theorem State.TableOk.of_images {s t : State} (h : s.TableOk) (hc : t.cal = s.cal)
    (hi : ∀ i ∈ t.store.images, i ∈ s.store.images ∨ (bookingsOk i.bookings ∧ ∀ b ∈ i.bookings, b.active = false)) : t.TableOk := by
  obtain ⟨bookings, active, images⟩ := h
  refine ⟨by rwa [hc], by rwa [hc], fun i mem => ?_⟩
  rcases hi i mem with k | k
  · exact images i k
  · exact k

theorem State.saveComplete_safe (success : Bool) : s.Safe (s.saveComplete success) := by
  have stored : ∀ st : Store, (∀ i ∈ st.images, i ∈ s.store.images) → s.Safe { s with store := st } := fun st hi =>
    ⟨id, id, id, id, fun h => h.of_images rfl fun i mem => .inl (hi i mem)⟩
  have moved (w : Writing) (hw : s.store.writing = some w) {i : Image} :
      i = w.snapshot ∨ some i = s.store.areaA ∨ some i = s.store.areaB → i ∈ s.store.images := by
    simp only [Store.images, hw]
    rintro (h | h | h) <;> simp [← h]
  unfold State.saveComplete
  split
  · exact .refl s
  · next w hw =>
    split
    · refine State.Safe.trans (stored _ fun i hi => moved w hw ?_) (State.notice_safe _ _ _)
      cases ha : w.area <;> simp [Store.images, Store.setArea, ha, eq_comm] at hi ⊢ <;> tauto
    · refine State.Safe.trans (stored _ fun i hi => moved w hw ?_) (State.notice_safe _ _ _)
      simp [Store.images, eq_comm] at hi ⊢
      tauto

theorem State.moveAdhoc_safe (old : Nat) : s.Safe (s.moveAdhoc old) := by
  cases hb : s.activeBooking with
  | none =>
    rw [State.moveAdhoc_none hb]
    exact .refl s
  | some b =>
    have missed := s.removeMissed_safe
    have table : s.TableOk → (s.moveAdhoc old).TableOk := fun h => h.moved old
    rw [State.moveAdhoc_some hb] at table ⊢
    exact ⟨missed.link, missed.mgmt, missed.clock, missed.clips, table⟩

theorem State.takeTime_safe (t : RoomTime) (hm : t.minute < minutes) (hs : t.second ≤ 59) (ht : t.tenth ≤ 9) : s.Safe (s.takeTime t) := by
  have set : s.Safe { s with clock := { now := t, cycles := 0, sync := .synced, age := 0 } } :=
    s.setClock_safe fun _ => ⟨hm, hs, ht, by simp, by simp⟩
  unfold State.takeTime
  simp only
  split
  · exact ⟨set.link, set.mgmt, set.clock, set.clips, fun h => h.of_eq rfl rfl rfl⟩
  · refine State.Safe.trans ?_ (State.evaluate_safe _)
    split
    · exact set.trans (State.moveAdhoc_safe _ _)
    · exact set

end Begin

/-! ## The chain ports and the room link -/

section Ports
variable (s : State)

theorem State.carrierLoss_safe (w : Wing) : s.Safe (s.carrierLoss w) :=
  (State.Safe.of_keeps (s.carrierDropped_keeps w) (by decide)).trans (.foldl (s := s.carrierDropped w) (f := State.lossNotice) State.lossNotice_safe _)

theorem State.upstreamSlot_safe (p : Pos) (raw : List Byte) : s.Safe (s.upstreamSlot p raw) := by
  have reported : ∀ (u : State) d, u.Safe (u.chunkReport p d) := fun u d => .of_keeps (u.chunkReport_keeps p d) (by decide)
  have heard : ∀ (u : State) b, u.Safe (u.levelBlock p b) := fun u b => .of_keeps (l := [.level]) (fun q hq => by
    cases q <;> simp_all [State.agrees]) (by decide)
  have bad : s.Safe (s.badSlot p) := by
    by_cases hl : s.pos[p].loss < 2
    · unfold State.badSlot
      simp only [if_pos hl]
      exact (((s.setPos_safe p _).trans (heard _ _)).trans (reported _ _)).trans (State.setPos_safe _ p _)
    · rw [s.badSlot_lost p hl]
      exact (State.Safe.of_keeps (s.slotDropped_keeps p) (by decide)).trans (State.lossNotice_safe _ p)
  unfold State.upstreamSlot
  split
  · split
    · exact (State.Safe.of_keeps (s.identify_keeps p _) (by decide)).trans (reported _ _)
    · exact reported _ _
  · split
    · split
      · exact ((s.setPos_safe p _).trans (heard _ _)).trans (reported _ _)
      · exact bad
    · exact .refl s

theorem State.wingEndMarker_safe (w : Wing) (raw : List Byte) : s.Safe (s.wingEndMarker w raw) := by
  have starts : ∀ c : Prop, ∀ _ : Decidable c, s.Safe (if c then s.startPass w else s) := fun c _ => by
    split
    · exact s.startPass_safe w
    · exact .refl s
  have marker : ∀ count, s.Safe (s.marker w count) := fun count => by
    unfold State.marker
    simp only
    split
    · exact starts _ _
    · exact starts _ _
    · exact starts _ _
    · split
      · exact .refl s
      · split
        · exact s.setWing_safe w _
        · split
          · exact .refl s
          · exact s.startPass_safe w
  unfold State.wingEndMarker
  split
  · exact marker _
  · exact .refl s

/-- A change of the link that keeps it in order. -/
theorem State.setLink_safe {l : Link} (h : s.LinkOk → ({ s with link := l } : State).LinkOk) : s.Safe { s with link := l } := ⟨h, id, id, id, id⟩

theorem State.storeInvalidNotice_safe : s.Safe s.storeInvalidNotice := by
  unfold State.storeInvalidNotice
  split
  · exact State.Safe.trans (t := { s with store := { s.store with storeInvalid := false } })
      ⟨id, id, id, id, fun h => h.of_images rfl fun i hi => .inl hi⟩ (State.notice_safe _ _ _)
  · exact .refl s

theorem State.linkUp_safe : s.Safe s.linkUp := by
  unfold State.linkUp
  split
  · exact .refl s
  · refine State.Safe.trans (s.setLink_safe fun h => ?_) (State.storeInvalidNotice_safe _)
    obtain ⟨queue, buffer, learnt, begun, held⟩ := h
    exact ⟨queue, buffer, learnt, fun hb => ⟨rfl, (begun hb).2⟩, held⟩

theorem State.linkDown_safe : s.Safe s.linkDown := by
  unfold State.linkDown
  split
  · refine s.setLink_safe fun h => ?_
    obtain ⟨queue, -⟩ := h
    exact ⟨queue, by simp [Link.unlearn], fun _ => rfl, by simp, fun _ => rfl⟩
  · exact .refl s

/-- A block joins the return buffer, which holds two at most (09 R167). -/
theorem State.audioIn_safe (k : Nat) (b : Block) : s.Safe { s with link := s.link.audioIn k b } := s.setLink_safe fun h => by
  obtain ⟨queue, buffer, -, begun, held⟩ := id h
  have joined : ∀ l : Link, l.learnt = true → l.buffer = s.link.buffer → l.queue = s.link.queue → l.begun = s.link.begun →
      l.up = s.link.up → l.held = s.link.held → ({ s with link := l.join b } : State).LinkOk := by
    intro l hl hb hq hg hu hh
    unfold State.LinkOk Link.join
    rw [← hb] at buffer
    rw [← hq] at queue begun
    rw [← hg] at begun held
    rw [← hu] at begun
    rw [← hh] at held
    have never (k : l.learnt = false) {P : Prop} : P := absurd (hl.symm.trans k) (by simp)
    split
    · exact ⟨queue, by simp; omega, fun k => never k, begun, held⟩
    · exact ⟨queue, by simp; omega, fun k => never k, begun, held⟩
  unfold Link.audioIn
  simp only
  split
  · exact joined _ rfl rfl rfl rfl rfl rfl
  · split
    · exact joined _ rfl rfl rfl rfl rfl rfl
    · split
      · exact joined _ rfl rfl rfl rfl rfl rfl
      · exact h

theorem State.fillPlace_safe (hq : s.LinkOk → s.link.queue.length < 8) : s.Safe s.fillPlace := by
  unfold State.fillPlace
  split
  · exact s.admitReply_safe hq
  · split
    · next e he =>
      have turn : s.Safe { s with link := { s.link with lastAdmitted := e } } := s.setLink_safe id
      exact turn.trans (State.admitScreen_safe _ e fun h => hq h)
    · exact .refl s

theorem State.fillPlace_keeps : s.keeps s.fillPlace [.mgmt, .screens, .sending] := by
  unfold State.fillPlace
  split
  · exact State.keeps_mono s.admitReply_keeps (by decide)
  · split
    · next e _ =>
      exact State.keeps_trans (t := { s with link := { s.link with lastAdmitted := e } }) (fun p hp => by
        cases p <;> simp_all [State.agrees]) (State.keeps_mono (State.admitScreen_keeps _ e) (by decide))
    · exact State.keeps_refl s _

/-- The place of the frame that has been sent is filled, whatever stood behind it. -/
theorem State.headSent_safe : s.Safe ({ s with link := s.link.headSent }).fillPlace := by
  have rest := State.fillPlace_keeps { s with link := s.link.headSent }
  obtain ⟨outClips, sendClips, -⟩ : State.agrees { s with link := s.link.headSent } _ .mixCycle := rest _ (by decide)
  have cal : ({ s with link := s.link.headSent }).fillPlace.cal = s.cal := rest .cal (by decide)
  refine ⟨fun h => ?_, fun h => ?_, fun h => h.of_eq (rest .clock (by decide)), fun h => h.of_eq outClips sendClips,
    fun h => h.of_eq (by rw [cal]) (by rw [cal]) (rest .store (by decide))⟩
  · obtain ⟨queue, buffer, learnt, -, -⟩ := h
    refine (State.fillPlace_safe { s with link := s.link.headSent } fun _ => ?_).link ⟨?_, buffer, learnt, by simp [Link.headSent], fun _ => rfl⟩
    all_goals
      simp only [Link.headSent, List.length_tail]
      omega
  · unfold State.fillPlace
    split
    · unfold State.admitReply
      split
      · exact h
      · next f _ => exact (State.leaveHead_safe _).mgmt h
    · split
      · next e _ => exact MgmtOk.of_eq (s := s) h (State.admitScreen_keeps _ e .mgmt (by decide))
      · exact h

theorem State.frameSent_safe : s.Safe s.frameSent := by
  unfold State.frameSent
  split
  · have started := s.takeRestart_safe.trans (State.startSending_safe _)
    simp only
    generalize s.takeRestart.startSending = u at started
    have counted : u.Safe u.countHeld := by
      unfold State.countHeld
      split
      · exact .refl u
      · refine ⟨id, id, id, fun h => ?_, id⟩
        obtain ⟨-, out⟩ := h
        exact ⟨by simp [satAdd], out⟩
    refine (started.trans counted).trans ?_
    exact State.headSent_safe _
  · exact .refl s

end Ports

end Sys2Proof.Machine

namespace Sys2Proof.Machine

/-! ## The owners of the operations -/

section Owners
variable {s : State}

theorem done_safe {t : State} (h : s.Safe t) (clamped : Bool) : s.Safe (done t clamped).state := h

theorem takeValues_safe {o : Object} {index fld : Nat} {vals : List Byte} {owner : List Value → OpResult}
    (ho : ∀ vs, s.Safe (owner vs).state) : s.Safe (takeValues o index fld vals s owner).state := by
  unfold takeValues
  split
  · exact .refl s
  · split
    · split
      · exact .refl s
      · exact ho _
    · exact .refl s

theorem accept_safe {σ : Type} {r : Stored σ} {effects : σ → State} (he : ∀ x c, r = .ok (x, c) → s.Safe (effects x)) :
    s.Safe (accept s r effects).state := by
  unfold accept
  split
  · exact .refl s
  · exact he _ _ rfl

/-- What is stored one value at a time, each storing keeping the part in order. -/
theorem storeAll_safe {σ : Type} {put : σ → State} {f : σ → Value → Stored σ} {x y : σ} {vs : List Value} {c : Bool}
    (hf : ∀ x v y c, f x v = .ok (y, c) → (put x).Safe (put y)) (h : storeAll f x vs = .ok (y, c)) : (put x).Safe (put y) :=
  storeAll_invariant (P := fun y => (put x).Safe (put y)) (fun _ _ _ _ hx hy => hx.trans (hf _ _ _ _ hy)) vs (.refl _) h

variable (s)

/-- What a write of an address stores in the link leaves its queue, its return buffer and its state as they were. -/
theorem State.address_safe {l k : Link} (h : k.queue = l.queue ∧ k.buffer = l.buffer ∧ k.learnt = l.learnt ∧ k.begun = l.begun ∧
    k.up = l.up ∧ k.held = l.held) : State.Safe { s with link := l } { s with link := k } := by
  obtain ⟨queue, buffer, learnt, begun, up, held⟩ := h
  refine ⟨fun h => ?_, id, id, id, id⟩
  unfold State.LinkOk at h ⊢
  simpa only [queue, buffer, learnt, begun, up, held] using h

theorem State.writeStation_safe (index fld : Nat) (vals : List Byte) : s.Safe (s.writeStation index fld vals).state :=
  takeValues_safe fun _ => accept_safe fun _ _ => storeAll_safe (put := fun l => { s with link := l }) fun l v k c h => by
    unfold Link.storeStation at h
    simp only at h
    split at h
    · cases h
    · obtain ⟨rfl, -⟩ := Prod.mk.inj (Except.ok.inj h)
      exact s.address_safe ⟨rfl, rfl, rfl, rfl, rfl, rfl⟩

theorem State.writeGroups_safe (index fld : Nat) (vals : List Byte) : s.Safe (s.writeGroups index fld vals).state :=
  takeValues_safe fun _ => accept_safe fun _ _ => storeAll_safe (put := fun l => { s with link := l }) fun l v k c h => by
    unfold Link.storeGroup at h
    split at h
    · split at h
      · cases h
      · obtain ⟨rfl, -⟩ := Prod.mk.inj (Except.ok.inj h)
        exact s.address_safe ⟨rfl, rfl, rfl, rfl, rfl, rfl⟩
    · obtain ⟨rfl, -⟩ := Prod.mk.inj (Except.ok.inj h)
      exact s.address_safe ⟨rfl, rfl, rfl, rfl, rfl, rfl⟩

theorem State.writeDestinations_safe (index fld : Nat) (vals : List Byte) : s.Safe (s.writeDestinations index fld vals).state :=
  takeValues_safe fun _ => accept_safe fun l _ stored => by
    have set : s.Safe { s with link := l } := storeAll_safe (put := fun l => { s with link := l }) (fun l v k c h => by
      obtain ⟨rfl, -⟩ := Prod.mk.inj (Except.ok.inj h)
      refine s.address_safe ?_
      split <;> exact ⟨rfl, rfl, rfl, rfl, rfl, rfl⟩) stored
    exact set.trans (State.storeInvalidNotice_safe _)

theorem State.configEffects_safe (vs : List Value) : s.Safe (s.configEffects vs) := by
  have led : s.Safe (if wroteField vs 0 then s.evaluate else s) := by
    split
    · exact s.evaluate_safe
    · exact .refl s
  have checked : ∀ u : State, u.Safe (if wroteField vs 1 ∧ s.cfg.autoAdvance then u.autoAdvance else u) := fun u => by
    split
    · exact u.autoAdvance_safe
    · exact .refl u
  unfold State.configEffects
  simp only
  split
  · exact (led.trans (checked _)).trans (.foldl State.evaluateLimit_safe _ _)
  · exact led.trans (checked _)

theorem State.writeConfig_safe (index fld : Nat) (vals : List Byte) : s.Safe (s.writeConfig index fld vals).state :=
  takeValues_safe fun vs => by
    split
    · exact .refl s
    · next c _ _ =>
      have set : s.Safe { s with cfg := (c.settle vs).1 } := ⟨id, id, id, id, id⟩
      exact set.trans (State.configEffects_safe _ vs)

theorem State.writeBookings_safe (index fld : Nat) (vals : List Byte) : s.Safe (s.writeBookings index fld vals).state :=
  takeValues_safe fun vs => accept_safe fun bs _ stored => by
    have shape : keepsShape s.cal.bookings bs := storeAll_invariant (P := keepsShape s.cal.bookings)
      (fun _ _ _ _ hx hy => hx.trans (storeBooking_shape hy)) vs (.refl _) stored
    refine State.Safe.trans (t := { s with cal := { s.cal with bookings := bs } }) ⟨id, id, id, id, fun h => ?_⟩ (State.evaluate_safe _)
    obtain ⟨bookings, active, images⟩ := h
    exact ⟨(shape bookings).1, active.trans (shape bookings).2.symm, images⟩

theorem State.writeRosters_safe (index fld : Nat) (vals : List Byte) : s.Safe (s.writeRosters index fld vals).state :=
  takeValues_safe fun _ => accept_safe fun _ _ _ => ⟨id, id, id, id, fun h => h.of_eq rfl rfl rfl⟩

theorem State.writeTemplates_safe (index fld : Nat) (vals : List Byte) : s.Safe (s.writeTemplates index fld vals).state :=
  takeValues_safe fun _ => accept_safe fun _ _ _ => ⟨id, id, id, id, id⟩

theorem State.writeRoomScreens_safe (index fld : Nat) (vals : List Byte) : s.Safe (s.writeRoomScreens index fld vals).state :=
  takeValues_safe fun _ => accept_safe fun t _ _ =>
    State.Safe.trans (t := { s with disp := { s.disp with screens := t } }) ⟨id, id, id, id, id⟩ (State.refreshScreens_safe _)

theorem State.setRec_safe (p : Pos) (f : SeatRec → SeatRec) : s.Safe (s.setRec p f) := .of_keeps (s.setRec_keeps p f) (by decide)

theorem State.storeSeat_safe (v : Value) : s.Safe (s.storeSeat v) := by
  unfold State.storeSeat
  split
  · exact s.setRec_safe _ _
  · exact ⟨id, id, id, id, id⟩

theorem State.seatEffect_safe (before : State) (v : Value) : s.Safe (State.seatEffect before s v) := by
  unfold State.seatEffect
  split
  · exact (s.classChange_safe _ _).trans (State.permissionChange_safe _ _ _)
  · exact s.evaluateLimit_safe _
  · exact .refl s

theorem State.writeSeats_safe (index fld : Nat) (vals : List Byte) : s.Safe (s.writeSeats index fld vals).state :=
  takeValues_safe fun vs => by
    split
    · exact .refl s
    · split
      · exact .refl s
      · exact State.Safe.trans (.foldl State.storeSeat_safe vs s) (.foldl (fun u v => u.seatEffect_safe s v) vs _)

theorem State.setMode_safe (m : Mode) : s.Safe (s.setMode m) := by
  unfold State.setMode
  split
  · exact .refl s
  · simp only
    refine State.Safe.trans ?_ (State.autoAdvance_safe _)
    split
    · exact (s.setFloor_safe _).trans (State.clearQueue_safe _ _)
    · exact s.setFloor_safe _

theorem State.setMaxOpen_safe (n : Nat) : s.Safe (s.setMaxOpen n) :=
  ((s.setFloor_safe _).trans (State.reduceOpen_safe _)).trans (State.autoAdvance_safe _)

theorem State.storeFloor_safe (v : Value) {t : State} {c : Bool} (h : s.storeFloor v = .ok (t, c)) : s.Safe t := by
  unfold State.storeFloor at h
  simp only at h
  split at h
  · split at h
    · obtain ⟨rfl, -⟩ := Prod.mk.inj (Except.ok.inj h)
      exact s.setMode_safe _
    · cases h
  · obtain ⟨rfl, -⟩ := Prod.mk.inj (Except.ok.inj h)
    exact s.setMaxOpen_safe _

theorem State.writeFloor_safe (index fld : Nat) (vals : List Byte) : s.Safe (s.writeFloor index fld vals).state :=
  takeValues_safe fun _ => accept_safe fun _ _ => storeAll_safe (put := id) fun x v _ _ h => x.storeFloor_safe v h

theorem State.gainMark_safe (v : Value) : s.Safe (s.gainMark v) := by
  unfold State.gainMark
  split
  · split
    · exact s.setRec_safe _ _
    · exact .refl s
  · exact .refl s

theorem State.writeMixStaged_safe (index fld : Nat) (vals : List Byte) : s.Safe (s.writeMixStaged index fld vals).state :=
  takeValues_safe fun vs => accept_safe fun t _ _ => by
    have set : s.Safe { s with mix := { s.mix with staged := t, pending := true } } := ⟨id, id, id, id, id⟩
    exact (set.trans (State.marks_safe _ rfl rfl)).trans (.foldl State.gainMark_safe vs _)

theorem State.writeObject_safe (o : Object) (index fld : Nat) (vals : List Byte) : s.Safe (s.writeObject o index fld vals).state := by
  cases o with
  | station => exact s.writeStation_safe index fld vals
  | groups => exact s.writeGroups_safe index fld vals
  | destinations => exact s.writeDestinations_safe index fld vals
  | config => exact s.writeConfig_safe index fld vals
  | bookings => exact s.writeBookings_safe index fld vals
  | rosters => exact s.writeRosters_safe index fld vals
  | templates => exact s.writeTemplates_safe index fld vals
  | roomScreens => exact s.writeRoomScreens_safe index fld vals
  | seats => exact s.writeSeats_safe index fld vals
  | mixStaged => exact s.writeMixStaged_safe index fld vals
  | floor => exact s.writeFloor_safe index fld vals
  | _ => exact takeValues_safe fun _ => .refl s

theorem State.writeByCode_safe (obj : Byte) (index : BitVec 16) (fld : Byte) (vals : List Byte) :
    s.Safe (s.writeByCode obj index fld vals).state := by
  unfold State.writeByCode
  split
  · exact s.writeObject_safe _ _ _ _
  · exact .refl s

theorem State.flagOwner_safe (k : FlagOp) (obj : Byte) (index : BitVec 16) (fld : Byte) (mask : BitVec 16) :
    s.Safe (s.flagOwner k obj index fld mask).state := by
  unfold State.flagOwner
  split
  · exact .refl s
  · split
    · exact .refl s
    · split
      · exact .refl s
      · split
        · exact .refl s
        · exact s.writeObject_safe _ _ _ _

theorem State.readOwner_safe (obj : Byte) (first count : BitVec 16) : s.Safe (s.readOwner obj first count).state := by
  unfold State.readOwner
  split
  · exact .refl s
  · simp only
    split
    · exact .refl s
    · exact .refl s

/-- The level state is none of the five. -/
theorem State.setLevel_safe (v : Vector LevelRec 64) : s.Safe { s with level := v } := ⟨id, id, id, id, id⟩

theorem State.clearPart_safe (n : Nat) : s.Safe (s.clearPart n) := by
  unfold State.clearPart
  split
  · exact s.address_safe ⟨rfl, rfl, rfl, rfl, rfl, rfl⟩
  · exact ⟨id, id, id, fun _ => ⟨by simp, fun i => by simp⟩, id⟩
  · exact s.setLevel_safe _
  · exact s.marks_safe rfl rfl
  · exact .refl s

theorem State.readClearOwner_safe (obj part : Byte) : s.Safe (s.readClearOwner obj part).state := by
  unfold State.readClearOwner
  simp only
  split
  · exact .refl s
  · split
    · exact .refl s
    · split
      · exact s.clearPart_safe _
      · exact .refl s

end Owners

/-! ## The actions -/

section Actions
variable (s : State)

theorem floorAction_safe {s : State} {act : State → OpResult} (ha : s.Safe (act s).state) : s.Safe (floorAction s act).state := by
  unfold floorAction
  split
  · exact .refl s
  · split
    · exact .refl s
    · exact ha

theorem withSeat_safe {s : State} {n : Byte} {act : Seat → OpResult} (ha : ∀ i, s.Safe (act i).state) : s.Safe (withSeat s n act).state := by
  unfold withSeat
  split
  · exact ha _
  · exact .refl s

theorem State.grant_safe (seat : Seat) (force : Bool) : s.Safe (s.grant seat force).state := by
  unfold State.grant
  split
  · exact .refl s
  · split
    · exact .refl s
    · split
      · exact done_safe (s.grantSeat_safe seat _) _
      · split
        · exact done_safe (s.replaceAndGrant_safe _ seat _) _
        · exact .refl s

theorem State.grantAction_safe (seat force : Byte) : s.Safe (s.grantAction seat force).state :=
  floorAction_safe (withSeat_safe fun i => by
    split
    · exact .refl s
    · exact s.grant_safe i _)

theorem State.revokeAction_safe (seat : Byte) : s.Safe (s.revokeAction seat).state :=
  floorAction_safe (withSeat_safe fun i => by
    split
    · exact done_safe (s.removeThenAdvance_safe i .revoked) _
    · split
      · exact done_safe (s.withdraw_safe i .revoked) _
      · exact .refl s)

theorem State.closeAllAction_safe : s.Safe s.closeAllAction.state :=
  floorAction_safe (.foldl (fun u (e : OpenEntry) => u.removeThenAdvance_safe e.seat .revoked) s.floor.openList s)

theorem State.nextAction_safe : s.Safe s.nextAction.state :=
  floorAction_safe (by
    split
    · exact .refl s
    · split
      · exact .refl s
      · split
        · exact done_safe ((s.grantSeat_safe _ _).trans (State.autoAdvance_safe _)) _
        · exact .refl s)

theorem State.placeAt_safe (seat : Seat) (p : Nat) : s.Safe (s.placeAt seat p) := by
  unfold State.placeAt
  simp only
  exact ((s.setFloor_safe _).trans (State.setMic_safe _ seat _)).trans (State.floorChange_safe _ _ _ _ _ _)

theorem State.queuePlaceAction_safe (seat position : Byte) : s.Safe (s.queuePlaceAction seat position).state :=
  floorAction_safe (withSeat_safe fun i => by
    split
    · exact .refl s
    · split
      · exact .refl s
      · exact done_safe ((s.placeAt_safe i _).trans (State.autoAdvance_safe _)) _)

theorem adhocBooking_ok (now duration : Nat) (key : Key) (chair : Pos) (mode : Mode) (maxOpen : Nat) :
    (adhocBooking now duration key chair mode (clampTo 1 6 maxOpen)).ok := by
  unfold Booking.ok
  simp only [adhocBooking, clampTo, Bool.true_eq_false, false_implies, and_true]
  omega

/-- The session of an ad hoc booking starts. -/
theorem State.adhocStarted_safe {b : Booking} (ht : s.TableOk → ((s.adhocPlaced b).startSession b).TableOk) :
    s.Safe ((s.adhocPlaced b).startSession b) where
  link h := by
    unfold State.startSession
    exact (State.notice_safe _ _ _).link (h.of_eq (by simp [State.adhocPlaced]))
  mgmt h := h.of_eq (by simp [State.adhocPlaced])
  clock h := h.of_eq (by simp [State.adhocPlaced])
  clips h := h.of_eq (by rw [State.startSession_clips]; rfl) (by rw [State.startSession_clips]; rfl)
  table := ht

theorem State.openAdhocAction_safe (duration : BitVec 16) (key chair mode maxOpen : Byte) :
    s.Safe (s.openAdhocAction duration key chair mode maxOpen).state := by
  unfold State.openAdhocAction
  split
  · exact .refl s
  · exact .refl s
  · exact .refl s
  · exact .refl s
  · next hv =>
    split
    · next k c m _ _ _ =>
      simp only
      split
      · exact .refl s
      · next hl =>
        split
        · exact .refl s
        · next hp =>
          exact done_safe ((s.adhocStarted_safe fun h => h.adhoc (by simp [hv, Session.isActive]) (by omega) rfl rfl
            (adhocBooking_ok _ _ _ _ _ _) (by simpa [adhocBooking] using hp)).trans (State.evaluate_safe _)) _
    · exact .refl s

theorem State.extendAction_safe (minutes : Byte) : s.Safe (s.extendAction minutes).state := by
  have grown : ∀ b, s.activeBooking = some b → ∀ n, 0 < n → s.passesNext (b.finish + n) = false →
      s.Safe (s.lengthen n).evaluate := fun b hb n h0 hp =>
    State.Safe.trans (t := s.lengthen n) ⟨id, id, id, id, fun h => h.lengthened hb h0 hp⟩ (State.evaluate_safe _)
  have extended : s.Safe (match s.activeBooking with
      | none => fail s .noSession
      | some b =>
        let m := clampTo 1 120 minutes.toNat
        let e := min m (1440 - b.duration)
        if e = 0 then done s true
        else if s.passesNext (b.finish + e) then fail s .overlap
        else done ((s.lengthen e).evaluate) (m != minutes.toNat || e != m) : OpResult).state := by
    split
    · exact .refl s
    · next b hb =>
      simp only
      split
      · exact .refl s
      · next h0 =>
        split
        · exact .refl s
        · next hp => exact done_safe (grown b hb _ (Nat.pos_of_ne_zero h0) (by simpa using hp)) _
  unfold State.extendAction
  split
  · exact .refl s
  · exact .refl s
  · exact .refl s
  · exact extended
  · exact extended

theorem State.endSessionAction_safe : s.Safe s.endSessionAction.state := by
  unfold State.endSessionAction
  split
  · next hr => exact done_safe (s.startClosing_safe .endSession (Session.runs_isActive hr)) _
  · exact .refl s

theorem State.sendMessageAction_safe (target : Byte) (txt : List Byte) : s.Safe (s.sendMessageAction target txt).state := by
  have given : ∀ d, s.Safe { s with disp := d } := fun _ => ⟨id, id, id, id, id⟩
  unfold State.sendMessageAction
  simp only
  split
  · exact done_safe (given _) _
  · split
    · exact .refl s
    · split
      · exact done_safe (given _) _
      · exact .refl s

theorem State.discardAction_safe : s.Safe s.discardAction.state := by
  have discarded : s.Safe { s with mix := s.mix.discard } := ⟨id, id, id, id, id⟩
  have marked : ∀ u : State, u.Safe (u.markStaged false) := fun u => u.marks_safe rfl rfl
  exact done_safe (discarded.trans (marked _)) _

/-- What a save writes has the WAITING records of the table. -/
theorem State.TableOk.snapshot {s : State} (h : s.TableOk) :
    bookingsOk s.snapshot.bookings ∧ ∀ b ∈ s.snapshot.bookings, b.active = false :=
  ⟨h.1.sublist List.filter_sublist, fun b hb => by simpa [State.snapshot, waitingOf] using (List.mem_filter.1 hb).2⟩

theorem State.saveAction_safe : s.Safe s.saveAction.state := by
  unfold State.saveAction
  split
  · exact .refl s
  · refine ⟨id, id, id, id, fun h => h.of_images rfl fun i hi => ?_⟩
    have shape := h.snapshot
    cases ht : s.store.target <;>
      simp [done, Store.images, Store.beginSave, Store.setArea, ht] at hi ⊢ <;>
      rcases hi with hi | rfl <;> tauto

theorem State.enumerateAction_safe (wing : Byte) : s.Safe (s.enumerateAction wing).state := by
  unfold State.enumerateAction
  split
  · exact done_safe (s.startPass_safe .a) _
  · exact done_safe (s.startPass_safe .b) _
  · exact .refl s

theorem State.halt_safe : s.Safe s.halt := by
  have emptied : s.Safe s.haltEmptied :=
    State.Safe.trans (t := { s with store := { s.store with halted := true } })
      ⟨id, id, id, id, fun h => h.of_images rfl fun _ hi => .inl hi⟩
      (.foldl (fun u (e : OpenEntry) => u.removeEntry_safe e.seat .halted) s.floor.openList _)
  have closed : s.haltEmptied.Safe s.haltClosed := .of_keeps (s.haltEmptied.closeMics_keeps (numbers 64)) (by decide)
  rw [s.halt_eq]
  exact (((emptied.trans closed).trans (State.reportClosed_safe _)).trans (State.clearQueue_safe _ .halted)).trans
    (.of_keeps (State.transfersDropped_keeps _) (by decide))

theorem State.haltAction_safe : s.Safe s.haltAction.state := by
  unfold State.haltAction done
  simp only
  split
  · exact .refl s
  · exact s.halt_safe

theorem State.resumeAction_safe : s.Safe s.resumeAction.state := by
  unfold State.resumeAction done
  simp only
  split
  · have running : ∀ v, s.Safe { s with store := { s.store with halted := false }, level := v, link := s.link.unlearn } := fun v => by
      refine ⟨fun h => ?_, id, id, id, fun h => h.of_images rfl fun _ hi => .inl hi⟩
      obtain ⟨queue, -, -, begun, held⟩ := h
      exact ⟨queue, by simp [Link.unlearn], fun _ => rfl, begun, held⟩
    exact ((running _).trans (State.startPass_safe _ .a)).trans (State.startPass_safe _ .b)
  · exact .refl s

theorem State.unlockOwner_safe (value : Byte) : s.Safe (s.unlockOwner value).state := by
  unfold State.unlockOwner
  split
  · exact done_safe (s.marks_safe (f := fun m => { m with unlocked := true }) rfl rfl) _
  · exact .refl s

end Actions

end Sys2Proof.Machine

namespace Sys2Proof.Machine

/-! ## Every command keeps the five in order -/

/-- What a command leaves in order, from every state. -/
def KeepsSafe (f : State → Result) : Prop := ∀ s t, f s = .next t → s.Safe t

section Commands

theorem ok_safe {s t u : State} (h : s.Safe t) (hu : ok t = .next u) : s.Safe u := by
  obtain rfl := Host.Outcome.next.inj hu
  exact h.trans (State.refreshScreens_safe _ |>.trans (State.startSending_safe _))

theorem KeepsSafe.powered {f : State → State} (hf : ∀ s : State, s.Safe (f s)) : KeepsSafe fun s => whenPowered s f := fun s t ht => by
  simp only [whenPowered] at ht
  split at ht
  · exact ok_safe (hf s) ht
  · exact Host.Outcome.next.inj ht ▸ .refl s

theorem KeepsSafe.received {raw : List Byte} {f : State → Filtered → State} (hf : ∀ s : State, s.Safe (f s (s.link.filter raw))) :
    KeepsSafe fun s => whenReceived s raw f := KeepsSafe.powered fun s => by
  split
  · exact hf s
  · exact .refl s

theorem KeepsSafe.op {op : Op} {owner : State → OpResult} (ho : ∀ s : State, s.Safe (owner s).state) : KeepsSafe fun s => s.runOp op owner := by
  intro s t ht
  have performed : s.Safe (s.perform op owner).state := by
    unfold State.perform
    split
    · exact .refl s
    · split
      · exact .refl s
      · exact ho s
  simp only [State.runOp] at ht
  split at ht
  · exact Host.Outcome.next.inj ht ▸ (performed.trans (State.finishOp_safe op _)).trans (State.startSending_safe _)
  · exact Host.Outcome.next.inj ht ▸ .refl s

theorem KeepsSafe.write {code : Byte} {index : BitVec 16} {fld : Byte} {vals : List Byte}
    {owner : Nat → Nat → List Byte → State → OpResult} (ho : ∀ s : State, s.Safe (owner index.toNat fld.toNat vals s).state) :
    KeepsSafe fun s => s.runWrite code index fld vals owner := KeepsSafe.op ho

theorem KeepsSafe.action {a : Action} {args : List Byte} {owner : State → OpResult} (ho : ∀ s : State, s.Safe (owner s).state) :
    KeepsSafe fun s => s.runAction a args owner := KeepsSafe.op ho

/-- A step that is taken when it is due, and for the coming boundary. -/
theorem State.Safe.early {s t : State} (h : s.Safe t) (c : Prop) [Decidable c] (e : Early) :
    s.Safe (if c then t.takeEarly e else s) := by
  split
  · exact h.trans (.of_keeps (t.takeEarly_keeps e) (by decide))
  · exact .refl s

end Commands

/-! The frames that are received, each by its own row. -/

section Received
variable (raw : List Byte)

theorem frameDropped_safe : KeepsSafe (execFrameDropped raw) := KeepsSafe.received fun s => by
  split
  · exact s.address_safe ⟨rfl, rfl, rfl, rfl, rfl, rfl⟩
  · exact .refl s

theorem audioIn_safe : KeepsSafe (execAudioIn raw) := KeepsSafe.received fun s => by
  split
  · exact s.audioIn_safe _ _
  · exact .refl s

/-- A TIME frame that the filter lets pass carries a time within its ranges (03 R44, 09 R164). -/
theorem Link.filter_time {l : Link} {t : RoomTime} (h : l.filter raw = .time t) : t.minute < minutes ∧ t.second ≤ 59 ∧ t.tenth ≤ 9 := by
  unfold Link.filter at h
  simp only at h
  repeat' split at h
  all_goals cases h
  next bounds =>
    refine ⟨field_lt _ _ _, ?_, ?_⟩ <;> simp only [not_or, not_lt] at bounds
    · exact bounds.1
    · exact bounds.2

theorem time_safe : KeepsSafe (execTime raw) := KeepsSafe.received fun s => by
  split
  · next t ht =>
    obtain ⟨minute, second, tenth⟩ := Link.filter_time raw ht
    exact s.takeTime_safe t minute second tenth
  · exact .refl s

/-- A request joins the held requests, which are four at most (10 R175). -/
theorem State.join_safe (s : State) (r : Request) : s.Safe (s.setMgmt fun m => m.join r) := s.setMgmt_safe fun h => by
  obtain ⟨length, engine⟩ := h
  unfold State.MgmtOk
  rw [State.setMgmt_mgmt]
  unfold Mgmt.join
  split
  · next room =>
    refine ⟨by simp; omega, iff_of_false ?_ (by simp)⟩
    split
    · simp
    · next busy => exact fun idle => busy (by simp [engine.1 idle])
  · exact ⟨length, engine⟩

theorem request_safe : KeepsSafe (execRequest raw) := KeepsSafe.received fun s => by
  split
  · exact s.join_safe _
  · exact .refl s

end Received

/-- What the displays show is none of the five. -/
theorem State.setDisp_safe (s : State) (d : Display) : s.Safe { s with disp := d } := ⟨id, id, id, id, id⟩

theorem State.takeRequest_safe (s : State) : s.Safe s.takeRequest := by
  have handed : ∀ h : Hand, s.Safe (s.setMgmt fun m => { m with hand := some h }) := fun _ => s.marks_safe rfl rfl
  have dropped : ∀ payload, s.Safe (s.malformedRequest payload) := fun payload => by
    have counted : s.Safe (s.setMgmt fun m => { m with malformed := satAdd m.malformed 1 }) := s.marks_safe rfl rfl
    unfold State.malformedRequest
    simp only
    split
    · exact counted.trans (State.leaveHead_safe _)
    · exact counted.trans (State.reply_safe _ _)
  unfold State.takeRequest
  split
  · split
    · exact handed _
    · exact dropped _
  · split
    · exact State.finishOp_safe _ (fail s .badValue)
    · exact .refl s
  · exact .refl s

/-- The events of the chain ports, the room link, power and time. -/
theorem events_keepSafe : ∀ i : Instr, i.op = none → KeepsSafe (exec i)
  | .powerOn a b, _ => fun s _ ht => ok_safe (s.powerOn_safe a b) ht
  | .resetInput a b, _ => KeepsSafe.powered fun s => s.powerOn_safe a b
  | .carrierGain w, _ => KeepsSafe.powered fun s => .of_keeps (s.carrierGain_keeps w) (by decide)
  | .carrierLoss w, _ => KeepsSafe.powered fun s => s.carrierLoss_safe w
  | .chainCycle, _ => KeepsSafe.powered State.cycle_safe
  | .upstreamSlot p raw, _ => KeepsSafe.powered fun s => s.upstreamSlot_safe p raw
  | .wingEndMarker w raw, _ => KeepsSafe.powered fun s => s.wingEndMarker_safe w raw
  | .statusWord p _ _, _ => KeepsSafe.powered fun s => by
    split
    · exact s.slotAnswer_safe p
    · exact .refl s
  | .button p, _ => KeepsSafe.powered fun s => by
    split
    · exact s.slotEvent_safe p
    · exact .refl s
  | .priority p, _ => KeepsSafe.powered fun s => by
    split
    · exact s.slotEvent_safe p
    · exact .refl s
  | .enumerationPassEnd w, _ => KeepsSafe.powered fun s => s.endPass_safe w
  | .commitTransfer, _ => KeepsSafe.powered fun s => .of_keeps s.transferDue_keeps (by decide)
  | .gapEnd seat, _ => KeepsSafe.powered fun s => (s.endGap_safe seat).early _ _
  | .turnTimerAdvance seat, _ => KeepsSafe.powered fun s => (s.advanceTurn_safe seat).early _ _
  | .refusalFlashEnd seat, _ => KeepsSafe.powered fun s => by
    split
    · exact s.setMic_safe seat _
    · exact .refl s
  | .messageStep seat, _ => KeepsSafe.powered fun s => by
    have stepped : ∀ f, s.Safe (s.setMessage seat f) := fun _ => s.setDisp_safe _
    split
    · exact (stepped _).early _ _
    · exact .refl s
  | .screenWindowEnd e, _ => KeepsSafe.powered fun s => (s.endWindow_safe e).early _ _
  | .clockTenth, _ => KeepsSafe.powered fun s => s.advanceClock_safe.early _ _
  | .closingComplete, _ => KeepsSafe.powered State.reportClosed_safe
  | .holdover, _ => KeepsSafe.powered State.holdover_safe
  | .linkUp, _ => KeepsSafe.powered State.linkUp_safe
  | .linkDown, _ => KeepsSafe.powered State.linkDown_safe
  | .frameDropped raw, _ => frameDropped_safe raw
  | .audioIn raw, _ => audioIn_safe raw
  | .time raw, _ => time_safe raw
  | .request raw, _ => request_safe raw
  | .frameSent, _ => KeepsSafe.powered State.frameSent_safe
  | .requestTake, _ => KeepsSafe.powered State.takeRequest_safe
  | .staggerExpiry, _ => KeepsSafe.powered fun s => by
    split
    · next due => exact (s.offerReply_safe fun h => h.some due.1).trans (.of_keeps (State.takeEarly_keeps _ _) (by decide))
    · exact .refl s
  | .saveComplete success, _ => KeepsSafe.powered fun s => s.saveComplete_safe success
  | .restartTakesEffect, _ => KeepsSafe.powered State.takeRestart_safe
  | .powerLoss, _ => fun s _ ht => Host.Outcome.next.inj ht ▸ s.powerLoss_safe

/-- The operations of a request. -/
theorem operations_keepSafe : ∀ (i : Instr) {op : Op}, i.op = some op → KeepsSafe (exec i)
  | .read obj first count, _, _ => KeepsSafe.op fun s => s.readOwner_safe obj first count
  | .readClear obj part, _, _ => KeepsSafe.op fun s => s.readClearOwner_safe obj part
  | .write obj index fld vals, _, _ => KeepsSafe.op fun s => s.writeByCode_safe obj index fld vals
  | .setFlags obj index fld mask, _, _ => KeepsSafe.op fun s => s.flagOwner_safe .set obj index fld mask
  | .clearFlags obj index fld mask, _, _ => KeepsSafe.op fun s => s.flagOwner_safe .clear obj index fld mask
  | .toggleFlags obj index fld mask, _, _ => KeepsSafe.op fun s => s.flagOwner_safe .toggle obj index fld mask
  | .unlock value, _, _ => KeepsSafe.op fun s => s.unlockOwner_safe value
  | .bookingInsert _, _, _ => KeepsSafe.write fun s => s.writeBookings_safe _ _ _
  | .bookingChange _ _ _, _, _ => KeepsSafe.write fun s => s.writeBookings_safe _ _ _
  | .bookingDelete _ _, _, _ => KeepsSafe.write fun s => s.writeBookings_safe _ _ _
  | .rosterWrite _ _ _, _, _ => KeepsSafe.write fun s => s.writeRosters_safe _ _ _
  | .templateWrite _ _ _, _, _ => KeepsSafe.write fun s => s.writeTemplates_safe _ _ _
  | .roomScreenWrite _ _ _, _, _ => KeepsSafe.write fun s => s.writeRoomScreens_safe _ _ _
  | .stationWrite _ _ _, _, _ => KeepsSafe.write fun s => s.writeStation_safe _ _ _
  | .groupsWrite _ _ _, _, _ => KeepsSafe.write fun s => s.writeGroups_safe _ _ _
  | .destinationsWrite _ _ _, _, _ => KeepsSafe.write fun s => s.writeDestinations_safe _ _ _
  | .mixStagedWrite _ _ _, _, _ => KeepsSafe.write fun s => s.writeMixStaged_safe _ _ _
  | .floorModeWrite _ _, _, _ => KeepsSafe.write fun s => s.writeFloor_safe _ _ _
  | .maxOpenWrite _ _, _, _ => KeepsSafe.write fun s => s.writeFloor_safe _ _ _
  | .classOverrideWrite _ _, _, _ => KeepsSafe.write fun s => s.writeSeats_safe _ _ _
  | .limitOverrideWrite _ _, _, _ => KeepsSafe.write fun s => s.writeSeats_safe _ _ _
  | .muteWrite _ _, _, _ => KeepsSafe.write fun s => s.writeSeats_safe _ _ _
  | .leadWrite _ _, _, _ => KeepsSafe.write fun s => s.writeConfig_safe _ _ _
  | .switchWrite _ _, _, _ => KeepsSafe.write fun s => s.writeConfig_safe _ _ _
  | .gapWarnWrite _ _ _, _, _ => KeepsSafe.write fun s => s.writeConfig_safe _ _ _
  | .detectorSettingsWrite _ _ _, _, _ => KeepsSafe.write fun s => s.writeConfig_safe _ _ _
  | .pageSelectionWrite _ _ _, _, _ => KeepsSafe.write fun s => s.writeConfig_safe _ _ _
  | .grant seat force, _, _ => KeepsSafe.action fun s => s.grantAction_safe seat force
  | .revoke seat, _, _ => KeepsSafe.action fun s => s.revokeAction_safe seat
  | .next, _, _ => KeepsSafe.action State.nextAction_safe
  | .queuePlace seat position, _, _ => KeepsSafe.action fun s => s.queuePlaceAction_safe seat position
  | .clearQueue, _, _ => KeepsSafe.action fun s => floorAction_safe (s.clearQueue_safe .cleared)
  | .closeAll, _, _ => KeepsSafe.action State.closeAllAction_safe
  | .openAdhoc duration key chair mode maxOpen, _, _ => KeepsSafe.action fun s => s.openAdhocAction_safe duration key chair mode maxOpen
  | .extend minutes, _, _ => KeepsSafe.action fun s => s.extendAction_safe minutes
  | .endSession, _, _ => KeepsSafe.action State.endSessionAction_safe
  | .sendMessage target txt, _, _ => KeepsSafe.action fun s => s.sendMessageAction_safe target txt
  | .commit, _, _ => KeepsSafe.action State.commit_safe
  | .discard, _, _ => KeepsSafe.action State.discardAction_safe
  | .save, _, _ => KeepsSafe.action State.saveAction_safe
  | .enumerate wing, _, _ => KeepsSafe.action fun s => s.enumerateAction_safe wing
  | .halt, _, _ => KeepsSafe.action State.haltAction_safe
  | .resume, _, _ => KeepsSafe.action State.resumeAction_safe
  | .restart, _, _ => KeepsSafe.action fun s => s.marks_safe (f := fun m => { m with restart := .scheduled }) rfl rfl

theorem step_safe {s t : State} (h : step s = .next t) : s.Safe t := by
  unfold Machine.step at h
  split at h
  · exact Host.Outcome.next.inj h ▸ .refl s
  · next c rest _ =>
    have taken : s.Safe { s with pending := rest } := ⟨id, id, id, id, id⟩
    cases hop : c.op with
    | none => exact taken.trans (events_keepSafe c hop _ t h)
    | some op => exact taken.trans (operations_keepSafe c hop _ t h)

/-- Settles O7, from what each command leaves in order. -/
theorem everyStepKeepsTheLinkTheEngineAndTheClock : Obligations.EveryStepKeepsTheLinkTheEngineAndTheClock := fun _ _ h =>
  ⟨(step_safe h).link, (step_safe h).mgmt, (step_safe h).clock, (step_safe h).clips⟩

end Sys2Proof.Machine

namespace Sys2Proof.Machine

/-! ## The state after reset -/

section Reset

theorem reset_floorOk : State.reset.FloorOk := ⟨by decide, by decide, by decide, fun _ => ⟨rfl, rfl⟩⟩

/-- Nobody holds the floor and every microphone is CLOSED. -/
theorem reset_micOk : State.reset.MicOk := fun seat =>
  iff_of_false (by simp [State.holds, State.reset, State.fromImage, Floor.powerOn]) (by simp [State.reset_micOf, MicRec.powerOn])

theorem reset_linkOk : State.reset.LinkOk := ⟨by decide, by decide, fun _ => rfl, fun h => (by cases h), fun _ => rfl⟩

theorem reset_mgmtOk : State.reset.MgmtOk := ⟨by decide, iff_of_true rfl rfl⟩

theorem reset_clockOk : State.reset.ClockOk := ⟨by decide, by decide, by decide, by decide, by decide⟩

/-- No booking stands in the table, and the store holds no image. -/
theorem reset_tableOk : State.reset.TableOk :=
  ⟨⟨by decide, by decide, fun b hb => (by cases hb), List.Pairwise.nil⟩,
    iff_of_false (by decide) (by rintro ⟨b, hb, -⟩; cases hb), fun i hi => by cases hi⟩

theorem reset_holdersOk : State.reset.HoldersOk := ⟨by decide, by decide, by decide, fun seat h => by cases h⟩

theorem reset_clipsOk : State.reset.ClipsOk :=
  ⟨by decide, fun seat => by rw [(State.reset_gains seat).2.2]; decide⟩

/-- Settles O4: nothing is queued, held, booked or counted. -/
theorem resetHasTheInvariants : Obligations.ResetHasTheInvariants :=
  ⟨reset_floorOk, reset_micOk, reset_linkOk, reset_mgmtOk, reset_clockOk, fun h => (by cases h), reset_tableOk, reset_holdersOk,
    reset_clipsOk⟩

end Reset

end Sys2Proof.Machine

namespace Sys2Proof.Machine

/-! ## An evaluation is about the tables, not about the time before it -/

section SameTables
variable {s t u : State}

/-- Of the clock before it, the beginning of CLOSING is about the state of synchronisation alone. -/
theorem State.Closes.of_sync {c : EndCause} (h : u.Closes t c) (hcal : u.cal = s.cal) (hfloor : u.floor = s.floor)
    (hmic : u.mic = s.mic) (hseats : u.seats = s.seats) (hy : u.clock.sync = s.clock.sync) : s.Closes t c := by
  have mic : ∀ i, u.micOf i = s.micOf i := State.micOf_congr hmic
  have holds : ∀ i, u.holds i = s.holds i := State.holds_congr (by rw [hfloor])
  obtain ⟨openList, queue, none, report, gaps, closing, completed⟩ := h
  simp only [mic, holds, hcal, State.activeBooking] at report gaps closing completed
  exact ⟨openList, queue, none, report, gaps, closing, fun all => (completed all).of_same rfl rfl hseats rfl rfl
    (by rw [hfloor]) hy⟩

theorem State.Evaluated.of_sync (h : u.Evaluated t) (hcal : u.cal = s.cal) (hfloor : u.floor = s.floor) (hmic : u.mic = s.mic)
    (hseats : u.seats = s.seats) (hy : u.clock.sync = s.clock.sync) : s.Evaluated t := by
  have goesOn : ∀ {x bs}, u.GoesOn t x bs → s.GoesOn t x bs := fun g => by
    unfold State.GoesOn at g ⊢
    rwa [hfloor, hmic, hseats] at g
  have closes : ∀ {c bs}, ({ u with cal := { u.cal with bookings := bs } } : State).Closes t c →
      ({ s with cal := { s.cal with bookings := bs } } : State).Closes t c := fun k =>
    k.of_sync (by simp only [hcal]) hfloor hmic hseats hy
  obtain ⟨idle, closing, runs⟩ := h
  simp only [hcal, hfloor, State.activeBooking] at idle closing runs closes
  refine ⟨fun hs => (idle hs).of_tables (by rw [hcal]) (by rw [hcal]) hseats (by rw [hfloor]) (by rw [hfloor]) (by rw [hfloor]),
    fun hs => goesOn (closing hs), fun b hb => ?_⟩
  obtain ⟨before, ends, graces⟩ := runs b hb
  exact ⟨fun hs hf => goesOn (before hs hf), fun hs hf => ⟨fun hg => ⟨goesOn ((ends hs hf).1 hg).1, ((ends hs hf).1 hg).2⟩,
    fun hg => closes ((ends hs hf).2 hg)⟩, fun hs hf => ⟨fun hg => closes ((graces hs hf).1 hg),
    fun hg => ⟨goesOn ((graces hs hf).2 hg).1, ((graces hs hf).2 hg).2⟩⟩⟩

theorem State.TableOk.of_same (h : s.TableOk) (hcal : t.cal = s.cal) (hstore : t.store = s.store) : t.TableOk :=
  h.of_eq (by rw [hcal]) (by rw [hcal]) hstore

/-- Of the state before it, an evaluation is about the calendar, the floor, the microphones, the seats, the stored tables, the
switch of the auto-advance and the clock's state of synchronisation. -/
theorem State.Settles.of_sync (h : u.Settles t) (hcal : u.cal = s.cal) (hfloor : u.floor = s.floor) (hmic : u.mic = s.mic)
    (hseats : u.seats = s.seats) (hstore : u.store = s.store) (hauto : u.cfg.autoAdvance = s.cfg.autoAdvance)
    (hy : u.clock.sync = s.clock.sync) : s.Settles t := by
  obtain ⟨evaluated, same, adhoc⟩ := h
  unfold State.Settles
  simp only [hcal, hfloor, hmic, hseats, hy, State.activeBooking, State.noAdvance, hauto] at evaluated same adhoc ⊢
  exact ⟨fun k ht hq => (evaluated k (ht.of_same hcal hstore) hq).of_sync hcal hfloor hmic hseats hy, same,
    fun b hb k hn hg hs => ⟨(adhoc b hb k hn hg hs).1, fun hf => ((adhoc b hb k hn hg hs).2 hf).of_sync hcal hfloor hmic hseats hy⟩⟩

end SameTables

/-! ## CLOCK_TENTH and HOLDOVER (03 R43, R45) -/

section Tenths
variable (s : State)

/-- The step pending of CLOSING, where the minute rolls to 0 (log 34). -/
theorem State.advanced_pending (h : s.cal.session = .closing) : s.advanced.cal =
    { s.cal with stepPending := s.cal.stepPending || decide (s.clock.now.next.minute < s.clock.now.minute) } := by
  unfold State.advanced State.holdRoll
  by_cases hr : s.clock.now.next.minute < s.clock.now.minute
  · simp [hr, h]
  · simp [hr]

theorem State.evaluate_of_closing {s : State} (h : s.cal.session = .closing) : s.evaluate = s := by
  simp only [State.evaluate, h]

/-- What a change of the minute settles. -/
theorem State.advanceClock_settles (hc : s.cal.session ≠ .closing) (hm : s.clock.now.next.minute ≠ s.clock.now.minute) :
    s.Settles s.advanceClock := by
  have same := s.advanced_keeps
  rw [s.advanceClock_eq, if_pos hm]
  exact s.advanced.evaluate_settles.of_sync (s.advanced_cal (.inl hc)) (same .floor (by decide)) (same .mic (by decide))
    (same .seats (by decide)) (same .store (by decide)) (congrArg Settings.autoAdvance (same .cfg (by decide))) rfl

/-- Within a minute nothing follows. -/
theorem State.advanceClock_within (hm : s.clock.now.next.minute = s.clock.now.minute) : s.keeps s.advanceClock [.clock] := by
  have cal := s.advanced_cal (.inr hm)
  have same := s.advanced_keeps
  rw [s.advanceClock_eq, if_neg (not_not.2 hm)]
  intro p hp
  by_cases hc : p = .cal
  · subst hc
    exact cal
  · exact same p (by simp_all)

/-- CLOSING does not evaluate. -/
theorem State.advanceClock_closing (hc : s.cal.session = .closing) : s.advanceClock = s.advanced := by
  rw [s.advanceClock_eq]
  split
  · exact State.evaluate_of_closing ((congrArg Calendar.session (s.advanced_pending hc)).trans hc)
  · rfl

/-- The clock's own command takes the tenth that is due, for the coming boundary (log 2). -/
theorem exec_clockTenth {s : State} (hp : s.powered = true) (hc : 199 ≤ s.clock.cycles) (he : s.early.contains .tenth = false) :
    exec .clockTenth s = .next (s.advanceClock.takeEarly .tenth).ended := by
  show execClockTenth s = _
  rw [execClockTenth, whenPowered_next _ hp, if_pos ⟨hc, by rw [he]; rfl⟩]

theorem clockTenth_advances {s : State} (hp : s.powered = true) (hk : s.ClockOk) (hc : 199 ≤ s.clock.cycles)
    (he : s.early.contains .tenth = false) :
    ∃ t, exec .clockTenth s = .next t ∧
      t.clock.now.minute * 600 + t.clock.now.second * 10 + t.clock.now.tenth =
        (s.clock.now.minute * 600 + s.clock.now.second * 10 + s.clock.now.tenth + 1) % (4294967296 * 600) ∧
      t.clock.now.second < 60 ∧ t.clock.now.tenth < 10 ∧ t.clock.cycles = 0 ∧
      t.clock.age = min 65535 (s.clock.age + 1) ∧ t.clock.sync = s.clock.sync ∧
      (t.clock.now.minute = s.clock.now.minute → s.keeps t ([.clock, .early] ++ screenPieces)) ∧
      s.keeps t ([.clock, .early] ++ sessionPieces) ∧
      (t.clock.now.minute ≠ s.clock.now.minute → s.cal.session = .closing →
        s.keeps t ([.clock, .cal, .early] ++ screenPieces) ∧
        t.cal = { s.cal with stepPending := s.cal.stepPending || decide (t.clock.now.minute < s.clock.now.minute) }) ∧
      (t.clock.now.minute ≠ s.clock.now.minute → s.cal.session ≠ .closing → s.Settles t) := by
  obtain ⟨minute, second, tenth, -, -⟩ := hk
  obtain ⟨count, seconds, tenths⟩ := RoomTime.next_count minute second tenth
  have taken := State.taken_keeps s.advanceClock .tenth
  have clock : (s.advanceClock.takeEarly .tenth).ended.clock =
      { s.clock with now := s.clock.now.next, cycles := 0, age := satAdd s.clock.age 1 } :=
    (taken .clock (by decide)).trans s.advanceClock_clock
  refine ⟨_, exec_clockTenth hp hc he, ?_⟩
  rw [clock]
  refine ⟨count, seconds, tenths, rfl, rfl, rfl, fun hm => ?_, ?_, fun _ hs => ⟨?_, ?_⟩, fun hm hs => ?_⟩
  · exact State.keeps_trans (State.keeps_mono (s.advanceClock_within hm) (by decide)) (State.keeps_mono taken (by decide))
  · exact State.keeps_trans (State.keeps_mono s.advanceClock_keeps (by decide)) (State.keeps_mono taken (by decide))
  · rw [s.advanceClock_closing hs] at taken ⊢
    exact State.keeps_trans (State.keeps_mono s.advanced_keeps (by decide)) (State.keeps_mono taken (by decide))
  · have cal : (s.advanceClock.takeEarly .tenth).ended.cal = s.advanceClock.cal := taken .cal (by decide)
    rw [cal, s.advanceClock_closing hs, s.advanced_pending hs]
  · exact (s.advanceClock_settles hs hm).after taken (by decide)

theorem exec_holdover {s : State} (hp : s.powered = true) : exec .holdover s = .next ({ s with clock := s.clock.holdover }).ended := by
  show execHoldover s = _
  rw [execHoldover, whenPowered_next _ hp]

/-- SYNCED becomes HOLDOVER at a sync age of 36,000 tenths, and nothing else does (03 R45). -/
theorem holdover_falls {s : State} (hp : s.powered = true) :
    ∃ t, exec .holdover s = .next t ∧ s.keeps t (.clock :: screenPieces) ∧
      t.clock = { s.clock with sync := if s.clock.sync = .synced ∧ 36000 ≤ s.clock.age then .holdover else s.clock.sync } := by
  have set : s.keeps { s with clock := s.clock.holdover } [.clock] := fun p hp => by cases p <;> simp_all [State.agrees]
  have done := State.ended_keeps { s with clock := s.clock.holdover }
  have falls : s.clock.holdover =
      { s.clock with sync := if s.clock.sync = .synced ∧ 36000 ≤ s.clock.age then .holdover else s.clock.sync } := by
    unfold Clock.holdover
    split <;> rfl
  exact ⟨_, exec_holdover hp, State.keeps_trans (State.keeps_mono set (by decide)) (State.keeps_mono done (by decide)),
    (done .clock (by decide)).trans falls⟩

/-- Settles O33: a tenth ends, the minute rolls or stays, and the sync age decides HOLDOVER. -/
theorem theClockAdvancesAndFallsToHoldover : Obligations.TheClockAdvancesAndFallsToHoldover :=
  ⟨fun _ hp hk hc he => clockTenth_advances hp hk hc he, fun _ hp => holdover_falls hp⟩

end Tenths

end Sys2Proof.Machine

namespace Sys2Proof.Machine

/-! ## A frame of the room link as the filter reads it (09 R162–R164) -/

section Frames

theorem number_be48 {n : Nat} (h : n < 281474976710656) : number (be48 n) = n := by
  have hb : be48 n = [BitVec.ofNat 8 (n / 4294967296 / 256), BitVec.ofNat 8 (n / 4294967296), BitVec.ofNat 8 (n / 65536 / 256),
      BitVec.ofNat 8 (n / 65536), BitVec.ofNat 8 (n / 256), BitVec.ofNat 8 n] := rfl
  rw [hb]
  simp only [number, List.foldl_cons, List.foldl_nil, BitVec.toNat_ofNat]
  omega

variable (dest source : Addr) (kind : Nat) (payload : List Byte)

theorem headerBytes_length : (headerBytes dest source kind payload).length = 16 + payload.length := by
  simp [headerBytes, addrBytes, be48, be32, be16, be8]
  omega

theorem frameBytes_length : (frameBytes dest source kind payload).length = 20 + payload.length := by
  simp [frameBytes, headerBytes_length, crc32Bytes, be32, be16]
  omega

theorem frameBytes_crc : crcAgrees (frameBytes dest source kind payload) = true := by
  have header : (frameBytes dest source kind payload).length - 4 = (headerBytes dest source kind payload).length := by
    rw [frameBytes_length, headerBytes_length]
    omega
  rw [crcAgrees, header, frameBytes, List.drop_left, List.take_left]
  exact decide_eq_true rfl

theorem frameBytes_dest : BitVec.ofNat 48 (field (frameBytes dest source kind payload) 0 6) = dest := by
  have read : field (frameBytes dest source kind payload) 0 6 = number (be48 dest.toNat) := rfl
  rw [read, number_be48 dest.isLt, BitVec.ofNat_toNat, BitVec.setWidth_eq]

theorem frameBytes_kind (h : kind < 256) : field (frameBytes dest source kind payload) 12 1 = kind := by
  have read : field (frameBytes dest source kind payload) 12 1 = number (be8 kind) := rfl
  rw [read, number_be8 h]

theorem frameBytes_size (h : payload.length < 65536) : field (frameBytes dest source kind payload) 14 2 = payload.length := by
  have read : field (frameBytes dest source kind payload) 14 2 = number (be16 payload.length) := rfl
  rw [read, number_be16 h]

theorem frameBytes_payload : ((frameBytes dest source kind payload).drop 16).take payload.length = payload := by
  have read : (frameBytes dest source kind payload).drop 16 = payload ++ crc32Bytes (headerBytes dest source kind payload) := rfl
  rw [read, List.take_left]

theorem Link.accepts_iff {l : Link} {dest : Addr} :
    l.accepts dest = true ↔ dest = l.station ∨ dest = broadcast ∨ ∃ g : Fin 4, l.groups[g] = some dest := by
  have held : l.groups.toList.contains (some dest) = true ↔ ∃ g : Fin 4, l.groups[g] = some dest := by
    rw [List.contains_iff_mem, Vector.mem_toList_iff, Vector.mem_iff_getElem]
    exact ⟨fun ⟨i, hi, h⟩ => ⟨⟨i, hi⟩, h⟩, fun ⟨g, h⟩ => ⟨g.val, g.isLt, h⟩⟩
  simp only [Link.accepts, Bool.or_eq_true, decide_eq_true_eq, held, or_assoc]

/-- A good TIME frame passes the filter with its time. -/
theorem Link.filter_timeFrame {l : Link} {dest source : Addr} (h : l.accepts dest = true) (m : BitVec 32) {sec tenth : Nat}
    (hs : sec ≤ 59) (ht : tenth ≤ 9) :
    l.filter (frameBytes dest source 0x03 (be32 m.toNat ++ be8 sec ++ be8 tenth)) = .time ⟨m.toNat, sec, tenth⟩ := by
  have length : (be32 m.toNat ++ be8 sec ++ be8 tenth).length = 6 := by simp [be32, be16, be8]
  have minute : field (be32 m.toNat ++ be8 sec ++ be8 tenth) 0 4 = m.toNat := number_be32 m.isLt
  have second : field (be32 m.toNat ++ be8 sec ++ be8 tenth) 4 1 = sec := number_be8 (by omega)
  have tenths : field (be32 m.toNat ++ be8 sec ++ be8 tenth) 5 1 = tenth := number_be8 (by omega)
  have size := frameBytes_length dest source 0x03 (be32 m.toNat ++ be8 sec ++ be8 tenth)
  have payload := frameBytes_payload dest source 0x03 (be32 m.toNat ++ be8 sec ++ be8 tenth)
  have declared := frameBytes_size dest source 0x03 (be32 m.toNat ++ be8 sec ++ be8 tenth) (by omega)
  rw [length] at size payload declared
  generalize be32 m.toNat ++ be8 sec ++ be8 tenth = p at *
  simp [Link.filter, size, payload, declared, frameBytes_kind, frameBytes_crc, frameBytes_dest, h, sizeAllowed, minute, second, tenths]
  omega

end Frames

/-! ## TIME (03 R44, R46) -/

section Time
variable {s t : State} {b : Booking}

/-- The clock takes a time (03 R44). -/
def State.setTime (s : State) (now : RoomTime) : State :=
  { s with clock := { now := now, cycles := 0, sync := .synced, age := 0 } }

theorem State.setTime_keeps (now : RoomTime) : s.keeps (s.setTime now) [.clock] := by
  intro p hp
  cases p <;> simp_all [State.agrees, State.setTime]

theorem State.takeTime_closing (now : RoomTime) (hc : s.cal.session = .closing) :
    s.takeTime now = { s.setTime now with cal := { s.cal with stepPending := true } } := by
  simp only [State.takeTime, hc, if_true, State.setTime]

/-- Where no ad hoc booking is moved, the calendar evaluates. -/
theorem State.takeTime_evaluates (now : RoomTime) (hc : s.cal.session ≠ .closing) (h : s.clock.sync ≠ .unsynced ∨ s.activeBooking = none) :
    s.takeTime now = (s.setTime now).evaluate := by
  have moved : ∀ old, s.activeBooking = none → (s.setTime now).moveAdhoc old = s.setTime now :=
    fun old hb => State.moveAdhoc_none (s := s.setTime now) hb old
  simp only [State.takeTime, if_neg hc]
  split
  · next hy => rw [← moved s.clock.now.minute (h.resolve_left (not_not.2 hy)), State.setTime]
  · rfl

/-- The ad hoc booking is moved before the calendar evaluates. -/
theorem State.takeTime_moves (now : RoomTime) (hc : s.cal.session ≠ .closing) (hy : s.clock.sync = .unsynced) :
    s.takeTime now = ((s.setTime now).moveAdhoc s.clock.now.minute).evaluate := by
  simp only [State.takeTime, if_neg hc, if_pos hy, State.setTime]

/-- With no booking an evaluation in VACANT finds nothing to do. -/
theorem State.evaluate_nothing (hs : s.cal.session = .vacant) (hb : s.cal.bookings = []) : s.evaluate = s := by
  have none : s.removeMissed = s := by simp [State.removeMissed, hb]
  have next : s.nextBooking = .none := by simp [State.nextBooking, hb, waitingOf]
  have stays : s.testNext = s := by
    unfold State.testNext
    rw [next, ← hs]
  have idle : s.evaluate = s.evaluateIdle := by simp only [State.evaluate, hs]
  rw [idle, State.evaluateIdle, none, stays, ite_self]

/-- Where no record is past, none is MISSED. -/
theorem State.remaining_all (h : ∀ x ∈ s.cal.bookings, x.active = false → s.clock.now.minute < x.start + x.duration) :
    s.remaining = s.cal.bookings := by
  refine List.filter_eq_self.2 fun x hx => ?_
  cases ha : x.active with
  | true => rfl
  | false => simpa using h x hx ha

/-- The end of the moved booking: the earliest start that is to come cuts it (03 R46). -/
theorem State.cutEnd_eq (h : bookingsOk s.cal.bookings) {finish : Nat} (hf : s.clock.now.minute ≤ finish) :
    s.cutEnd finish = (((waitingOf s.cal.bookings).map (·.start)).map (max s.clock.now.minute)).foldl min finish := by
  have sorted : (((waitingOf s.cal.bookings).map (·.start)).map (max s.clock.now.minute)).Pairwise (· ≤ ·) := by
    have all : s.cal.bookings.Pairwise fun a b => a.start ≤ b.start := h.2.2.2.imp fun k => k.1
    exact List.pairwise_map.2 (List.pairwise_map.2 ((all.sublist List.filter_sublist).imp fun k => max_le_max le_rfl k))
  rw [foldl_min_head _ sorted, List.head?_map, List.head?_map, State.cutEnd, State.nextBooking]
  cases (waitingOf s.cal.bookings).head? with
  | none => rfl
  | some n =>
    simp only [Option.map_some]
    split <;> omega

/-- The state in which the ad hoc booking `b` has moved to the new time. -/
def State.adhocMoved (s : State) (moved : Booking) (waiting : List Booking) : State :=
  { s with cal := { s.cal with bookings := placeBooking moved waiting, actualStart := s.clock.now } }

/-- The moved booking is the ACTIVE one, and nothing of the table is past. -/
theorem State.adhocMoved_active {moved : Booking} {waiting : List Booking} (ha : moved.active = true)
    (hw : ∀ x ∈ waiting, x.active = false) : (s.adhocMoved moved waiting).activeBooking = some moved := by
  obtain ⟨before, after, split, placed⟩ := placeBooking_split moved waiting
  rw [State.activeBooking, State.adhocMoved, placed]
  exact find_active ha fun x hx => hw x (by rw [split]; exact List.mem_append_left _ hx)

theorem State.adhocMoved_remaining {moved : Booking} {waiting : List Booking} (ha : moved.active = true)
    (hw : ∀ x ∈ waiting, s.clock.now.minute < x.start + x.duration) :
    (s.adhocMoved moved waiting).remaining = (s.adhocMoved moved waiting).cal.bookings :=
  State.remaining_all fun x hx hn => by
    rcases List.mem_cons.1 ((placeBooking_perm moved waiting).subset hx) with rfl | hx
    · rw [ha] at hn
      cases hn
    · exact hw x hx

/-- The move of the ad hoc booking, with the records that are past gone as MISSED (03 R46, R63). -/
theorem State.moveAdhoc_eq (h : s.TableOk) (hb : s.activeBooking = some b) {old : Nat} :
    let waiting := waitingOf s.remaining
    let finish := s.clock.now.minute + (b.start + b.duration - old)
    let cut := ((waiting.map (·.start)).map (max s.clock.now.minute)).foldl min finish
    (s.moveAdhoc old).cal = (s.adhocMoved { b with start := s.clock.now.minute, duration := cut - s.clock.now.minute } waiting).cal ∧
      s.keeps (s.moveAdhoc old) [.cal, .sending, .linkCounters] := by
  have left : s.removeMissed.TableOk := s.removeMissed_safe.table h
  have clock : s.removeMissed.clock = s.clock := s.removeMissed_rest .clock (by decide)
  have cut := State.cutEnd_eq (s := s.removeMissed) left.1 (finish := s.clock.now.minute + (b.finish - old)) (by rw [clock]; omega)
  rw [s.removeMissed_cal, clock] at cut
  rw [State.moveAdhoc_some hb, State.movedBooking, cut]
  refine ⟨by rw [s.removeMissed_cal]; rfl, State.keeps_trans s.removeMissed_rest fun p hp => ?_⟩
  cases p <;> simp_all [State.agrees]

/-- The evaluation of a table in which nothing is past and whose ACTIVE booking has no grace: the session goes on, or CLOSING
begins (03 R55). -/
theorem State.evaluate_noGrace (h : s.TableOk) (hs : s.cal.session = .inSession) (hy : s.clock.sync ≠ .unsynced)
    (hb : s.activeBooking = some b) (hg : b.grace = 0) (hr : s.remaining = s.cal.bookings) :
    (s.clock.now.minute < b.finish → s.evaluate.cal = s.cal ∧ s.keeps s.evaluate [.cal, .sending, .linkCounters]) ∧
      (b.finish ≤ s.clock.now.minute → s.Closes s.evaluate .endTime) := by
  have rest := s.removeMissed_rest
  have clock : s.removeMissed.clock = s.clock := rest .clock (by decide)
  have cal : s.removeMissed.cal = s.cal := by rw [s.removeMissed_cal, hr]
  have session : s.removeMissed.cal.session = .inSession := by rw [cal, hs]
  have active : s.removeMissed.activeBooking = some b := s.removeMissed_active.trans hb
  rw [State.evaluate_inSession hs hy]
  refine ⟨fun hf => ?_, fun hf => ?_⟩
  · rw [State.testEnd_before session active (by rwa [clock])]
    exact ⟨cal, rest⟩
  · rw [State.testEnd_closes session active (by rwa [clock]) (.inl hg)]
    refine (s.removeMissed.startClosing_closes .endTime fun _ _ => ?_).of_sync cal (rest .floor (by decide)) (rest .mic (by decide))
      (rest .seats (by decide)) (congrArg Clock.sync clock)
    rw [cal]
    exact h.1.2.1

theorem le_foldl_min {l : List Nat} {f m : Nat} (hf : m ≤ f) (h : ∀ x ∈ l, m ≤ x) : m ≤ l.foldl min f := by
  induction l generalizing f with
  | nil => exact hf
  | cons x l ih => exact ih (Nat.le_min.2 ⟨hf, h x (by simp)⟩) fun y hy => h y (by simp [hy])

/-- The ad hoc booking is moved into the new time, and the calendar evaluates at it (03 R46, R47). -/
theorem State.takeTime_adhoc (now : RoomTime) (hb : s.activeBooking = some b) (hs : s.cal.session = .inSession)
    (hy : s.clock.sync = .unsynced) (hg : b.grace = 0) (ht : s.TableOk) :
    let waiting := waitingOf (s.setTime now).remaining
    let finish := now.minute + (b.start + b.duration - s.clock.now.minute)
    let cut := ((waiting.map (·.start)).map (max now.minute)).foldl min finish
    let v := (s.setTime now).adhocMoved { b with start := now.minute, duration := cut - now.minute } waiting
    (now.minute < cut → v.GoesOn (s.takeTime now) .inSession v.cal.bookings ∧ (s.takeTime now).cal.actualStart = now) ∧
      (cut ≤ now.minute → v.Closes (s.takeTime now) .endTime) := by
  intro waiting finish cut v
  have ha : b.active = true := (State.activeBooking_mem hb).2
  have set : (s.setTime now).TableOk := ht.of_same rfl rfl
  have later : now.minute ≤ cut := by
    refine le_foldl_min (Nat.le_add_right _ _) fun x hx => ?_
    obtain ⟨n, -, rfl⟩ := List.mem_map.1 hx
    exact le_max_left _ _
  obtain ⟨cal, kept⟩ := State.moveAdhoc_eq set hb (old := s.clock.now.minute)
  have moved : ((s.setTime now).moveAdhoc s.clock.now.minute).TableOk := set.moved _
  rw [State.takeTime_moves now (by rw [hs]; decide) hy]
  generalize (s.setTime now).moveAdhoc s.clock.now.minute = w at cal kept moved
  change w.cal = v.cal at cal
  have clock : w.clock = (s.setTime now).clock := kept .clock (by decide)
  have active : w.activeBooking = some { b with start := now.minute, duration := cut - now.minute } := by
    rw [State.activeBooking, cal]
    exact State.adhocMoved_active (s := s.setTime now) ha fun x hx => by simpa using (List.mem_filter.1 hx).2
  have remaining : w.remaining = w.cal.bookings := by
    rw [State.remaining, clock, cal]
    refine State.adhocMoved_remaining (s := s.setTime now) ha fun x hx => ?_
    obtain ⟨hx, waits⟩ := List.mem_filter.1 hx
    simpa [show x.active = false by simpa using waits] using (List.mem_filter.1 hx).2
  obtain ⟨before, ends⟩ := State.evaluate_noGrace moved (by rw [cal]; exact hs) (by simp [clock, State.setTime]) active hg remaining
  have same : (w.clock.now.minute < now.minute + (cut - now.minute)) = (now.minute < cut) := by
    rw [clock]
    exact propext ⟨fun h => by simp only [State.setTime] at h; omega, fun h => by simp only [State.setTime]; omega⟩
  refine ⟨fun hc => ?_, fun hc => ?_⟩
  · obtain ⟨stays, all⟩ := before (same ▸ hc)
    have frame := State.keeps_trans kept all
    refine ⟨⟨?_, ?_, frame .floor (by decide), frame .mic (by decide), frame .seats (by decide)⟩, ?_⟩
    · rw [stays, cal]
      exact hs
    · rw [stays, cal]
    · rw [stays, cal]
      rfl
  · exact (ends (not_lt.1 (same ▸ not_lt.2 hc))).of_sync cal (kept .floor (by decide)) (kept .mic (by decide)) (kept .seats (by decide))
      (congrArg Clock.sync clock)

theorem exec_time {dest source : Addr} (hp : s.powered = true) (hu : s.link.up = true)
    (hd : dest = s.link.station ∨ dest = broadcast ∨ ∃ g : Fin 4, s.link.groups[g] = some dest) (m : BitVec 32) {sec tenth : Nat}
    (hs : sec ≤ 59) (ht : tenth ≤ 9) :
    exec (.time (frameBytes dest source 0x03 (be32 m.toNat ++ be8 sec ++ be8 tenth))) s =
      .next (s.takeTime ⟨m.toNat, sec, tenth⟩).ended := by
  show execTime _ s = _
  rw [execTime, whenReceived, whenPowered_next _ hp, if_pos hu, Link.filter_timeFrame (Link.accepts_iff.2 hd) m hs ht]

theorem State.moveAdhoc_keeps (s : State) (old : Nat) : s.keeps (s.moveAdhoc old) [.cal, .sending, .linkCounters] := by
  cases hb : s.activeBooking with
  | none => rw [State.moveAdhoc_none hb]; exact s.keeps_refl _
  | some b =>
    rw [State.moveAdhoc_some hb]
    refine State.keeps_trans s.removeMissed_rest fun p hp => ?_
    cases p <;> simp_all [State.agrees]

theorem State.takeTime_keeps (s : State) (now : RoomTime) : s.keeps (s.takeTime now) (.clock :: sessionPieces) ∧
    (s.takeTime now).clock = (s.setTime now).clock := by
  by_cases hc : s.cal.session = .closing
  · rw [s.takeTime_closing now hc]
    exact ⟨fun p hp => by cases p <;> simp_all [State.agrees, State.setTime, sessionPieces], rfl⟩
  · obtain ⟨w, moved, eq⟩ : ∃ w, (s.setTime now).keeps w [.cal, .sending, .linkCounters] ∧ s.takeTime now = w.evaluate := by
      by_cases hy : s.clock.sync = .unsynced
      · exact ⟨_, State.moveAdhoc_keeps _ _, s.takeTime_moves now hc hy⟩
      · exact ⟨_, State.keeps_refl _ _, s.takeTime_evaluates now hc (.inl hy)⟩
    have evaluated := w.evaluate_keeps
    rw [eq]
    exact ⟨State.keeps_trans (State.keeps_mono (s.setTime_keeps now) (by decide)) (State.keeps_trans (State.keeps_mono moved (by decide))
      (State.keeps_mono evaluated (by decide))), (evaluated .clock (by decide)).trans (moved .clock (by decide))⟩

theorem State.GoesOn.after {x : Session} {bs : List Booking} {u : State} (h : s.GoesOn t x bs) {l : List Piece} (k : t.keeps u l)
    (hl : ∀ p ∈ shownPieces, p ∉ l) : s.GoesOn u x bs := by
  unfold State.GoesOn at h ⊢
  rwa [(k .cal (hl _ (by decide)) : u.cal = t.cal), (k .floor (hl _ (by decide)) : u.floor = t.floor),
    (k .mic (hl _ (by decide)) : u.mic = t.mic), (k .seats (hl _ (by decide)) : u.seats = t.seats)]

/-- Settles O39: the clock is set, and the evaluation is made, is held pending, or follows the move of the ad hoc booking. -/
theorem aTimeFrameSetsTheClock : Obligations.ATimeFrameSetsTheClock := by
  intro s dest source m sec tenth hp hu hd hsec htenth now u
  have ended := (s.takeTime now).ended_keeps
  obtain ⟨taken, clock⟩ := s.takeTime_keeps now
  refine ⟨_, exec_time hp hu hd m hsec htenth, (ended .clock (by decide)).trans clock, ?_, ?_, fun hc => ?_, fun hv hn => ?_,
    fun hc hm => ?_, fun b hb hs hy hg ht => ?_⟩
  · exact (ended .cfg (by decide)).trans (taken .cfg (by decide))
  · exact State.keeps_trans taken (State.keeps_mono ended (by decide))
  · have cal : (s.takeTime now).ended.cal = (s.takeTime now).cal := ended .cal (by decide)
    rw [s.takeTime_closing now hc] at ended cal ⊢
    refine ⟨State.keeps_trans ?_ (State.keeps_mono ended (by decide)), cal⟩
    intro p hp
    cases p <;> simp_all [State.agrees, State.setTime]
  · have stays : s.takeTime now = s.setTime now := by
      have none : s.activeBooking = .none := by rw [State.activeBooking, hn]; rfl
      rw [s.takeTime_evaluates now (by rw [hv]; decide) (.inr none)]
      exact State.evaluate_nothing hv hn
    rw [stays] at ended ⊢
    exact State.keeps_trans (State.keeps_mono (s.setTime_keeps now) (by decide)) (State.keeps_mono ended (by decide))
  · refine State.Settles.after ?_ ended (by decide)
    rw [s.takeTime_evaluates now hc hm]
    exact State.evaluate_settles _
  · obtain ⟨goesOn, closes⟩ := State.takeTime_adhoc now hb hs hy hg ht
    intro waiting finish cut moved v
    have cal : (s.takeTime now).ended.cal = (s.takeTime now).cal := ended .cal (by decide)
    exact ⟨fun hc => ⟨(goesOn hc).1.after ended (by decide), by rw [cal]; exact (goesOn hc).2⟩, fun hc => (closes hc).after ended (by decide)⟩

end Time

end Sys2Proof.Machine

namespace Sys2Proof.Machine

/-! ## How an operation that reaches its owner ends -/

section Ends
variable {s : State} {i : Instr} {op : Op} {owner : State → OpResult}

/-- The operation fails where its owner turned it away, and is answered where its owner took it without touching the engine
or the live mix tables. -/
theorem State.reaches_ends (hr : s.reaches i = true) (hop : i.op = some op) (hread : op.isRead = false) (hx : exec i s = s.runOp op owner) :
    ∃ t, exec i s = .next t ∧ (∀ st, owner s = fail s st → st.success = false → s.fails t st) ∧
      ∀ v c l, owner s = done v c → s.keeps v l → .mgmt ∉ l → .tables ∉ l → s.Sends v →
        s.answered t (okOr c) ∧ v.keeps t opPieces := by
  obtain ⟨hat, hnext⟩ := State.reaches_next hr hop hx
  refine ⟨_, hnext, fun st ho hs => State.opEnd_fails hat ho hs, fun v c l ho hk hm ht hq =>
    ⟨State.opEnd_answered hat ho hread hk hm ht hq, ?_⟩⟩
  rw [ho]
  exact State.opEnd_keeps op (done v c)

theorem okOr_decide (p : Prop) [Decidable p] : okOr (decide p) = if p then .clamped else .ok := by
  by_cases h : p <;> simp [okOr, h]

end Ends

section Values
variable {o : Object} {index fld : Nat} {parts : List Part} {vals : List Byte} {s : State} {owner : List Value → OpResult}

/-- Bytes that are one value whole go to the owner as that value. -/
theorem takeValues_whole (hi : index ≤ lastIndex o fld) (hs : valueShape o index fld = some parts)
    (ht : takeParts [] parts vals = .value vals []) (hne : vals ≠ []) :
    takeValues o index fld vals s owner = owner [⟨index, fld, vals⟩] := by
  obtain ⟨b, bs, rfl⟩ := List.exists_cons_of_ne_nil hne
  have split : splitValues o index fld (b :: bs) = .values [⟨index, fld, b :: bs⟩] := by
    rw [splitValues, List.length_cons, splitFrom, if_neg (by simp), hs]
    simp [ht, splitFrom_nil]
  rw [takeValues, if_neg (by omega), split]
  simp [hi]

/-- A text part takes its length byte and as many characters. -/
theorem takeParts_text (done : List Byte) (ps : List Part) {txt : Text} (rest : List Byte) (h : txt.length < 256) :
    takeParts done (.text :: ps) (textBytes txt ++ rest) = takeParts (done ++ textBytes txt) ps rest := by
  have len : (BitVec.ofNat 8 txt.length).toNat = txt.length := by
    rw [BitVec.toNat_ofNat]
    omega
  rw [textBytes, be8, List.singleton_append, List.cons_append, takeParts, len, if_neg (by simp), List.take_left, List.drop_left]

theorem takeParts_fixed (done : List Byte) (ps : List Part) {n : Nat} {bs : List Byte} (rest : List Byte) (h : bs.length = n) :
    takeParts done (.fixed n :: ps) (bs ++ rest) = takeParts (done ++ bs) ps rest := by
  rw [takeParts, if_neg (by simp; omega), ← h, List.take_left, List.drop_left]

end Values

/-! ## TEMPLATE_WRITE (08 R147) -/

section Templates
variable {s : State}

/-- The value of a template: printable text, cut to its length. -/
theorem State.writeTemplates_text (s : State) (n : Fin 20) {txt : Text} (h : txt.length ≤ 250) :
    s.writeTemplates n.val 0 (textBytes txt) =
      done { s with disp := { s.disp with
          templates := s.disp.templates.set n ((takeIn txt).take (if n.val < 16 then 64 else 160)) } }
        (decide ((if n.val < 16 then 64 else 160) < txt.length)) := by
  have whole : takeParts [] [.text] (textBytes txt) = .value (textBytes txt) [] := by
    have := takeParts_text [] [] (txt := txt) [] (by omega)
    rwa [List.append_nil, takeParts, List.nil_append] at this
  have chars : (textBytes txt).drop 1 = txt := rfl
  have set (x : Text) : s.disp.templates.setIfInBounds n.val x = s.disp.templates.set n x := by
    simp [Vector.setIfInBounds, Vector.set, Array.setIfInBounds]
  have length : (takeIn txt).length = txt.length := by simp [takeIn]
  rw [State.writeTemplates, takeValues_whole (by simp only [lastIndex]; omega) (by simp [valueShape]) whole (by simp [textBytes, be8]),
    storeAll_one, storeTemplate]
  simp only [chars, set, length, templateLength]
  rfl

/-- A template takes its text, by its own row or by WRITE. -/
theorem templateWrite_takes (n : Fin 20) {txt : Text} {i : Instr} (h : txt.length ≤ 250) (hr : s.reaches i = true)
    (hi : i = .templateWrite (BitVec.ofNat 16 n.val) 0 (textBytes txt) ∨
      i = .write 0x08 (BitVec.ofNat 16 n.val) 0 (textBytes txt)) :
    let width := if n.val < 16 then 64 else 160
    ∃ t, exec i s = .next t ∧ s.keeps t (.templates :: opPieces) ∧ s.answered t (if width < txt.length then .clamped else .ok) ∧
      t.disp.templates = s.disp.templates.set n ((takeIn txt).take width) := by
  intro width
  have index : (BitVec.ofNat 16 n.val).toNat = n.val := by
    rw [BitVec.toNat_ofNat]
    omega
  obtain ⟨owner, hop, hx, ho⟩ : ∃ owner, i.op = some (.write 0x08 (BitVec.ofNat 16 n.val) 0 (textBytes txt)) ∧
      exec i s = s.runOp (.write 0x08 (BitVec.ofNat 16 n.val) 0 (textBytes txt)) owner ∧
      owner s = s.writeTemplates (BitVec.ofNat 16 n.val).toNat 0 (textBytes txt) := by
    rcases hi with rfl | rfl
    · exact ⟨_, rfl, rfl, rfl⟩
    · exact ⟨_, rfl, rfl, rfl⟩
  obtain ⟨t, next, -, answers⟩ := State.reaches_ends hr hop rfl hx
  rw [index, s.writeTemplates_text n h] at ho
  have kept : ∀ v, s.keeps { s with disp := { s.disp with templates := v } } [.templates] := fun v p hp => by
    cases p <;> simp_all [State.agrees]
  obtain ⟨answered, after⟩ := answers _ _ _ ho (kept _) (by decide) (by decide) (.of_eq rfl)
  exact ⟨t, next, State.keeps_trans (State.keeps_mono (kept _) (by decide)) (State.keeps_mono after (by decide)),
    by rwa [okOr_decide] at answered, after .templates (by decide)⟩

end Templates

/-! ## ROSTER_WRITE (03 R50) -/

section Rosters
variable {s : State} (r : Fin 8) (slot : Fin 64)

/-- The bytes of a roster entry (12 R198). -/
def RosterEntry.written (e : RosterEntry) : List Byte :=
  be8 e.position.val ++ textBytes e.name ++ be8 e.key.val ++ be8 e.role.code ++ be16 (e.limit.getD 0xFFFF)

theorem RosterEntry.written_split (e : RosterEntry) :
    e.written = be8 e.position.val ++ (textBytes e.name ++ (be8 e.key.val ++ be8 e.role.code ++ be16 (e.limit.getD 0xFFFF))) := by
  simp only [RosterEntry.written, List.append_assoc]

theorem Role.ofCode_code (x : Role) : Role.ofCode x.code = some x := by cases x <;> rfl

/-- An entry within its ranges is read back. -/
theorem readRosterEntry_written {e : RosterEntry} (hn : e.name.length ≤ 24) (ht : takeIn e.name = e.name)
    (hl : ∀ l, e.limit = some l → l ≤ 3600) : readRosterEntry e.written = some (e, false) := by
  have behind (k n : Nat) : field e.written (e.name.length + 2 + k) n =
      field (be8 e.key.val ++ be8 e.role.code ++ be16 (e.limit.getD 0xFFFF)) k n := by
    have front : (be8 e.position.val ++ textBytes e.name).length = e.name.length + 2 := by simp [textBytes, be8]
    rw [e.written_split, ← List.append_assoc, ← front, field_append]
  have position : field e.written 0 1 = e.position.val := number_be8 (by omega)
  have length : field e.written 1 1 = e.name.length := number_be8 (by omega)
  have name : (e.written.drop 2).take e.name.length = e.name := by
    have read : e.written.drop 2 = e.name ++ (be8 e.key.val ++ be8 e.role.code ++ be16 (e.limit.getD 0xFFFF)) := by
      rw [e.written_split]
      rfl
    rw [read, List.take_left]
  have key : field e.written (e.name.length + 2) 1 = e.key.val := (behind 0 1).trans (number_be8 (by omega))
  have role : field e.written (e.name.length + 3) 1 = e.role.code :=
    (behind 1 1).trans (number_be8 (by cases e.role <;> decide))
  have limit : field e.written (e.name.length + 4) 2 = e.limit.getD 0xFFFF := (behind 2 2).trans (number_be16 (by
    cases h : e.limit with
    | none => decide
    | some l => exact lt_of_le_of_lt (hl l h) (by decide)))
  have seat : seatOf e.position.val = some e.position := seatOf_val _
  have held : keyOf e.key.val = some e.key := by simp [keyOf]
  obtain ⟨stored, kept⟩ : (if e.limit.getD 0xFFFF = 0xFFFF then none else some (min 3600 (e.limit.getD 0xFFFF))) = e.limit ∧
      (e.limit.getD 0xFFFF != 0xFFFF && decide (3600 < e.limit.getD 0xFFFF)) = false := by
    cases hm : e.limit with
    | none => exact ⟨rfl, rfl⟩
    | some l =>
      have small := hl l hm
      simp only [Option.getD_some, Nat.min_eq_right small, show ¬ 3600 < l by omega, show l ≠ 0xFFFF by omega, if_false, decide_false,
        Bool.and_false, and_self]
  simp only [readRosterEntry, length, limit, position, key, role, name, ht, seat, held, Role.ofCode_code, List.take_of_length_le hn, stored,
    kept, show ¬ 24 < e.name.length by omega, decide_false, Bool.or_false]

/-- The index of a roster slot. -/
theorem ofNat16_slot : (BitVec.ofNat 16 (64 * r.val + slot.val)).toNat = 64 * r.val + slot.val := by
  rw [BitVec.toNat_ofNat]
  omega

/-- The row and the place of a slot's index. -/
theorem slot_index : (64 * r.val + slot.val) / 64 = r.val ∧ (64 * r.val + slot.val) % 64 = slot.val ∧ 64 * r.val + slot.val < 512 := by
  omega

theorem storeRoster_empty (t : Vector (Vector (Option RosterEntry) 64) 8) (bytes : List Byte) :
    storeRoster t ⟨64 * r.val + slot.val, 0xFE, bytes⟩ = .ok (t.set r (t[r].set slot none), false) := by
  obtain ⟨row, place, inside⟩ := slot_index r slot
  simp only [storeRoster, dif_pos inside, if_true, row, place, modify]

theorem storeRoster_entry (t : Vector (Vector (Option RosterEntry) 64) 8) {bytes : List Byte} {e : RosterEntry} {c : Bool}
    (h : readRosterEntry bytes = some (e, c)) : storeRoster t ⟨64 * r.val + slot.val, 0xFF, bytes⟩ =
      if heldElsewhere t[r] slot e.position then .error .duplicate else .ok (t.set r (t[r].set slot (some e)), c) := by
  obtain ⟨row, place, inside⟩ := slot_index r slot
  simp only [storeRoster, dif_pos inside, row, place, modify, h, show (0xFF : Nat) ≠ 0xFE by decide, if_false]

theorem heldElsewhere_iff {row : Vector (Option RosterEntry) 64} {p : Pos} :
    heldElsewhere row slot p = true ↔ ∃ other, other ≠ slot ∧ (row[other]).map (·.position) = some p := by
  simp [heldElsewhere, List.any_eq_true]

end Rosters

section RosterWrites
variable {s : State} {r : Fin 8} {slot : Fin 64}

/-- The roster with its slot set. -/
def State.rosterSet (s : State) (r : Fin 8) (slot : Fin 64) (x : Option RosterEntry) : State :=
  { s with cal := { s.cal with rosters := s.cal.rosters.set r (s.cal.rosters[r].set slot x) } }

theorem State.rosterSet_keeps (x : Option RosterEntry) : s.keeps (s.rosterSet r slot x) [.cal] := by
  intro p hp
  cases p <;> simp_all [State.agrees, State.rosterSet]

theorem State.writeRosters_entry (s : State) (r : Fin 8) (slot : Fin 64) {e : RosterEntry} (hn : e.name.length ≤ 24)
    (ht : takeIn e.name = e.name) (hl : ∀ l, e.limit = some l → l ≤ 3600) :
    s.writeRosters (64 * r.val + slot.val) 0xFF e.written =
      if heldElsewhere s.cal.rosters[r] slot e.position then fail s .duplicate else done (s.rosterSet r slot (some e)) := by
  have whole : takeParts [] [.fixed 1, .text, .fixed 4] e.written = .value e.written [] := by
    have last : be8 e.key.val ++ be8 e.role.code ++ be16 (e.limit.getD 0xFFFF) =
        be8 e.key.val ++ be8 e.role.code ++ be16 (e.limit.getD 0xFFFF) ++ [] := (List.append_nil _).symm
    rw [e.written_split, takeParts_fixed (bs := be8 e.position.val) (n := 1) _ _ _ rfl, takeParts_text _ _ _ (by omega), last,
      takeParts_fixed (bs := be8 e.key.val ++ be8 e.role.code ++ be16 (e.limit.getD 0xFFFF)) (n := 4) _ _ _ rfl, takeParts]
    simp
  rw [State.writeRosters, takeValues_whole (by simp only [lastIndex]; omega) (by simp [valueShape]) whole (by simp [RosterEntry.written, be8]),
    storeAll_one, storeRoster_entry r slot _ (readRosterEntry_written hn ht hl)]
  split <;> rfl

theorem State.writeRosters_empty (s : State) (r : Fin 8) (slot : Fin 64) (b : Byte) :
    s.writeRosters (64 * r.val + slot.val) 0xFE [b] = done (s.rosterSet r slot none) := by
  rw [State.writeRosters, takeValues_one (k := 1) (by simp only [lastIndex]; omega) (by simp [valueShape]) rfl (by decide),
    storeAll_one, storeRoster_empty]
  rfl

/-- A slot takes an entry whose position no other slot of the roster holds. -/
theorem rosterWrite_takes {e : RosterEntry} (hn : e.name.length ≤ 24) (ht : takeIn e.name = e.name) (hl : ∀ l, e.limit = some l → l ≤ 3600)
    (hr : s.reaches (.rosterWrite (BitVec.ofNat 16 (64 * r.val + slot.val)) 0xFF e.written) = true) :
    ∃ t, exec (.rosterWrite (BitVec.ofNat 16 (64 * r.val + slot.val)) 0xFF e.written) s = .next t ∧
      ((∃ other, other ≠ slot ∧ ((s.cal.rosters[r])[other]).map (·.position) = some e.position) → s.fails t .duplicate) ∧
      ((∀ other, other ≠ slot → ((s.cal.rosters[r])[other]).map (·.position) ≠ some e.position) →
        s.keeps t (.cal :: opPieces) ∧ s.answered t .ok ∧ t.cal = (s.rosterSet r slot (some e)).cal) := by
  obtain ⟨t, next, fails, answers⟩ := State.reaches_ends hr rfl rfl rfl
  have owner := s.writeRosters_entry r slot hn ht hl
  rw [← ofNat16_slot] at owner
  refine ⟨t, next, fun held => fails _ (owner.trans (if_pos ((heldElsewhere_iff slot).2 held))) rfl, fun free => ?_⟩
  have none : ¬ heldElsewhere s.cal.rosters[r] slot e.position = true := fun held => by
    obtain ⟨other, ne, same⟩ := (heldElsewhere_iff slot).1 held
    exact free other ne same
  obtain ⟨answered, after⟩ := answers _ _ _ (owner.trans (if_neg none)) (State.rosterSet_keeps _) (by decide) (by decide) (.of_eq rfl)
  exact ⟨State.keeps_trans (State.keeps_mono (State.rosterSet_keeps _) (by decide)) (State.keeps_mono after (by decide)), answered,
    after .cal (by decide)⟩

/-- The empty form empties a slot (log 13). -/
theorem rosterWrite_empties (b : Byte) (hr : s.reaches (.rosterWrite (BitVec.ofNat 16 (64 * r.val + slot.val)) 0xFE [b]) = true) :
    ∃ t, exec (.rosterWrite (BitVec.ofNat 16 (64 * r.val + slot.val)) 0xFE [b]) s = .next t ∧
      s.keeps t (.cal :: opPieces) ∧ s.answered t .ok ∧ t.cal = (s.rosterSet r slot none).cal := by
  obtain ⟨t, next, -, answers⟩ := State.reaches_ends hr rfl rfl rfl
  have owner := s.writeRosters_empty r slot b
  rw [← ofNat16_slot] at owner
  obtain ⟨answered, after⟩ := answers _ _ _ owner (State.rosterSet_keeps _) (by decide) (by decide) (.of_eq rfl)
  exact ⟨t, next, State.keeps_trans (State.keeps_mono (State.rosterSet_keeps _) (by decide)) (State.keeps_mono after (by decide)), answered,
    after .cal (by decide)⟩

end RosterWrites

/-- Settles O46: the bytes of a value are read back as the template or the entry that they carry. -/
theorem templatesAndRostersTakeTheirValues : Obligations.TemplatesAndRostersTakeTheirValues :=
  ⟨fun _ n _ _ h hr hi => templateWrite_takes n h hr hi, fun _ _ _ _ hn ht hl hr => rosterWrite_takes hn ht hl hr,
    fun _ _ _ b hr => rosterWrite_empties b hr⟩

end Sys2Proof.Machine

namespace Sys2Proof.Machine

/-! ## The bytes of a booking record (03 R48, 12 R198) -/

section Record
variable {b : Booking}

/-- The fields of a record before its title. -/
def Booking.fields (b : Booking) : List Byte :=
  be32 b.start ++ be16 b.duration ++ be16 b.grace ++ be8 b.key.val ++ be8 b.chair.val
    ++ be8 ((b.roster.map (·.val)).getD 0xFF) ++ be8 b.mode.code ++ be8 b.maxOpen ++ be16 b.speakLimit
    ++ be8 b.limitAction.code ++ be8 b.flags

theorem Booking.written_fields (b : Booking) : b.written = b.fields ++ textBytes b.title := rfl

theorem Booking.fields_length (b : Booking) : b.fields.length = 17 := rfl

theorem rosterOf_held (r : Option (Fin 8)) : rosterOf ((r.map (·.val)).getD 0xFF) = some r := by
  cases r with
  | none => rfl
  | some i => simp [rosterOf]

theorem Mode.ofCode_code (m : Mode) : Mode.ofCode m.code = some m := by cases m <;> rfl

theorem LimitAction.ofCode_code (a : LimitAction) : LimitAction.ofCode a.code = some a := by cases a <;> rfl

theorem rosterCode_lt (r : Option (Fin 8)) : (r.map (·.val)).getD 0xFF < 256 := by
  cases r with
  | none => decide
  | some i => exact i.isLt.trans (by decide)

/-- The bytes of each field of a record. -/
theorem bookingBytes_read (b : Booking) :
    field b.written 0 4 = number (be32 b.start) ∧ field b.written 4 2 = number (be16 b.duration) ∧
      field b.written 6 2 = number (be16 b.grace) ∧ field b.written 8 1 = number (be8 b.key.val) ∧
      field b.written 9 1 = number (be8 b.chair.val) ∧ field b.written 10 1 = number (be8 ((b.roster.map (·.val)).getD 0xFF)) ∧
      field b.written 11 1 = number (be8 b.mode.code) ∧ field b.written 12 1 = number (be8 b.maxOpen) ∧
      field b.written 13 2 = number (be16 b.speakLimit) ∧ field b.written 15 1 = number (be8 b.limitAction.code) ∧
      field b.written 16 1 = number (be8 b.flags) ∧ b.written.drop 18 = b.title :=
  ⟨rfl, rfl, rfl, rfl, rfl, rfl, rfl, rfl, rfl, rfl, rfl, rfl⟩

/-- A record within its ranges is read back. -/
theorem readBooking_written (h : b.inRange) : readBooking b.number b.written = some (b, false) := by
  obtain ⟨-, -, start, shortest, longest, grace, least, most, limit, length, printed, waits⟩ := h
  obtain ⟨flags, guest, room⟩ := b.flags_bits
  obtain ⟨startRead, durationRead, graceRead, keyRead, chairRead, rosterRead, modeRead, maxOpenRead, limitRead, actionRead, flagsRead,
    titleRead⟩ := bookingBytes_read b
  rw [number_be32 start] at startRead
  rw [number_be16 (by omega)] at durationRead graceRead limitRead
  rw [number_be8 (by omega)] at keyRead chairRead maxOpenRead flagsRead
  rw [number_be8 (by cases b.mode <;> decide)] at modeRead
  rw [number_be8 (by cases b.limitAction <;> decide)] at actionRead
  rw [number_be8 (rosterCode_lt b.roster)] at rosterRead
  have held : keyOf b.key.val = some b.key := by simp [keyOf]
  have clamped : clampTo 5 1440 b.duration = b.duration ∧ clampTo 1 6 b.maxOpen = b.maxOpen ∧ min 30 b.grace = b.grace ∧
      min 3600 b.speakLimit = b.speakLimit := by
    simp only [clampTo]
    omega
  obtain ⟨within, opens, grace'', limit''⟩ := clamped
  have taken : b.title.take 32 = b.title := List.take_of_length_le length
  simp only [readBooking, startRead, durationRead, graceRead, keyRead, chairRead, rosterRead, modeRead, maxOpenRead, limitRead, actionRead,
    flagsRead, titleRead, printed, held, seatOf_val, rosterOf_held, Mode.ofCode_code, LimitAction.ofCode_code, within, opens, grace'', limit'', taken, guest, room,
    show ¬ 3 < b.flags by omega, show ¬ 32 < b.title.length by omega, if_false, bne_self_eq_false, decide_false, Bool.or_false]
  cases b
  simp only at waits
  rw [waits]

/-- The record taken whole, behind `front` bytes of its own. -/
theorem takeParts_record (h : b.title.length ≤ 32) (front : List Byte) {n : Nat} (hn : front.length + 17 = n) :
    takeParts [] [.fixed n, .text] (front ++ b.written) = .value (front ++ b.written) [] := by
  have whole : front ++ b.written = (front ++ b.fields) ++ (textBytes b.title ++ []) := by
    rw [b.written_fields, List.append_nil, List.append_assoc]
  rw [whole, takeParts_fixed _ _ _ (by rw [List.length_append, b.fields_length, hn]), takeParts_text _ _ _ (by omega), takeParts]
  simp

end Record

/-! ## The place of a record (03 R48, R49) -/

section Place
variable {now : Nat} {b r : Booking} {bs before after : List Booking} {v : Value}

/-- A record is placed behind those that start no later. -/
theorem placeBooking_ordered (b : Booking) (l : List Booking) : ∃ before after, l = before ++ after ∧
    placeBooking b l = before ++ b :: after ∧ (∀ x ∈ before, x.start ≤ b.start) ∧ ∀ x ∈ after.head?, b.start ≤ x.start := by
  induction l with
  | nil => exact ⟨[], [], rfl, rfl, by simp, by simp⟩
  | cons x xs ih =>
    by_cases hp : b.precedes x = true
    · refine ⟨[], x :: xs, rfl, by rw [placeBooking, if_pos hp]; rfl, by simp, fun y hy => ?_⟩
      obtain rfl : x = y := by simpa using hy
      simp only [Booking.precedes, Bool.or_eq_true, Bool.and_eq_true, decide_eq_true_eq] at hp
      omega
    · obtain ⟨front, back, split, placed, early, late⟩ := ih
      refine ⟨x :: front, back, by rw [split]; rfl, by rw [placeBooking, if_neg hp, placed]; rfl, fun y hy => ?_, late⟩
      rcases List.mem_cons.1 hy with rfl | hy
      · simp only [Booking.precedes, Bool.or_eq_true, Bool.and_eq_true, decide_eq_true_eq] at hp
        omega
      · exact early y hy

/-- An insert of a record within its ranges (03 R48). -/
theorem insertBooking_written (h : b.inRange) (index fld : Nat) : insertBooking now bs ⟨index, fld, be16 b.number ++ b.written⟩ =
    if bs.any fun r => r.number = b.number then .error .duplicate
    else if 32 ≤ bs.length then .error .full
    else match b.conflict now bs with
      | some e => .error e
      | none => .ok (placeBooking b bs, false) := by
  have num : field (be16 b.number ++ b.written) 0 2 = b.number := number_be16 h.2.1
  have record : (be16 b.number ++ b.written).drop 2 = b.written := rfl
  cases hc : b.conflict now bs <;> simp only [hc, insertBooking, num, record, readBooking_written h, show ¬ b.number = 0 by have := h.1; omega, if_false]

theorem conflict_past (h : b.finish ≤ now) : b.conflict now bs = some .past := if_pos h

theorem conflict_overlap (h : now < b.finish) (hs : ∃ x ∈ bs, sharesMinute b.start b.finish x.start x.finish = true) :
    b.conflict now bs = some .overlap := by
  rw [Booking.conflict, if_neg (by omega), if_pos (by simpa [List.any_eq_true] using hs)]

theorem conflict_free (h : now < b.finish) (hs : ∀ x ∈ bs, sharesMinute b.start b.finish x.start x.finish = false) :
    b.conflict now bs = none := by
  rw [Booking.conflict, if_neg (by omega), if_neg (by simpa [List.any_eq_true] using hs)]

/-- Two windows share a minute where some minute lies in both. -/
theorem sharesMinute_iff (a b : Booking) : sharesMinute a.start a.finish b.start b.finish = true ↔
    ∃ m, a.start ≤ m ∧ m < a.start + a.duration ∧ b.start ≤ m ∧ m < b.start + b.duration := by
  rw [sharesMinute_eq, decide_eq_true_eq]
  refine ⟨fun h => ⟨max a.start b.start, by omega⟩, fun ⟨m, h⟩ => by omega⟩

theorem find_only (hr : r.number = n) (hn : ∀ x ∈ before ++ after, x.number ≠ n) :
    (before ++ r :: after).find? (fun x => x.number = n) = some r := by
  rw [List.find?_append, List.find?_eq_none.2 fun x hx => by simpa using hn x (by simp [hx]), List.find?_cons_of_pos (by simpa using hr)]
  rfl

theorem filter_only (hr : r.number = n) (hn : ∀ x ∈ before ++ after, x.number ≠ n) :
    (before ++ r :: after).filter (fun x => x.number ≠ n) = before ++ after := by
  rw [List.filter_append, List.filter_cons_of_neg (by simpa using hr), ← List.filter_append, List.filter_eq_self.2]
  exact fun x hx => by simpa using hn x hx

/-- A change of the one record of its number (03 R49). -/
theorem changeBooking_written (h : b.inRange) (hr : r.number = b.number) (hn : ∀ x ∈ before ++ after, x.number ≠ b.number) :
    changeBooking now (before ++ r :: after) ⟨b.number, 0xFF, b.written⟩ =
      if r.active then .error .active
      else match b.conflict now (before ++ after) with
        | some e => .error e
        | none => .ok (placeBooking b (before ++ after), false) := by
  cases hc : b.conflict now (before ++ after) <;>
    simp only [hc, changeBooking, find_only hr hn, readBooking_written h, replaceBooking, filter_only hr hn, show (0xFF : Nat) ≠ 0xFE by decide,
    show (0xFF : Nat) ≠ 0x10 by decide, if_false]

theorem changeBooking_delete {n : Nat} (hr : r.number = n) (hn : ∀ x ∈ before ++ after, x.number ≠ n) (bytes : List Byte) :
    changeBooking now (before ++ r :: after) ⟨n, 0xFE, bytes⟩ = if r.active then .error .active else .ok (before ++ after, false) := by
  simp only [changeBooking, find_only hr hn, filter_only hr hn, if_true]

/-- A number that names no record. -/
theorem changeBooking_none (hn : ∀ x ∈ bs, x.number ≠ v.index) : changeBooking now bs v = .error .badIndex := by
  have none : bs.find? (fun x => x.number = v.index) = .none := List.find?_eq_none.2 fun x hx => by simpa using hn x hx
  simp only [changeBooking, none]

end Place

end Sys2Proof.Machine

namespace Sys2Proof.Machine

/-! ## BOOKING_INSERT, BOOKING_CHANGE and BOOKING_DELETE (03 R48, R49) -/

section Commands
variable {s t : State} {b r : Booking} {before after : List Booking}

/-- The state with another table, in which nothing has been evaluated. -/
def State.withBookings (s : State) (bs : List Booking) : State := { s with cal := { s.cal with bookings := bs } }

theorem State.withBookings_keeps (bs : List Booking) : s.keeps (s.withBookings bs) [.cal] := by
  intro p hp
  cases p <;> simp_all [State.agrees, State.withBookings]

theorem number_toNat (h : b.inRange) : (BitVec.ofNat 16 b.number).toNat = b.number := by
  rw [BitVec.toNat_ofNat, Nat.mod_eq_of_lt h.2.1]

/-- A write of one value of BOOKINGS, whole. -/
theorem State.writeBookings_one {index fld : Nat} {parts : List Part} {vals : List Byte} (hi : index < 65536)
    (hs : valueShape .bookings index fld = some parts) (ht : takeParts [] parts vals = .value vals []) (hne : vals ≠ []) :
    s.writeBookings index fld vals = accept s (storeBooking s.clock.now.minute s.cal.bookings ⟨index, fld, vals⟩)
      fun bs => (s.withBookings bs).evaluate := by
  rw [State.writeBookings, takeValues_whole (by simp only [lastIndex]; omega) hs ht hne, storeAll_one]
  rfl

theorem State.writeBookings_insert (h : b.inRange) : s.writeBookings 0 0xFF (be16 b.number ++ b.written) =
    if s.cal.bookings.any fun r => r.number = b.number then fail s .duplicate
    else if 32 ≤ s.cal.bookings.length then fail s .full
    else match b.conflict s.clock.now.minute s.cal.bookings with
      | some e => fail s e
      | none => done (s.withBookings (placeBooking b s.cal.bookings)).evaluate := by
  obtain ⟨-, -, -, -, -, -, -, -, -, length, -⟩ := id h
  rw [State.writeBookings_one (by decide) (by decide) (takeParts_record (n := 19) length (be16 b.number) rfl) (by simp [be16]), storeBooking,
    if_pos rfl, if_pos rfl, insertBooking_written h]
  cases hc : b.conflict s.clock.now.minute s.cal.bookings <;> simp only <;> split <;> (try split) <;> rfl

theorem State.writeBookings_change (h : b.inRange) (hb : s.cal.bookings = before ++ r :: after) (hr : r.number = b.number)
    (hn : ∀ x ∈ before ++ after, x.number ≠ b.number) : s.writeBookings b.number 0xFF b.written =
    if r.active then fail s .active
    else match b.conflict s.clock.now.minute (before ++ after) with
      | some e => fail s e
      | none => done (s.withBookings (placeBooking b (before ++ after))).evaluate := by
  obtain ⟨positive, small, -, -, -, -, -, -, -, length, -⟩ := id h
  have shape : valueShape .bookings b.number 0xFF = some [.fixed 17, .text] := by
    rw [valueShape, if_pos rfl, if_neg (by omega)]
  have whole : takeParts [] [.fixed 17, .text] b.written = .value b.written [] := takeParts_record length [] rfl
  rw [State.writeBookings_one small shape whole (by simp [Booking.written, be32, be16]), storeBooking,
    if_neg positive.ne', hb, changeBooking_written h hr hn]
  cases hc : b.conflict s.clock.now.minute (before ++ after) <;> simp only <;> split <;> rfl

theorem State.writeBookings_delete (h0 : 0 < r.number) (hl : r.number < 65536) (hb : s.cal.bookings = before ++ r :: after)
    (hn : ∀ x ∈ before ++ after, x.number ≠ r.number) (x : Byte) : s.writeBookings r.number 0xFE [x] =
    if r.active then fail s .active else done (s.withBookings (before ++ after)).evaluate := by
  rw [State.writeBookings_one hl (parts := [.fixed 1]) (by simp [valueShape]) rfl (by simp), storeBooking, if_neg h0.ne', hb,
    changeBooking_delete rfl hn]
  split <;> rfl

/-- An accepted write of the table causes an evaluation (03 R52). -/
theorem State.Settles.ofBookings {owner : State → OpResult} {bs : List Booking}
    (ho : owner s = done (s.withBookings bs).evaluate)
    (answers : ∀ v c l, owner s = done v c → s.keeps v l → .mgmt ∉ l → .tables ∉ l → s.Sends v →
      s.answered t (okOr c) ∧ v.keeps t opPieces) :
    s.keeps t (sessionPieces ++ opPieces) ∧ s.answered t .ok ∧ (s.withBookings bs).Settles t := by
  have kept : s.keeps (s.withBookings bs).evaluate sessionPieces :=
    State.keeps_trans (State.keeps_mono (State.withBookings_keeps bs) (by decide)) (State.evaluate_keeps _)
  obtain ⟨answered, ended⟩ := answers _ _ _ ho kept (by decide) (by decide) ((State.evaluate_sends _).from rfl)
  exact ⟨State.keeps_trans (State.keeps_mono kept (by decide)) (State.keeps_mono ended (by decide)), answered,
    (State.evaluate_settles _).after ended (by decide)⟩

/-- BOOKING_INSERT (03 R48). -/
theorem bookingInsert_inserts (h : b.inRange) (hr : s.reaches (.bookingInsert (be16 b.number ++ b.written)) = true) :
    let shares := fun r : Booking =>
      ∃ m, b.start ≤ m ∧ m < b.start + b.duration ∧ r.start ≤ m ∧ m < r.start + r.duration
    ∃ t, exec (.bookingInsert (be16 b.number ++ b.written)) s = .next t ∧
      ((∃ r ∈ s.cal.bookings, r.number = b.number) → s.fails t .duplicate) ∧
      ((∀ r ∈ s.cal.bookings, r.number ≠ b.number) →
        (32 ≤ s.cal.bookings.length → s.fails t .full) ∧
        (s.cal.bookings.length < 32 →
          (b.start + b.duration ≤ s.clock.now.minute → s.fails t .past) ∧
          (s.clock.now.minute < b.start + b.duration →
            ((∃ r ∈ s.cal.bookings, shares r) → s.fails t .overlap) ∧
            ((∀ r ∈ s.cal.bookings, ¬ shares r) → s.keeps t (sessionPieces ++ opPieces) ∧ s.answered t .ok ∧
              ∃ before after, s.cal.bookings = before ++ after ∧
                (∀ r ∈ before, r.start ≤ b.start) ∧ (∀ r ∈ after.head?, b.start ≤ r.start) ∧
                (s.withBookings (before ++ b :: after)).Settles t)))) := by
  intro shares
  obtain ⟨t, next, fails, answers⟩ := State.reaches_ends hr rfl rfl rfl
  have owner := State.writeBookings_insert (s := s) h
  refine ⟨t, next, fun held => ?_, fun fresh => ?_⟩
  · exact fails _ (owner.trans (if_pos (by simpa [List.any_eq_true] using held))) rfl
  · replace owner := owner.trans (if_neg (by simpa [List.any_eq_true] using fresh))
    refine ⟨fun full => fails _ (owner.trans (if_pos full)) rfl, fun room => ?_⟩
    replace owner := owner.trans (if_neg (by omega))
    refine ⟨fun past => ?_, fun future => ⟨fun shared => ?_, fun apart => ?_⟩⟩
    · rw [conflict_past past] at owner
      exact fails _ owner rfl
    · obtain ⟨x, hx, hm⟩ := shared
      rw [conflict_overlap future ⟨x, hx, (sharesMinute_iff b x).2 hm⟩] at owner
      exact fails _ owner rfl
    · rw [conflict_free future fun x hx => Bool.eq_false_iff.2 fun k => apart x hx ((sharesMinute_iff b x).1 k)] at owner
      obtain ⟨before, after, split, placed, early, late⟩ := placeBooking_ordered b s.cal.bookings
      rw [placed] at owner
      obtain ⟨keeps, answered, settles⟩ := State.Settles.ofBookings owner answers
      exact ⟨keeps, answered, before, after, split, early, late, settles⟩

/-- BOOKING_CHANGE of a record that waits, and of the ACTIVE one (03 R49). -/
theorem bookingChange_changes (h : b.inRange) (hb : s.cal.bookings = before ++ r :: after) (hr : r.number = b.number)
    (hn : ∀ x ∈ before ++ after, x.number ≠ b.number)
    (hreach : s.reaches (.bookingChange (BitVec.ofNat 16 b.number) 0xFF b.written) = true) :
    ∃ t, exec (.bookingChange (BitVec.ofNat 16 b.number) 0xFF b.written) s = .next t ∧
      (r.active = true → s.fails t .active) ∧
      (r.active = false → b.start + b.duration ≤ s.clock.now.minute → s.fails t .past) ∧
      (r.active = false → s.clock.now.minute < b.start + b.duration →
        (∃ x ∈ before ++ after, x.start < b.start + b.duration ∧ b.start < x.start + x.duration) →
        (∀ x ∈ before ++ after, 0 < x.duration) → s.fails t .overlap) ∧
      (r.active = false → s.clock.now.minute < b.start + b.duration →
        (∀ x ∈ before ++ after, x.start + x.duration ≤ b.start ∨ b.start + b.duration ≤ x.start) →
        s.keeps t (sessionPieces ++ opPieces) ∧ s.answered t .ok ∧
        ∃ front back, before ++ after = front ++ back ∧
          (∀ x ∈ front, x.start ≤ b.start) ∧ (∀ x ∈ back.head?, b.start ≤ x.start) ∧
          (s.withBookings (front ++ b :: back)).Settles t) := by
  obtain ⟨t, next, fails, answers⟩ := State.reaches_ends hreach rfl rfl rfl
  have owner := State.writeBookings_change h hb hr hn
  have long : 0 < b.duration := by
    obtain ⟨-, -, -, shortest, -⟩ := h
    omega
  rw [← number_toNat h] at owner
  refine ⟨t, next, fun active => fails _ (owner.trans (if_pos active)) rfl, fun waits past => ?_, fun waits future shared lengths => ?_,
    fun waits future apart => ?_⟩
  all_goals replace owner := owner.trans (if_neg (by rw [waits]; decide))
  · rw [conflict_past past] at owner
    exact fails _ owner rfl
  · obtain ⟨x, hx, ends, starts⟩ := shared
    have live := lengths x hx
    rw [conflict_overlap future ⟨x, hx, by rw [sharesMinute_eq, decide_eq_true_eq]; omega⟩] at owner
    exact fails _ owner rfl
  · rw [conflict_free future fun x hx => by
      have := apart x hx
      rw [sharesMinute_eq, decide_eq_false_iff_not]
      omega] at owner
    obtain ⟨front, back, split, placed, early, late⟩ := placeBooking_ordered b (before ++ after)
    rw [placed] at owner
    obtain ⟨keeps, answered, settles⟩ := State.Settles.ofBookings owner answers
    exact ⟨keeps, answered, front, back, split, early, late, settles⟩

/-- BOOKING_DELETE, whose one byte is ignored (log 13). -/
theorem bookingDelete_deletes (x : Byte) (h0 : 0 < r.number) (hl : r.number < 65536) (hb : s.cal.bookings = before ++ r :: after)
    (hn : ∀ y ∈ before ++ after, y.number ≠ r.number)
    (hreach : s.reaches (.bookingDelete (BitVec.ofNat 16 r.number) [x]) = true) :
    ∃ t, exec (.bookingDelete (BitVec.ofNat 16 r.number) [x]) s = .next t ∧
      (r.active = true → s.fails t .active) ∧
      (r.active = false → s.keeps t (sessionPieces ++ opPieces) ∧ s.answered t .ok ∧
        (s.withBookings (before ++ after)).Settles t) := by
  obtain ⟨t, next, fails, answers⟩ := State.reaches_ends hreach rfl rfl rfl
  have owner := State.writeBookings_delete h0 hl hb hn x
  have index : (BitVec.ofNat 16 r.number).toNat = r.number := by rw [BitVec.toNat_ofNat, Nat.mod_eq_of_lt hl]
  rw [← index] at owner
  refine ⟨t, next, fun active => fails _ (owner.trans (if_pos active)) rfl, fun waits => ?_⟩
  exact State.Settles.ofBookings (owner.trans (if_neg (by rw [waits]; decide))) answers

/-- A number that names no record (03 R49). -/
theorem bookingWrite_badIndex {i : Instr} (n : BitVec 16) (x : Byte) (h0 : n ≠ 0) (h : b.inRange)
    (hn : ∀ r ∈ s.cal.bookings, r.number ≠ n.toNat) (hi : i = .bookingDelete n [x] ∨ i = .bookingChange n 0xFF b.written)
    (hr : s.reaches i = true) : ∃ t, exec i s = .next t ∧ s.fails t .badIndex := by
  obtain ⟨-, -, -, -, -, -, -, -, -, length, -⟩ := id h
  have named : n.toNat ≠ 0 := fun e => h0 (BitVec.eq_of_toNat_eq e)
  have none : ∀ fld bytes, accept s (storeBooking s.clock.now.minute s.cal.bookings ⟨n.toNat, fld, bytes⟩)
      (fun bs => (s.withBookings bs).evaluate) = fail s .badIndex := fun fld bytes => by
    rw [storeBooking, if_neg named, changeBooking_none hn]
    rfl
  rcases hi with rfl | rfl
  · obtain ⟨t, next, fails, -⟩ := State.reaches_ends hr rfl rfl rfl
    exact ⟨t, next, fails _ ((State.writeBookings_one n.isLt (parts := [.fixed 1]) (by simp [valueShape]) rfl (by simp)).trans (none _ _)) rfl⟩
  · obtain ⟨t, next, fails, -⟩ := State.reaches_ends hr rfl rfl rfl
    have shape : valueShape .bookings n.toNat 0xFF = some [.fixed 17, .text] := by rw [valueShape, if_pos rfl, if_neg named]
    have whole : takeParts [] [.fixed 17, .text] b.written = .value b.written [] := takeParts_record length [] rfl
    exact ⟨t, next, fails _ ((State.writeBookings_one n.isLt shape whole (by simp [Booking.written, be32, be16])).trans (none _ _)) rfl⟩

/-- Settles O53: the refusals in their order, the place of the record, and the evaluation of the table that is left. -/
theorem bookingsAreInsertedChangedAndDeleted : Obligations.BookingsAreInsertedChangedAndDeleted :=
  ⟨fun _ _ ht h => (step_safe h).table ht, fun _ _ h hr => bookingInsert_inserts h hr,
    fun _ _ _ _ _ h hb hr hn hreach => bookingChange_changes h hb hr hn hreach,
    fun _ _ _ _ x h0 hl hb hn hreach => bookingDelete_deletes x h0 hl hb hn hreach,
    fun _ _ _ n x h0 h hn hi hr => bookingWrite_badIndex n x h0 h hn hi hr⟩

end Commands

end Sys2Proof.Machine

namespace Sys2Proof.Machine

/-! ## EXTEND (03 R61) -/

section Extend
variable {s t : State} {b : Booking} {before after : List Booking}

theorem activeBooking_only (hl : s.cal.bookings = before ++ b :: after) (ha : b.active = true)
    (hw : ∀ x ∈ before ++ after, x.active = false) : s.activeBooking = some b := by
  rw [State.activeBooking, hl]
  exact find_active ha fun x hx => hw x (by simp [hx])

/-- EXTEND while the session runs. -/
theorem State.extendAction_runs (hr : s.cal.session.runs = true) (hb : s.activeBooking = some b) (minutes : Byte) :
    s.extendAction minutes =
      let m := clampTo 1 120 minutes.toNat
      let e := min m (1440 - b.duration)
      if e = 0 then done s true
      else if s.passesNext (b.finish + e) then fail s .overlap
      else done ((s.lengthen e).evaluate) (m != minutes.toNat || e != m) := by
  cases hs : s.cal.session <;> simp only [State.extendAction, hs, hb] <;> simp [hs, Session.runs] at hr

theorem State.lengthen_eq (hl : s.cal.bookings = before ++ b :: after) (ha : b.active = true)
    (hw : ∀ x ∈ before ++ after, x.active = false) (e : Nat) :
    s.lengthen e = s.withBookings (before ++ { b with duration := b.duration + e } :: after) := by
  rw [← State.lengthen_bookings hl ha hw e]
  rfl

/-- An end that lies ahead returns GRACE to IN_SESSION (03 R56). -/
theorem State.evaluate_returns (hs : s.cal.session = .grace) (hy : s.clock.sync ≠ .unsynced) (hb : s.activeBooking = some b)
    (hf : s.clock.now.minute < b.finish) : s.evaluate.cal.session = .inSession ∧ s.evaluate.cal.graceEnd = none := by
  have tests : s.evaluate = s.removeMissed.testEnd := by simp only [State.evaluate, hs, if_neg hy]
  have session : s.removeMissed.cal.session = .grace := by rw [s.removeMissed_cal, hs]
  have active : s.removeMissed.activeBooking = some b := s.removeMissed_active.trans hb
  have clock : s.removeMissed.clock = s.clock := s.removeMissed_rest .clock (by decide)
  have returns : s.removeMissed.testEnd =
      State.autoAdvance { s.removeMissed with cal := { s.removeMissed.cal with session := .inSession, graceEnd := none } } := by
    simp only [State.testEnd, active, session, clock, if_pos hf]
  rw [tests, returns, State.autoAdvance_keeps _ .cal (by decide)]
  exact ⟨rfl, rfl⟩

/-- EXTEND outside a session. -/
theorem extend_noSession (minutes : Byte) (hr : s.reaches (.extend minutes) = true) :
    ∃ t, exec (.extend minutes) s = .next t ∧ (s.cal.session = .closing → s.fails t .active) ∧
      (s.cal.session = .vacant ∨ s.cal.session = .armed → s.fails t .noSession) := by
  obtain ⟨t, next, fails, -⟩ := State.reaches_ends hr rfl rfl rfl
  refine ⟨t, next, fun hs => fails _ ?_ rfl, fun hs => fails _ ?_ rfl⟩
  · simp only [State.extendAction, hs]
  · rcases hs with hs | hs <;> simp only [State.extendAction, hs]

/-- EXTEND of the session that runs. -/
theorem extend_lengthens (minutes : Byte) (hr : s.reaches (.extend minutes) = true)
    (hs : s.cal.session = .inSession ∨ s.cal.session = .grace) (hl : s.cal.bookings = before ++ b :: after) (ha : b.active = true)
    (hw : ∀ x ∈ before ++ after, x.active = false) :
    let n := max 1 (min 120 minutes.toNat)
    let e := min n (1440 - b.duration)
    ∃ t, exec (.extend minutes) s = .next t ∧
      (e = 0 → s.answered t .clamped ∧ s.keeps t opPieces) ∧
      (∀ x, s.nextBooking = some x → 0 < e → x.start < b.start + b.duration + e → s.fails t .overlap) ∧
      (0 < e → (∀ x, s.nextBooking = some x → b.start + b.duration + e ≤ x.start) →
        s.answered t (if n = minutes.toNat ∧ e = n then .ok else .clamped) ∧ s.keeps t (sessionPieces ++ opPieces) ∧
        (s.withBookings (before ++ { b with duration := b.duration + e } :: after)).Settles t ∧
        (s.clock.sync ≠ .unsynced → s.cal.session = .grace → s.clock.now.minute < b.start + b.duration + e →
          t.cal.session = .inSession ∧ t.cal.graceEnd = none)) := by
  intro n e
  have runs : s.cal.session.runs = true := by rcases hs with hs | hs <;> rw [hs] <;> rfl
  obtain ⟨t, next, fails, answers⟩ := State.reaches_ends hr rfl rfl rfl
  have owner : s.extendAction minutes = if e = 0 then done s true
      else if s.passesNext (b.finish + e) then fail s .overlap
      else done ((s.lengthen e).evaluate) (n != minutes.toNat || e != n) := s.extendAction_runs runs (activeBooking_only hl ha hw) minutes
  refine ⟨t, next, fun h0 => answers _ _ [] (owner.trans (if_pos h0)) (s.keeps_refl _) (by decide) (by decide) (.of_eq rfl),
    fun x hx h0 hp => ?_, fun h0 hp => ?_⟩
  · exact fails _ (owner.trans ((if_neg h0.ne').trans (if_pos ((s.passesNext_iff _).2 ⟨x, hx, hp⟩)))) rfl
  · have stays : ¬ s.passesNext (b.finish + e) = true := fun k => by
      obtain ⟨x, hx, late⟩ := (s.passesNext_iff _).1 k
      have early := hp x hx
      simp only [Booking.finish] at late
      omega
    replace owner := owner.trans ((if_neg h0.ne').trans (if_neg stays))
    rw [State.lengthen_eq hl ha hw] at owner
    have kept : s.keeps (s.withBookings (before ++ { b with duration := b.duration + e } :: after)).evaluate sessionPieces :=
      State.keeps_trans (State.keeps_mono (State.withBookings_keeps _) (by decide)) (State.evaluate_keeps _)
    obtain ⟨answered, ended⟩ := answers _ _ _ owner kept (by decide) (by decide) ((State.evaluate_sends _).from rfl)
    rw [okOr_changed] at answered
    refine ⟨answered, State.keeps_trans (State.keeps_mono kept (by decide)) (State.keeps_mono ended (by decide)),
      (State.evaluate_settles _).after ended (by decide), fun hy hg hf => ?_⟩
    have cal : t.cal = _ := ended .cal (by decide)
    rw [cal]
    refine State.evaluate_returns (b := { b with duration := b.duration + e }) hg hy ?_
      (show s.clock.now.minute < b.start + (b.duration + e) by omega)
    exact activeBooking_only (s := s.withBookings _) rfl ha hw

end Extend

/-! ## END_SESSION (03 R62, R66) -/

section EndSession
variable {s : State}

/-- A removal captures a turn, and leaves who spoke. -/
theorem State.removeCore_spoke (s : State) (seat : Seat) (r : Reason) (p : Pos) :
    ((s.removeCore seat r).seats.recs[p]).spoke = (s.seats.recs[p]).spoke := by
  cases hh : s.holds seat with
  | false => rw [s.removeCore_of_not _ _ hh]
  | true =>
    rw [s.removeCore_recs seat p r hh]
    split <;> rfl

theorem State.removeAll_spoke (r : Reason) (p : Pos) (l : List OpenEntry) (s : State) :
    ((s.removeAll l r).seats.recs[p]).spoke = (s.seats.recs[p]).spoke := by
  unfold State.removeAll
  induction l generalizing s with
  | nil => rfl
  | cons e l ih => exact (ih _).trans (s.removeCore_spoke e.seat r p)

theorem State.closingEmptied_spoke (s : State) (c : EndCause) (i : Seat) :
    ((s.closingEmptied c).seatRec i).spoke = (s.seatRec i).spoke := by
  have chair : (s.closingEmptied c).seats.chair = s.seats.chair := by
    obtain ⟨-, -, -, -, -, chair⟩ := State.removeAll_floor (s.closingNamed c).floor.openList .sessionEnd (s.closingNamed c)
    rw [State.closingEmptied, State.clearQueue_seats, chair]
    rfl
  have place : (s.closingEmptied c).phys i = s.phys i := State.phys_congr chair i
  rw [State.seatRec_at place, State.closingEmptied, State.clearQueue_seats, State.removeAll_spoke]
  rfl

/-- The report that CLOSING stores lists the seats that spoke (03 R66). -/
theorem State.startClosing_speakers (s : State) (c : EndCause) : ∃ r, (s.startClosing c).cal.lastReport = some r ∧
    ∀ seat : Seat, (∃ x ∈ r.speakers, x.seat = seat) ↔ (s.seatRec seat).spoke = true := by
  have report : (s.startClosing c).cal.lastReport = some ((s.closingEmptied c).buildReport c) := by
    rw [s.startClosing_eq, (State.reportClosed_rests _).report, State.closingBegun, State.notice_keeps _ _ _ .cal (by decide)]
  refine ⟨_, report, fun seat => ?_⟩
  rw [← s.closingEmptied_spoke c seat]
  simp [State.buildReport]

/-- END_SESSION begins CLOSING where a session runs (03 R62). -/
theorem endSession_ends (hr : s.reaches .endSession = true) :
    ∃ t, exec .endSession s = .next t ∧
      (s.cal.session ≠ .inSession → s.cal.session ≠ .grace → s.fails t .noSession) ∧
      (s.cal.session = .inSession ∨ s.cal.session = .grace →
        s.answered t .ok ∧ s.keeps t (sessionPieces ++ opPieces) ∧ (s.TableOk → s.Closes t .endSession) ∧
        ∃ r, t.cal.lastReport = some r ∧
          ∀ seat : Seat, (∃ x ∈ r.speakers, x.seat = seat) ↔ (s.seatRec seat).spoke = true) := by
  obtain ⟨t, next, fails, answers⟩ := State.reaches_ends hr rfl rfl rfl
  refine ⟨t, next, fun hi hg => fails _ (if_neg ?_) rfl, fun hs => ?_⟩
  · cases hs : s.cal.session <;> simp_all [Session.runs]
  · have runs : s.cal.session.runs = true := by rcases hs with hs | hs <;> rw [hs] <;> rfl
    have kept := s.startClosing_keeps .endSession
    obtain ⟨answered, ended⟩ := answers _ _ _ (if_pos runs) kept (by decide) (by decide) (s.startClosing_sends .endSession)
    have cal : t.cal = _ := ended .cal (by decide)
    rw [cal]
    exact ⟨answered, State.keeps_trans (State.keeps_mono kept (by decide)) (State.keeps_mono ended (by decide)),
      fun ht => (s.startClosing_closes .endSession fun _ _ => ht.1.2.1).after ended (by decide), s.startClosing_speakers .endSession⟩

end EndSession

/-- Settles O58: the longer booking is evaluated, and END_SESSION begins CLOSING. -/
theorem extendAndEndSession : Obligations.ExtendAndEndSession :=
  ⟨fun _ minutes hr => extend_noSession minutes hr, fun _ minutes _ _ _ hr hs hl ha hw => extend_lengthens minutes hr hs hl ha hw,
    fun _ hr => endSession_ends hr⟩

end Sys2Proof.Machine

namespace Sys2Proof.Machine

/-! ## Removals in a row (04 R71, R94) -/

section Rows
variable {s : State}

theorem State.holds_nobody (h : s.floor.openList = []) (i : Seat) : s.holds i = false := by simp [State.holds, h]

/-- Where nobody holds the floor there is nothing to remove. -/
theorem State.removeAll_nobody (l : List OpenEntry) (r : Reason) (h : s.floor.openList = []) :
    s.removeAll l r = s ∧ l.foldl (fun t e => t.removeEntry e.seat r) s = s := by
  unfold State.removeAll
  induction l with
  | nil => exact ⟨rfl, rfl⟩
  | cons e l ih =>
    have none := State.holds_nobody h e.seat
    have entry : s.removeEntry e.seat r = s := by simp [State.removeEntry, none]
    rw [List.foldl_cons, List.foldl_cons, s.removeCore_of_not _ _ none, entry]
    exact ih

theorem State.removeEntries_plain (l : List OpenEntry) (r : Reason) (h : s.cal.session ≠ .grace) :
    l.foldl (fun t e => t.removeEntry e.seat r) s = s.removeAll l r := by
  unfold State.removeAll
  induction l generalizing s with
  | nil => rfl
  | cons e l ih =>
    rw [List.foldl_cons, List.foldl_cons, s.removeEntry_plain e.seat r h]
    exact ih (by rwa [s.removeCore_keeps e.seat r .cal (by decide)])

/-- In GRACE the removal that empties the list begins CLOSING, once every seat of the list is removed (04 R71). -/
theorem State.removeEntries_grace (l : List OpenEntry) (r : Reason) (hg : s.cal.session = .grace) (ho : s.floor.openList ≠ [])
    (hl : ∀ x ∈ s.floor.openList, ∃ e ∈ l, e.seat = x.seat) :
    l.foldl (fun t e => t.removeEntry e.seat r) s = (s.removeAll l r).startClosing .floorEmpty := by
  unfold State.removeAll
  induction l generalizing s with
  | nil =>
    obtain ⟨x, hx⟩ := List.exists_mem_of_ne_nil _ ho
    obtain ⟨e, he, -⟩ := hl x hx
    cases he
  | cons e l ih =>
    rw [List.foldl_cons, List.foldl_cons]
    have session : (s.removeCore e.seat r).cal.session = .grace := by rw [s.removeCore_keeps e.seat r .cal (by decide), hg]
    have left : ∀ x ∈ (s.removeCore e.seat r).floor.openList, ∃ e ∈ l, e.seat = x.seat := fun x hx => by
      rw [s.removeCore_openList] at hx
      obtain ⟨hx, ne⟩ := List.mem_filter.1 hx
      obtain ⟨y, hy, same⟩ := hl x hx
      rcases List.mem_cons.1 hy with rfl | hy
      · simp [same] at ne
      · exact ⟨y, hy, same⟩
    cases hh : s.holds e.seat with
    | false =>
      have entry : s.removeEntry e.seat r = s := by simp [State.removeEntry, hh]
      rw [s.removeCore_of_not _ _ hh] at left ⊢
      rw [entry]
      exact ih hg ho left
    | true =>
      by_cases empty : (s.removeCore e.seat r).floor.openList = []
      · have entry : s.removeEntry e.seat r = (s.removeCore e.seat r).startClosing .floorEmpty := by
          simp [State.removeEntry, hh, hg, empty]
        have closed : ((s.removeCore e.seat r).startClosing .floorEmpty).floor.openList = [] := by
          rw [State.startClosing_eq, (State.reportClosed_rests _).openList]
          exact (State.closingBegun_floor _ _).1
        rw [entry, (State.removeAll_nobody l r closed).2]
        have none : l.foldl (fun t e => t.removeCore e.seat r) (s.removeCore e.seat r) = s.removeCore e.seat r :=
          (State.removeAll_nobody l r empty).1
        rw [none]
      · have entry : s.removeEntry e.seat r = s.removeCore e.seat r := by simp [State.removeEntry, hh, empty]
        rw [entry]
        exact ih session empty left

end Rows

/-! ## Microphones that go to CLOSED at once (05 R101) -/

section Silenced
variable {s t u : State}

/-- The record of a seat with the turn captured that a removal would end (05 R104). -/
def State.captured (s : State) (i : Seat) : SeatRec :=
  if (s.micOf i).state = .opened then (s.seatRec i).capture (s.micOf i).timer else s.seatRec i

/-- Each microphone is as it was, with its seat's record, or has gone to CLOSED with its turn captured. -/
structure State.Silences (s t : State) : Prop where
  chair : t.seats.chair = s.seats.chair
  mutes : t.seats.sessionMute = s.seats.sessionMute ∧ t.seats.wingAMute = s.seats.wingAMute ∧ t.seats.wingBMute = s.seats.wingBMute
  each : ∀ i, ((t.micOf i).state = (s.micOf i).state ∧ (t.micOf i).timer = (s.micOf i).timer ∧ t.seatRec i = s.seatRec i) ∨
    ((t.micOf i).state = .closed ∧ t.seatRec i = s.captured i)

theorem State.Silences.refl (s : State) : s.Silences s := ⟨rfl, ⟨rfl, rfl, rfl⟩, fun _ => .inl ⟨rfl, rfl, rfl⟩⟩

theorem State.captured_closed {i : Seat} (h : (s.micOf i).state = .closed) : s.captured i = s.seatRec i := if_neg (by simp [h])

theorem State.Silences.trans (h : s.Silences t) (k : t.Silences u) : s.Silences u := by
  obtain ⟨session, wingA, wingB⟩ := h.mutes
  obtain ⟨session', wingA', wingB'⟩ := k.mutes
  refine ⟨k.chair.trans h.chair, ⟨session'.trans session, wingA'.trans wingA, wingB'.trans wingB⟩, fun i => ?_⟩
  rcases h.each i with ⟨state, timer, rec⟩ | ⟨closed, rec⟩
  · rcases k.each i with ⟨state', timer', rec'⟩ | ⟨closed', rec'⟩
    · exact .inl ⟨state'.trans state, timer'.trans timer, rec'.trans rec⟩
    · exact .inr ⟨closed', by rw [rec', State.captured, State.captured, state, timer, rec]⟩
  · rcases k.each i with ⟨state', -, rec'⟩ | ⟨closed', rec'⟩
    · exact .inr ⟨state'.trans closed, rec'.trans rec⟩
    · exact .inr ⟨closed', by rw [rec', State.captured_closed closed, rec]⟩

theorem State.Silences.of_same (hm : ∀ i, (t.micOf i).state = (s.micOf i).state ∧ (t.micOf i).timer = (s.micOf i).timer)
    (hs : t.seats = s.seats) : s.Silences t :=
  ⟨by rw [hs], by rw [hs]; exact ⟨rfl, rfl, rfl⟩, fun i => .inl ⟨(hm i).1, (hm i).2, State.seatRec_congr hs i⟩⟩

theorem State.Silences.of_keeps {l : List Piece} (k : s.keeps t l) (hl : ∀ p ∈ [Piece.mic, .seats], p ∉ l) : s.Silences t :=
  .of_same (fun i => by rw [State.micOf_congr (k .mic (hl _ (by decide))) i]; exact ⟨rfl, rfl⟩) (k .seats (hl _ (by decide)))

theorem State.Silences.foldl {α : Type} {f : State → α → State} (hf : ∀ s a, State.Silences s (f s a)) (l : List α) (s : State) :
    s.Silences (l.foldl f s) := by
  induction l generalizing s with
  | nil => exact .refl s
  | cons a l ih => exact (hf s a).trans (ih _)

theorem State.micClose_silences (s : State) (seat : Seat) : s.Silences (s.micClose seat) := by
  obtain ⟨chair, session, wingA, wingB, -, -⟩ := s.leaveOpen_chair seat
  refine ⟨chair, ⟨session, wingA, wingB⟩, fun i => ?_⟩
  have place : (s.micClose seat).phys i = s.phys i := State.phys_congr chair i
  rw [State.seatRec_at place, s.micClose_recs, s.micClose_micOf]
  by_cases hi : i = seat
  · subst hi
    rw [if_pos rfl]
    refine .inr ⟨rfl, ?_⟩
    by_cases ho : (s.micOf i).state = .opened
    · rw [if_pos ⟨rfl, ho⟩, State.captured, if_pos ho]
      rfl
    · rw [if_neg fun k => ho k.2, State.captured, if_neg ho]
      rfl
  · rw [if_neg hi, if_neg fun k => hi (s.phys_inj.1 k.1)]
    exact .inl ⟨rfl, rfl, rfl⟩

theorem State.closeMic_silences (s : State) (seat : Seat) : s.Silences (s.closeMic seat) := by
  unfold State.closeMic
  split
  · exact .refl s
  · exact s.micClose_silences seat

/-- A removal by HALT closes the microphone at once. -/
theorem State.removeHalted_silences (s : State) (seat : Seat) : s.Silences (s.removeCore seat .halted) := by
  unfold State.removeCore
  split
  · exact .refl s
  · exact ((State.Silences.of_keeps (s.setFloor_keeps _) (by decide)).trans (State.micClose_silences _ seat)).trans
      (.of_keeps (State.floorChange_keeps _ _ _ _ _ _) (by decide))

theorem State.clearQueue_silences (s : State) (r : Reason) : s.Silences (s.clearQueue r) :=
  .of_same (fun i => by rw [s.clearQueue_micOf]; split <;> exact ⟨rfl, rfl⟩) (s.clearQueue_seats r)

/-- The records when every microphone is CLOSED. -/
theorem State.Silences.seats_eq (h : s.Silences t) (hc : ∀ i, (t.micOf i).state = .closed) :
    t.seats = { s.seats with recs := mapAll s.seats.recs fun p _ => s.captured (s.logical p) } := by
  obtain ⟨session, wingA, wingB⟩ := h.mutes
  have recs : t.seats.recs = mapAll s.seats.recs fun p _ => s.captured (s.logical p) := by
    refine Vector.ext fun n hn => ?_
    have all := mapAll_get s.seats.recs (fun p _ => s.captured (s.logical p)) ⟨n, hn⟩
    refine Eq.trans ?_ all.symm
    have place : t.phys (s.logical ⟨n, hn⟩) = ⟨n, hn⟩ := by rw [State.phys_congr h.chair, s.phys_logical]
    have held : t.seatRec (s.logical ⟨n, hn⟩) = t.seats.recs[n] := by
      rw [State.seatRec]
      simp only [place]
      rfl
    rw [← held]
    rcases h.each (s.logical ⟨n, hn⟩) with ⟨state, -, rec⟩ | ⟨-, rec⟩
    · rw [rec, State.captured_closed (state.symm.trans (hc _))]
    · exact rec
  cases ht : t.seats
  rw [ht] at recs session wingA wingB
  have chair := h.chair
  rw [ht] at chair
  simp only at recs session wingA wingB chair
  rw [recs, session, wingA, wingB, chair]

end Silenced

end Sys2Proof.Machine

namespace Sys2Proof.Machine

/-! ## HALT (04 R94; 11 R196) -/

section HaltTable
variable (s : State)

/-- The mark of HALT stands, and nothing has followed. -/
def State.marked : State := { s with store := { s.store with halted := true } }

theorem State.marked_keeps : s.keeps s.marked [.store] := by
  intro p hp
  cases p <;> simp_all [State.agrees, State.marked]

theorem State.haltEmptied_plain (h : s.cal.session ≠ .grace) : s.haltEmptied = s.marked.removeAll s.floor.openList .halted :=
  State.removeEntries_plain (s := s.marked) _ _ h

/-- In GRACE the list that HALT empties begins CLOSING (log 35). -/
theorem State.haltEmptied_grace (h : s.cal.session = .grace) (ho : s.floor.openList ≠ []) :
    s.haltEmptied = (s.marked.removeAll s.floor.openList .halted).startClosing .floorEmpty :=
  State.removeEntries_grace (s := s.marked) _ _ h ho fun x hx => ⟨x, hx, rfl⟩

theorem State.removeAll_own (r : Reason) : (s.removeAll s.floor.openList r).floor.openList = [] := by
  rw [(State.removeAll_floor _ _ _).1, List.filter_eq_nil_iff]
  intro e he
  simpa using ⟨e, he, rfl⟩

theorem State.startClosing_openList (c : EndCause) : (s.startClosing c).floor.openList = [] := by
  rw [s.startClosing_eq, (State.reportClosed_rests _).openList]
  exact (s.closingBegun_floor c).1

theorem State.haltEmptied_openList : s.haltEmptied.floor.openList = [] := by
  by_cases hg : s.cal.session = .grace
  · by_cases ho : s.floor.openList = []
    · have none : s.haltEmptied = s.marked := by
        unfold State.haltEmptied
        rw [ho]
        rfl
      rw [none]
      exact ho
    · rw [s.haltEmptied_grace hg ho]
      exact State.startClosing_openList _ _
  · rw [s.haltEmptied_plain hg]
    exact s.marked.removeAll_own .halted

theorem State.haltClosed_keeps : s.haltEmptied.keeps s.haltClosed [.mic, .seats] := s.haltEmptied.closeMics_keeps (numbers 64)

theorem State.closeMic_state (i j : Seat) : ((s.closeMic i).micOf j).state = if j = i then .closed else (s.micOf j).state := by
  unfold State.closeMic
  split
  · next hc =>
    split
    · next hj => rw [hj, hc]
    · rfl
  · rw [s.micClose_micOf]
    split <;> rfl

/-- HALT closes every microphone, whoever held the floor. -/
theorem State.haltClosed_state (i : Seat) : (s.haltClosed.micOf i).state = .closed := by
  refine foldl_done (P := fun u done => ∀ i ∈ done, (u.micOf i).state = .closed) (fun u done a _ _ hu j hj => ?_) (List.nodup_finRange 64)
    (u := s.haltEmptied) (by simp) i (List.mem_finRange i)
  rw [u.closeMic_state]
  split
  · rfl
  · next ne => exact hu j ((List.mem_append.1 hj).resolve_right (by simpa using ne))

theorem State.halt_keeps : s.haltClosed.reportClosed.keeps s.halt (floorPieces ++ [.delivery]) := by
  rw [s.halt_eq]
  exact State.keeps_trans (State.keeps_mono (State.clearQueue_keeps _ .halted) (by decide))
    (State.keeps_mono (State.transfersDropped_keeps _) (by decide))

theorem State.halt_micOf (i : Seat) : (s.halt.micOf i).state = .closed := by
  have dropped : s.halt.micOf i = (s.haltClosed.reportClosed.clearQueue .halted).micOf i := by
    rw [s.halt_eq]
    exact State.micOf_congr (State.transfersDropped_keeps _ .mic (by decide)) i
  have reported : (s.haltClosed.reportClosed.micOf i).state = .closed := by
    rw [State.micOf, s.haltClosed.reportClosed_rests.recs]
    exact s.haltClosed_state i
  rw [dropped]
  generalize s.haltClosed.reportClosed = u at reported
  rw [State.clearQueue_micOf]
  split <;> exact reported

theorem State.halt_floor : s.halt.floor.openList = [] ∧ s.halt.floor.queue = [] := by
  have dropped : s.halt.floor = (s.haltClosed.reportClosed.clearQueue .halted).floor := by
    rw [s.halt_eq]
    exact State.transfersDropped_keeps _ .floor (by decide)
  have closed : s.haltClosed.floor = s.haltEmptied.floor := s.haltClosed_keeps .floor (by decide)
  have nobody : s.haltClosed.reportClosed.floor.openList = [] :=
    s.haltClosed.reportClosed_rests.openList.trans ((congrArg Floor.openList closed).trans s.haltEmptied_openList)
  rw [dropped]
  generalize s.haltClosed.reportClosed = u at nobody
  rw [State.clearQueue_floor]
  exact ⟨nobody, rfl⟩

/-- Outside GRACE and CLOSING the calendar hears nothing of HALT. -/
theorem State.halt_cal (hg : s.cal.session ≠ .grace) (hc : s.cal.session ≠ .closing) : s.halt.cal = s.cal := by
  have emptied : s.haltEmptied.cal = s.cal := by
    rw [s.haltEmptied_plain hg]
    exact State.removeAll_keeps _ _ _ .cal (by decide)
  have closed : s.haltClosed.cal = s.cal := (s.haltClosed_keeps .cal (by decide)).trans emptied
  have reported : s.haltClosed.reportClosed = s.haltClosed := if_neg fun k => hc (by rw [← closed]; exact k.1)
  have halts := s.halt_keeps
  rw [reported] at halts
  exact (halts .cal (by decide)).trans closed

end HaltTable

section HaltGrace
variable {s : State}

/-- What HALT finds in GRACE when the last microphone has gone to CLOSED: CLOSING completes from there (log 35). -/
theorem State.haltClosed_completes (hg : s.cal.session = .grace) (ho : s.floor.openList ≠ []) :
    ∃ (w : State) (r : Report), s.haltClosed.reportClosed = w.completeClosing ∧ w.cal = { s.cal with
        session := .closing, endCause := some .floorEmpty, actualEnd := s.clock.now, graceEnd := none, lastReport := some r } ∧
      r.cause = .floorEmpty ∧ w.floor.openList = [] ∧ w.floor.queue = [] ∧ w.floor.mode = s.floor.mode ∧ w.clock = s.clock ∧
      s.Silences w ∧ ∀ i, (w.micOf i).state = .closed := by
  have removed := State.keeps_trans (State.keeps_mono s.marked_keeps (m := .store :: floorPieces) (by decide))
    (State.keeps_mono (s.marked.removeAll_keeps s.floor.openList .halted) (by decide))
  have mode : (s.marked.removeAll s.floor.openList .halted).floor.mode = s.floor.mode := (State.removeAll_floor _ _ _).2.2.1
  have nobody : (s.marked.removeAll s.floor.openList .halted).floor.openList = [] := s.marked.removeAll_own .halted
  have silent : s.Silences (s.marked.removeAll s.floor.openList .halted) :=
    (State.Silences.of_keeps s.marked_keeps (by decide)).trans (.foldl (fun u (e : OpenEntry) => u.removeHalted_silences e.seat) _ _)
  have emptied := s.haltEmptied_grace hg ho
  generalize s.marked.removeAll s.floor.openList .halted = v at removed mode nobody silent emptied
  obtain ⟨r, cal, cause, -⟩ := v.closingBegun_cal .floorEmpty
  obtain ⟨openList, queue, mode', -⟩ := v.closingBegun_floor .floorEmpty
  have clock : (v.closingBegun .floorEmpty).clock = s.clock := (v.closingBegun_clock _).trans (removed .clock (by decide))
  have begun : s.Silences (v.closingBegun .floorEmpty) := by
    have told := v.closingBegun_frame .floorEmpty
    have none : (v.closingNamed .floorEmpty).removeAll (v.closingNamed .floorEmpty).floor.openList .sessionEnd = v.closingNamed .floorEmpty :=
      (State.removeAll_nobody (s := v.closingNamed .floorEmpty) _ _ nobody).1
    have named : v.Silences (v.closingNamed .floorEmpty) := .of_same (fun _ => ⟨rfl, rfl⟩) rfl
    have cleared : (v.closingNamed .floorEmpty).Silences (v.closingEmptied .floorEmpty) := by
      rw [State.closingEmptied, none]
      exact State.clearQueue_silences _ _
    exact ((silent.trans named).trans cleared).trans (.of_same (fun i => by rw [State.micOf_congr told.2.1 i]; exact ⟨rfl, rfl⟩) told.2.2)
  rw [(removed .cal (by decide) : v.cal = s.cal), (removed .clock (by decide) : v.clock = s.clock)] at cal
  rw [v.startClosing_eq] at emptied
  generalize v.closingBegun .floorEmpty = x at cal openList queue mode' clock begun emptied
  have closing : x.cal.session = .closing := by rw [cal]
  by_cases all : ∀ i, (x.micOf i).state = .closed
  · refine ⟨x, r, ?_, cal, cause, openList, queue, mode'.trans mode, clock, begun, all⟩
    have completed : s.haltEmptied = x.completeClosing := emptied.trans (if_pos ⟨closing, x.allClosed_iff.2 all⟩)
    have still : ∀ l : List Seat, l.foldl State.closeMic x.completeClosing = x.completeClosing := fun l => by
      induction l with
      | nil => rfl
      | cons i l ih =>
        have none : x.completeClosing.closeMic i = x.completeClosing := if_pos (by
          rw [State.micOf, x.completeClosing_rests.recs]
          exact all i)
        rw [List.foldl_cons, none, ih]
    rw [State.haltClosed, completed, still]
    exact if_neg fun k => x.completeClosing_settled.2 k.1
  · have waits : s.haltEmptied = x := emptied.trans (if_neg fun k => all (x.allClosed_iff.1 k.2))
    have kept := s.haltClosed_keeps
    have closed : x.Silences s.haltClosed := by
      rw [← waits]
      exact .foldl State.closeMic_silences _ _
    rw [waits] at kept
    have cal' : s.haltClosed.cal = x.cal := kept .cal (by decide)
    have floor : s.haltClosed.floor = x.floor := kept .floor (by decide)
    refine ⟨s.haltClosed, r, if_pos ⟨by rw [cal', closing], s.haltClosed.allClosed_iff.2 s.haltClosed_state⟩, cal'.trans cal, cause,
      by rw [floor, openList], by rw [floor, queue], by rw [floor]; exact mode'.trans mode, (kept .clock (by decide)).trans clock,
      begun.trans closed, s.haltClosed_state⟩

/-- The record of a position with the turn of its seat captured. -/
def State.capturedRec (s : State) (p : Pos) (r : SeatRec) : SeatRec :=
  let m : MicRec := s.micOf (s.logical p)
  if m.state = .opened then
    { r with lastTurn := m.timer, total := min 65535 (r.total + m.timer), turnCount := min 65535 (r.turnCount + 1) }
  else r

theorem State.captured_recs (s : State) :
    (mapAll s.seats.recs fun p _ => s.captured (s.logical p)) = mapAll s.seats.recs s.capturedRec := by
  have each : ∀ p : Pos, s.captured (s.logical p) = s.capturedRec p s.seats.recs[p] := fun p => by
    have held : s.seatRec (s.logical p) = s.seats.recs[p] := by
      rw [State.seatRec]
      simp only [s.phys_logical]
    rw [State.captured, held]
    rfl
  refine Vector.ext fun n hn => ?_
  have left := mapAll_get s.seats.recs (fun p _ => s.captured (s.logical p)) ⟨n, hn⟩
  have right := mapAll_get s.seats.recs s.capturedRec ⟨n, hn⟩
  exact left.trans ((each ⟨n, hn⟩).trans right.symm)

/-- The clause on GRACE: CLOSING begins with the cause FLOOR_EMPTY and completes. -/
theorem State.halt_grace (hg : s.cal.session = .grace) (ho : s.floor.openList ≠ []) :
    (s.halt.cal.lastReport.map (·.cause)) = some .floorEmpty ∧
      (s.TableOk → ({ s with floor := { s.floor with openList := [], queue := [] }
                             seats := { s.seats with recs := mapAll s.seats.recs s.capturedRec } } : State).Completed s.halt) := by
  obtain ⟨w, r, completes, cal, cause, openList, queue, mode, clock, silent, closed⟩ := State.haltClosed_completes hg ho
  have halts : w.completeClosing.keeps s.halt [.screens, .sending, .linkCounters, .delivery] := by
    rw [s.halt_eq, completes]
    exact State.keeps_trans (State.keeps_mono (State.clearQueue_empty _ .halted (by rw [w.completeClosing_rests.queue, queue])) (by decide))
      (State.keeps_mono (State.transfersDropped_keeps _) (by decide))
  refine ⟨?_, fun ht => ?_⟩
  · rw [(halts .cal (by decide) : s.halt.cal = w.completeClosing.cal), w.completeClosing_rests.report, cal]
    exact congrArg some cause
  · have unique : (w.cal.bookings.map (·.number)).Nodup := by
      rw [cal]
      exact ht.1.2.1
    rw [← s.captured_recs, ← silent.seats_eq closed]
    refine State.Completed.after ?_ halts (by decide)
    exact (w.completeClosing_completed fun _ => unique).of_same (by rw [cal]) (by rw [cal]) rfl openList queue mode
      (congrArg Clock.sync clock)

end HaltGrace

end Sys2Proof.Machine

namespace Sys2Proof.Machine

/-! ## HALT and RESUME as operations -/

section HaltActions
variable (s : State)

theorem State.haltEmptied_keeps : s.marked.keeps s.haltEmptied sessionPieces :=
  State.foldl_keeps _ _ (fun u (e : OpenEntry) => u.removeEntry_keeps e.seat .halted) s.floor.openList s.marked

theorem State.halt_frame : s.marked.keeps s.halt (sessionPieces ++ [.delivery]) :=
  State.keeps_trans (State.keeps_mono s.haltEmptied_keeps (by decide)) (State.keeps_trans (State.keeps_mono s.haltClosed_keeps (by decide))
    (State.keeps_trans (State.keeps_mono s.haltClosed.reportClosed_keeps (by decide)) (State.keeps_mono s.halt_keeps (by decide))))

theorem State.halt_sends : s.Sends s.halt := by
  have emptied : s.Sends s.haltEmptied :=
    (State.sends_foldl _ (fun u (e : OpenEntry) => u.removeEntry_sends e.seat .halted) s.floor.openList s.marked).from rfl
  have closed : s.haltEmptied.Sends s.haltClosed := .of_eq (s.haltClosed_keeps .sending (by decide)).1
  rw [s.halt_eq]
  exact (((emptied.trans closed).trans (State.reportClosed_sends _)).trans (State.clearQueue_sends _ .halted)).trans
    (.of_eq (State.transfersDropped_keeps _ .sending (by decide)).1)

theorem State.halt_delivery (p : Pos) : (s.halt.disp.delivery[p]).transfer = none := by
  have delivery : s.halt.disp.delivery = mapAll (s.haltClosed.reportClosed.clearQueue .halted).disp.delivery
      fun _ (d : Delivery) => { d with transfer := none } := by
    rw [s.halt_eq]
    simp only [State.transfersDropped]
  rw [delivery, mapAll_get]

variable {s}

/-- HALT at a table that runs (11 R196). -/
theorem halt_halts (hr : s.reaches .halt = true) (hh : s.store.halted = false) :
    ∃ t, exec .halt s = .next t ∧ s.answered t .ok ∧ s.halt.keeps t opPieces := by
  obtain ⟨t, next, -, answers⟩ := State.reaches_ends hr rfl rfl rfl
  have owner : s.haltAction = done s.halt := by
    rw [State.haltAction, hh]
    rfl
  have kept : s.keeps s.halt (.store :: sessionPieces ++ [.delivery]) :=
    State.keeps_trans (State.keeps_mono s.marked_keeps (by decide)) (State.keeps_mono s.halt_frame (by decide))
  exact ⟨t, next, answers _ _ _ owner kept (by decide) (by decide) s.halt_sends⟩

/-- HALT at a table that is halted changes nothing. -/
theorem halt_again (hr : s.reaches .halt = true) (hh : s.store.halted = true) :
    ∃ t, exec .halt s = .next t ∧ s.answered t .ok ∧ s.keeps t opPieces := by
  obtain ⟨t, next, -, answers⟩ := State.reaches_ends hr rfl rfl rfl
  have owner : s.haltAction = done s := by
    rw [State.haltAction, hh]
    rfl
  exact ⟨t, next, answers _ _ [] owner (s.keeps_refl _) (by decide) (by decide) (.of_eq rfl)⟩

/-- RESUME (11 R197). -/
theorem resume_resumes (hr : s.reaches .resume = true) (hh : s.store.halted = true) :
    ∃ t, exec .resume s = .next t ∧ s.answered t .ok ∧ s.resume.keeps t opPieces ∧
      s.keeps s.resume [.wings, .level, .audioReturn, .store] := by
  obtain ⟨t, next, -, answers⟩ := State.reaches_ends hr rfl rfl rfl
  have owner : s.resumeAction = done s.resume := by
    rw [State.resumeAction, hh]
    rfl
  have cleared : ∀ v, s.keeps { s with store := { s.store with halted := false }, level := v, link := s.link.unlearn }
      [.level, .audioReturn, .store] := fun v p hp => by
    cases p <;> simp_all [State.agrees, Link.unlearn]
  have kept : s.keeps s.resume [.wings, .level, .audioReturn, .store] :=
    State.keeps_trans (State.keeps_mono (cleared _) (by decide)) (State.keeps_trans (State.keeps_mono (State.startPass_keeps _ _) (by decide))
      (State.keeps_mono (State.startPass_keeps _ _) (by decide)))
  obtain ⟨answered, ended⟩ := answers _ _ _ owner kept (by decide) (by decide) (.of_eq (kept .sending (by decide)).1)
  exact ⟨t, next, answered, ended, kept⟩

/-- RESUME before its passes. -/
def State.resuming (s : State) : State :=
  { s with store := { s.store with halted := false }, level := mapAll s.level fun _ l => l.zero, link := s.link.unlearn }

theorem State.resume_eq (s : State) : s.resume = (s.resuming.startPass .a).startPass .b := by
  simp only [State.resume, State.resuming]

/-- What RESUME starts afresh. -/
theorem State.resume_afresh (s : State) : s.resume.passStarts .a ∧ s.resume.passStarts .b ∧ s.resume.link.learnt = false ∧
    s.resume.link.buffer = [] ∧ s.resume.store = { s.store with halted := false } ∧ s.resume.level = mapAll s.level fun _ l => l.zero := by
  have passes : s.resuming.keeps s.resume [.wings] := by
    rw [s.resume_eq]
    exact State.keeps_trans (State.startPass_keeps _ _) (State.startPass_keeps _ _)
  obtain ⟨learnt, -, buffer⟩ := passes .audioReturn (by decide)
  refine ⟨?_, ?_, learnt, buffer, passes .store (by decide), passes .level (by decide)⟩
  · rw [s.resume_eq]
    exact State.passStarts_of_wing (s := s.resuming) (State.startPass_wing_ne _ (by decide))
  · rw [s.resume_eq]
    exact State.passStarts_of_wing (s := s.resuming.startPass .a) rfl

theorem State.passStarts_congr {t u : State} {w : Wing} (k : t.wingA = u.wingA ∧ t.wingB = u.wingB) (h : u.passStarts w) : t.passStarts w := by
  have wing : t.wing w = u.wing w := by cases w <;> simp [State.wing, k]
  unfold State.passStarts at h ⊢
  rwa [wing]

/-- Settles O60: every entry is removed, then every microphone is closed, of which the last one completes CLOSING. -/
theorem haltSilencesAndResumeEnumerates : Obligations.HaltSilencesAndResumeEnumerates := by
  refine ⟨fun s hr => ?_, fun s hr => ?_⟩
  · cases hh : s.store.halted with
    | true =>
      obtain ⟨t, next, answered, kept⟩ := halt_again hr hh
      have store : t.store = s.store := kept .store (by decide)
      exact ⟨t, next, answered, by rw [store, hh], kept .pos (by decide), kept .cfg (by decide), kept .clock (by decide), fun _ => kept,
        by simp, by simp, by simp, by simp⟩
    | false =>
      obtain ⟨t, next, answered, ended⟩ := halt_halts hr hh
      have all : s.marked.keeps t (sessionPieces ++ [.delivery] ++ opPieces) :=
        State.keeps_trans (State.keeps_mono s.halt_frame (by decide)) (State.keeps_mono ended (by decide))
      have store : t.store = { s.store with halted := true } := all .store (by decide)
      have floor : t.floor = s.halt.floor := ended .floor (by decide)
      have cal : t.cal = s.halt.cal := ended .cal (by decide)
      have delivery : t.disp.delivery = s.halt.disp.delivery := ended .delivery (by decide)
      refine ⟨t, next, answered, by rw [store], all .pos (by decide), all .cfg (by decide), all .clock (by decide), by simp,
        fun _ => ⟨store, fun p => by rw [delivery]; exact s.halt_delivery p, fun seat => ?_, ?_⟩, fun _ _ => by rw [floor]; exact s.halt_floor,
        fun _ hg hc => cal.trans (s.halt_cal hg hc), fun _ hg ho => ?_⟩
      · rw [State.micOf_congr (ended .mic (by decide))]
        exact s.halt_micOf seat
      · exact State.keeps_trans (State.keeps_mono s.marked_keeps (by decide)) (State.keeps_mono all (by decide))
      · obtain ⟨cause, completed⟩ := State.halt_grace hg ho
        rw [floor, cal]
        refine ⟨s.halt_floor.1, s.halt_floor.2, cause, ?_⟩
        intro captured ht
        exact (completed ht).after ended (by decide)
  · cases hh : s.store.halted with
    | false =>
      obtain ⟨t, next, -, answers⟩ := State.reaches_ends hr rfl rfl rfl
      have owner : s.resumeAction = done s := by
        rw [State.resumeAction, hh]
        rfl
      obtain ⟨answered, kept⟩ := answers _ _ [] owner (s.keeps_refl _) (by decide) (by decide) (.of_eq rfl)
      exact ⟨t, next, answered, (kept .store (by decide)).trans (by rw [← hh]), fun _ => kept, by simp⟩
    | true =>
      obtain ⟨t, next, answered, ended, kept⟩ := resume_resumes hr hh
      obtain ⟨passA, passB, learnt, buffer, store, level⟩ := s.resume_afresh
      have wings : t.wingA = s.resume.wingA ∧ t.wingB = s.resume.wingB := ended .wings (by decide)
      obtain ⟨learnt', -, buffer'⟩ : s.resume.agrees t .audioReturn := ended _ (by decide)
      have level' : t.level = s.resume.level := ended .level (by decide)
      refine ⟨t, next, answered, (ended .store (by decide)).trans store, by simp, fun _ => ⟨State.passStarts_congr wings passA,
        State.passStarts_congr wings passB, State.keeps_trans (State.keeps_mono kept (by decide)) (State.keeps_mono ended (by decide)),
        learnt'.trans learnt, buffer'.trans buffer, fun p => ?_⟩⟩
      rw [level', level, mapAll_get]
      exact ⟨rfl, rfl, rfl⟩

end HaltActions

end Sys2Proof.Machine

namespace Sys2Proof.Machine

/-! ## CONFIG (03 R51, 04 R70, 05 R111, 06 R132, 07 R143, 08 R148) -/

section Config
variable {s : State} {cfg : Settings}

/-- The state with other settings. -/
def State.configured (s : State) (cfg : Settings) : State := { s with cfg := cfg }

theorem State.configured_keeps (s : State) (cfg : Settings) : s.keeps (s.configured cfg) [.cfg] := fun p hp => by
  cases p <;> simp_all [State.agrees, State.configured]

/-- A write of one value of CONFIG stores it and settles the thresholds; its effects follow. -/
theorem State.writeConfig_one {fld k : Nat} {vals : List Byte} {clamped : Bool} (hs : valueShape .config 0 fld = some [.fixed k])
    (hl : vals.length = k) (hk : 0 < k) (hc : s.cfg.store ⟨0, fld, vals⟩ = .ok (cfg, clamped)) :
    s.writeConfig 0 fld vals = done ((s.configured (cfg.settle [⟨0, fld, vals⟩]).1).configEffects [⟨0, fld, vals⟩])
      (clamped || (cfg.settle [⟨0, fld, vals⟩]).2) := by
  rw [State.writeConfig, takeValues_one (by simp) hs hl hk, storeAll_one, hc]
  rfl

theorem State.writeConfig_fails {fld k : Nat} {vals : List Byte} {st : Status} (hs : valueShape .config 0 fld = some [.fixed k])
    (hl : vals.length = k) (hk : 0 < k) (hc : s.cfg.store ⟨0, fld, vals⟩ = .error st) : s.writeConfig 0 fld vals = fail s st := by
  rw [State.writeConfig, takeValues_one (by simp) hs hl hk, storeAll_one, hc]

/-- A value that is no detector setting leaves the thresholds as they stand. -/
theorem Settings.settle_other (c : Settings) {fld : Nat} {vals : List Byte} (h : ¬ (5 ≤ fld ∧ fld ≤ 9)) :
    c.settle [⟨0, fld, vals⟩] = (c, false) := by
  simp only [Settings.settle, wroteDetector, List.any_cons, List.any_nil, Bool.or_false, Bool.and_eq_true, decide_eq_true_eq]
  exact if_neg fun k => h k.1

/-- After a detector setting close_thr stands at open_thr at most. -/
theorem Settings.settle_detector (c : Settings) {fld : Nat} {vals : List Byte} (h : 5 ≤ fld ∧ fld ≤ 9) :
    c.settle [⟨0, fld, vals⟩] = ({ c with closeThr := min c.openThr c.closeThr }, decide (c.openThr < c.closeThr)) := by
  simp only [Settings.settle, wroteDetector, List.any_cons, List.any_nil, Bool.or_false, Bool.and_eq_true, decide_eq_true_eq,
    h, and_self, true_and]
  by_cases hc : c.openThr < c.closeThr
  · rw [if_pos hc, min_eq_left hc.le, decide_eq_true hc]
  · rw [if_neg hc, min_eq_right (by omega), decide_eq_false hc]

/-- A value that is neither the lead, the switches nor the warn time has no effect beyond its setting. -/
theorem State.configEffects_stored (s : State) {fld : Nat} {vals : List Byte} (h : fld ≠ 0 ∧ fld ≠ 1 ∧ fld ≠ 4) :
    s.configEffects [⟨0, fld, vals⟩] = s := by
  obtain ⟨h0, h1, h4⟩ := h
  simp [State.configEffects, wroteField, h0, h1, h4]

theorem State.configEffects_lead (s : State) (vals : List Byte) : s.configEffects [⟨0, 0, vals⟩] = s.evaluate := by
  simp [State.configEffects, wroteField]

theorem State.configEffects_warnTime (s : State) (vals : List Byte) :
    s.configEffects [⟨0, 4, vals⟩] = (numbers 64).foldl State.evaluateLimit s := by
  simp [State.configEffects, wroteField]

/-- What an operation leaves that stored a setting, and no more. -/
theorem State.keeps_configured {t : State} (h : (s.configured cfg).keeps t opPieces) :
    s.keeps t (.cfg :: opPieces) ∧ t.cfg = cfg :=
  ⟨State.keeps_trans (State.keeps_mono (s.configured_keeps cfg) (by decide)) (State.keeps_mono h (by decide)), h .cfg (by decide)⟩

section Stored
variable {i : Instr} {op : Op} {fld k : Nat} {vals : List Byte} {clamped : Bool}

/-- A write of a setting that nothing follows. -/
theorem configWrite_stores (hr : s.reaches i = true) (hop : i.op = some op) (hread : op.isRead = false)
    (hx : exec i s = s.runOp op (State.writeConfig 0 fld vals)) (hf : fld ≠ 0 ∧ fld ≠ 1 ∧ fld ≠ 4)
    (hs : valueShape .config 0 fld = some [.fixed k]) (hl : vals.length = k) (hk : 0 < k)
    (hc : s.cfg.store ⟨0, fld, vals⟩ = .ok (cfg, clamped)) :
    ∃ t, exec i s = .next t ∧ s.keeps t (.cfg :: opPieces) ∧
      s.answered t (okOr (clamped || (cfg.settle [⟨0, fld, vals⟩]).2)) ∧ t.cfg = (cfg.settle [⟨0, fld, vals⟩]).1 := by
  obtain ⟨t, next, -, answers⟩ := State.reaches_ends hr hop hread hx
  have owner := State.writeConfig_one hs hl hk hc
  rw [State.configEffects_stored _ hf] at owner
  obtain ⟨answered, ended⟩ := answers _ _ _ owner (s.configured_keeps _) (by decide) (by decide) (.of_eq rfl)
  obtain ⟨keeps, stored⟩ := State.keeps_configured ended
  exact ⟨t, next, keeps, answered, stored⟩

end Stored

/-! ### The lead (03 R51–R53) -/

theorem State.removeMissed_none (h : ∀ x ∈ s.cal.bookings, s.clock.now.minute < x.start + x.duration) : s.removeMissed = s := by
  have none : (s.cal.bookings.filter fun b => !b.active && decide (b.finish ≤ s.clock.now.minute)) = [] := by
    refine List.filter_eq_nil_iff.2 fun x hx => ?_
    have := h x hx
    rw [decide_eq_false (show ¬ x.finish ≤ s.clock.now.minute by rw [Booking.finish]; omega), Bool.and_false]
    decide
  simp [State.removeMissed, none]

/-- Where nothing is past and the next booking is to come, an evaluation outside a session arms the table or leaves it VACANT. -/
theorem State.evaluate_arms {b : Booking} (hy : s.clock.sync ≠ .unsynced) (hs : s.cal.session = .vacant ∨ s.cal.session = .armed)
    (hm : ∀ x ∈ s.cal.bookings, s.clock.now.minute < x.start + x.duration) (hb : s.nextBooking = some b)
    (hf : s.clock.now.minute < b.start) :
    s.evaluate = { s with cal := { s.cal with session :=
      if b.start ≤ s.clock.now.minute + s.cfg.lead then .armed else .vacant } } := by
  rw [State.evaluate_idle hs, State.evaluateIdle, if_neg hy, State.removeMissed_none hm]
  unfold State.testNext
  rw [hb]
  simp only
  rw [if_neg (by omega)]
  split <;> rfl

theorem leadWrite_arms (n : BitVec 16) (hr : s.reaches (.leadWrite 0 (be16 n.toNat)) = true) :
    ∃ t, exec (.leadWrite 0 (be16 n.toNat)) s = .next t ∧
      s.answered t (if 15 < n.toNat then .clamped else .ok) ∧ t.cfg = { s.cfg with lead := min 15 n.toNat } ∧
      s.keeps t (.cfg :: (sessionPieces ++ opPieces)) ∧ ({ s with cfg := t.cfg }).Settles t ∧
      (s.clock.sync = .unsynced → (s.cal.session = .vacant ∨ s.cal.session = .armed) → s.keeps t (.cfg :: opPieces)) ∧
      (∀ b, s.clock.sync ≠ .unsynced → (s.cal.session = .vacant ∨ s.cal.session = .armed) →
        (∀ x ∈ s.cal.bookings, s.clock.now.minute < x.start + x.duration) → s.nextBooking = some b →
        s.clock.now.minute < b.start →
        s.keeps t ([.cfg, .cal] ++ opPieces) ∧ t.cal.bookings = s.cal.bookings ∧
        t.cal.session = (if b.start ≤ s.clock.now.minute + min 15 n.toNat then .armed else .vacant)) := by
  obtain ⟨t, next, -, answers⟩ := State.reaches_ends hr rfl rfl rfl
  set cfg : Settings := { s.cfg with lead := min 15 n.toNat }
  have stored : s.cfg.store ⟨0, 0, be16 n.toNat⟩ = .ok (cfg, decide (15 < n.toNat)) := by
    simp only [Settings.store, number_be16 n.isLt]
    rfl
  have owner := State.writeConfig_one (fld := 0) (k := 2) rfl rfl (by decide) stored
  rw [Settings.settle_other _ (by omega), State.configEffects_lead, Bool.or_false] at owner
  have kept : (s.configured cfg).keeps (s.configured cfg).evaluate sessionPieces := State.evaluate_keeps _
  have changed := State.keeps_trans (l := .cfg :: sessionPieces)
    (State.keeps_mono (s.configured_keeps cfg) (by decide)) (State.keeps_mono kept (by decide))
  obtain ⟨answered, ended⟩ := answers _ _ _ owner changed (by decide) (by decide)
    ((State.evaluate_sends _).from rfl)
  have settings : t.cfg = cfg := (ended .cfg (by decide)).trans (kept .cfg (by decide))
  rw [okOr_decide] at answered
  refine ⟨t, next, answered, settings, State.keeps_trans (State.keeps_mono changed (by decide)) (State.keeps_mono ended (by decide)),
    ?_, fun hy hs => ?_, fun b hy hs hm hb hf => ?_⟩
  · rw [settings]
    exact (State.evaluate_settles (s.configured cfg)).after ended (by decide)
  · have same : (s.configured cfg).evaluate = s.configured cfg :=
      (State.evaluate_idle (s := s.configured cfg) hs).trans (if_pos hy)
    rw [same] at ended
    exact (State.keeps_configured ended).1
  · have arms := State.evaluate_arms (s := s.configured cfg) hy hs hm hb hf
    have only : (s.configured cfg).keeps (s.configured cfg).evaluate [.cal] := by
      rw [arms]
      intro p hp
      cases p <;> simp_all [State.agrees]
    have cal : t.cal = _ := (ended .cal (by decide)).trans (congrArg State.cal arms)
    refine ⟨State.keeps_trans (State.keeps_mono (s.configured_keeps cfg) (by decide))
      (State.keeps_trans (State.keeps_mono only (by decide)) (State.keeps_mono ended (by decide))), ?_, ?_⟩ <;> rw [cal] <;> rfl

/-! ### The switches (04 R70) -/

theorem switchWrite_stores (b : Byte) (hr : s.reaches (.switchWrite 0 [b]) = true) :
    ∃ t, exec (.switchWrite 0 [b]) s = .next t ∧
      (31 < b.toNat → s.fails t .badValue) ∧
      (b.toNat ≤ 31 → s.answered t .ok ∧ t.cfg = { s.cfg with
          replace := b.getLsbD 0, autoAdvance := b.getLsbD 1, clearQueue := b.getLsbD 2, sendIdle := b.getLsbD 3,
          autoCommit := b.getLsbD 4 } ∧
        ((b.getLsbD 1 = false ∨ s.floor.mode ≠ .queue) → s.keeps t (.cfg :: opPieces))) := by
  obtain ⟨t, next, fails, answers⟩ := State.reaches_ends hr rfl rfl rfl
  have value : number [b] = b.toNat := number_singleton b
  refine ⟨t, next, fun bad => fails _ (State.writeConfig_fails (fld := 1) (k := 1) rfl rfl (by decide) ?_) rfl, fun good => ?_⟩
  · simp only [Settings.store, value]
    exact if_pos bad
  · have stored : s.cfg.store ⟨0, 1, [b]⟩ = .ok (s.cfg.setSwitches b.toNat, false) := by
      simp only [Settings.store, value]
      exact if_neg (by omega)
    have owner := State.writeConfig_one (fld := 1) (k := 1) rfl rfl (by decide) stored
    rw [Settings.settle_other _ (by omega), State.configEffects_switches, Bool.or_false] at owner
    set u := s.configured (s.cfg.setSwitches b.toNat)
    have checked : u.keeps (if u.cfg.autoAdvance then u.autoAdvance else u) floorPieces := by
      split
      · exact u.autoAdvance_keeps
      · exact u.keeps_refl _
    have sends : s.Sends (if u.cfg.autoAdvance then u.autoAdvance else u) := by
      split
      · exact u.autoAdvance_sends.from rfl
      · exact .of_eq rfl
    obtain ⟨answered, ended⟩ := answers _ _ _ owner (State.keeps_trans (l := .cfg :: floorPieces)
      (State.keeps_mono (s.configured_keeps _) (by decide)) (State.keeps_mono checked (by decide))) (by decide) (by decide) sends
    refine ⟨answered, (ended .cfg (by decide)).trans (checked .cfg (by decide)), fun off => ?_⟩
    have still : (if u.cfg.autoAdvance then u.autoAdvance else u) = u := by
      rcases off with off | off
      · exact if_neg (by rw [show u.cfg.autoAdvance = b.getLsbD 1 from rfl, off]; decide)
      · rw [State.autoAdvance_off u (.inl off), ite_self]
    rw [still] at ended
    exact (State.keeps_configured ended).1

/-! ### The gaps, the detector and the pages (05 R105, 07 R143, 08 R148) -/

theorem detectorWrite_settles (i : Instr) (n : BitVec 16) (b : Byte) (cfg : Settings) (clamped : Bool) (hr : s.reaches i = true)
    (hi : i = .detectorSettingsWrite 0 5 [b] ∧ cfg = { s.cfg with kAtt := max 1 b.toNat } ∧ clamped = decide (b = 0) ∨
      i = .detectorSettingsWrite 0 6 [b] ∧ cfg = { s.cfg with kRel := max 1 b.toNat } ∧ clamped = decide (b = 0) ∨
      i = .detectorSettingsWrite 0 7 (be16 n.toNat) ∧ cfg = { s.cfg with openThr := min 32767 n.toNat } ∧
        clamped = decide (32767 < n.toNat) ∨
      i = .detectorSettingsWrite 0 8 (be16 n.toNat) ∧ cfg = { s.cfg with closeThr := min 32767 n.toNat } ∧
        clamped = decide (32767 < n.toNat) ∨
      i = .detectorSettingsWrite 0 9 (be16 n.toNat) ∧ cfg = { s.cfg with hold := min 4000 n.toNat } ∧
        clamped = decide (4000 < n.toNat)) :
    ∃ t, exec i s = .next t ∧ s.keeps t (.cfg :: opPieces) ∧
      s.answered t (if clamped ∨ cfg.openThr < cfg.closeThr then .clamped else .ok) ∧
      t.cfg = { cfg with closeThr := min cfg.openThr cfg.closeThr } ∧ t.cfg.closeThr ≤ t.cfg.openThr := by
  have value : number (be16 n.toNat) = n.toNat := number_be16 n.isLt
  have byte : clampTo 1 255 (number [b]) = max 1 b.toNat ∧ (decide (number [b] = 0) || decide (255 < number [b])) = decide (b = 0) := by
    have lt := b.isLt
    have zero : b.toNat = 0 ↔ b = 0 := ⟨fun h => BitVec.eq_of_toNat_eq h, fun h => by rw [h]; rfl⟩
    rw [number_singleton, clampTo, decide_eq_false (show ¬ 255 < b.toNat by omega), Bool.or_false, decide_eq_decide.2 zero]
    exact ⟨by omega, rfl⟩
  have settled : ∀ (fld k : Nat) (vals : List Byte) (op : Op), i.op = some op → op.isRead = false →
      exec i s = s.runOp op (State.writeConfig 0 fld vals) → 5 ≤ fld ∧ fld ≤ 9 → valueShape .config 0 fld = some [.fixed k] →
      vals.length = k → 0 < k → s.cfg.store ⟨0, fld, vals⟩ = .ok (cfg, clamped) → ∃ t, exec i s = .next t ∧
        s.keeps t (.cfg :: opPieces) ∧ s.answered t (if clamped ∨ cfg.openThr < cfg.closeThr then .clamped else .ok) ∧
        t.cfg = { cfg with closeThr := min cfg.openThr cfg.closeThr } ∧ t.cfg.closeThr ≤ t.cfg.openThr := by
    intro fld k vals op hop hread hx hf hs hl hk hc
    obtain ⟨t, next, keeps, answered, stored⟩ := configWrite_stores hr hop hread hx (by omega) hs hl hk hc
    rw [Settings.settle_detector _ hf] at answered stored
    refine ⟨t, next, keeps, ?_, stored, by rw [stored]; exact min_le_left _ _⟩
    rw [← okOr_decide, Bool.decide_or, Bool.decide_eq_true]
    exact answered
  rcases hi with ⟨rfl, rfl, rfl⟩ | ⟨rfl, rfl, rfl⟩ | ⟨rfl, rfl, rfl⟩ | ⟨rfl, rfl, rfl⟩ | ⟨rfl, rfl, rfl⟩
  · refine settled 5 1 [b] _ rfl rfl rfl (by decide) rfl rfl (by decide) ?_
    simp only [Settings.store, byte]
  · refine settled 6 1 [b] _ rfl rfl rfl (by decide) rfl rfl (by decide) ?_
    simp only [Settings.store, byte]
  · refine settled 7 2 (be16 n.toNat) _ rfl rfl rfl (by decide) rfl rfl (by decide) ?_
    simp only [Settings.store, limited, value]
  · refine settled 8 2 (be16 n.toNat) _ rfl rfl rfl (by decide) rfl rfl (by decide) ?_
    simp only [Settings.store, limited, value]
  · refine settled 9 2 (be16 n.toNat) _ rfl rfl rfl (by decide) rfl rfl (by decide) ?_
    simp only [Settings.store, limited, value]

/-- OPEN_GAP and CLOSE_GAP (05 R105). -/
theorem gapWrite_stores (fld : Byte) (n : BitVec 16) (hf : fld = 2 ∨ fld = 3)
    (hr : s.reaches (.gapWarnWrite 0 fld (be16 n.toNat)) = true) :
    ∃ t, exec (.gapWarnWrite 0 fld (be16 n.toNat)) s = .next t ∧ s.keeps t (.cfg :: opPieces) ∧
      s.answered t (if (if fld = 2 then 15 else 255) < n.toNat then .clamped else .ok) ∧
      (fld = 2 → t.cfg = { s.cfg with openGap := min 15 n.toNat }) ∧
      (fld = 3 → t.cfg = { s.cfg with closeGap := min 255 n.toNat }) := by
  have value : number (be16 n.toNat) = n.toNat := number_be16 n.isLt
  rcases hf with rfl | rfl
  · obtain ⟨t, next, keeps, answered, stored⟩ := configWrite_stores (fld := 2) (k := 2) (cfg := { s.cfg with openGap := min 15 n.toNat })
      (clamped := decide (15 < n.toNat)) hr rfl rfl rfl (by decide) rfl rfl (by decide) (by simp only [Settings.store, limited, value])
    rw [Settings.settle_other _ (by decide)] at answered stored
    rw [Bool.or_false, okOr_decide] at answered
    exact ⟨t, next, keeps, answered, fun _ => stored, fun k => absurd k (by decide)⟩
  · obtain ⟨t, next, keeps, answered, stored⟩ := configWrite_stores (fld := 3) (k := 2) (cfg := { s.cfg with closeGap := min 255 n.toNat })
      (clamped := decide (255 < n.toNat)) hr rfl rfl rfl (by decide) rfl rfl (by decide) (by simp only [Settings.store, limited, value])
    rw [Settings.settle_other _ (by decide)] at answered stored
    rw [Bool.or_false, okOr_decide] at answered
    exact ⟨t, next, keeps, answered, fun k => absurd k (by decide), fun _ => stored⟩

/-- A page is stored where it names a template, and fails BAD_VALUE where it names none. -/
theorem pageWrite_stores (fld b : Byte) (page : Settings → Fin 16 → Settings) (hf : 10 ≤ fld.toNat ∧ fld.toNat ≤ 15)
    (hr : s.reaches (.pageSelectionWrite 0 fld [b]) = true)
    (hp : ∀ c : Settings, c.store ⟨0, fld.toNat, [b]⟩ = pageValue b.toNat (page c)) :
    ∃ t, exec (.pageSelectionWrite 0 fld [b]) s = .next t ∧ (16 ≤ b.toNat → s.fails t .badValue) ∧
      ∀ k : Fin 16, b.toNat = k.val → s.keeps t (.cfg :: opPieces) ∧ s.answered t .ok ∧ t.cfg = page s.cfg k := by
  have shape : valueShape .config 0 fld.toNat = some [.fixed 1] := by
    simp only [valueShape]
    rw [if_neg (by omega), if_pos (by omega)]
  by_cases bad : 16 ≤ b.toNat
  · obtain ⟨t, next, fails, -⟩ := State.reaches_ends hr rfl rfl rfl
    refine ⟨t, next, fun _ => fails _ (State.writeConfig_fails shape rfl (by decide) ?_) rfl, fun k hk => absurd k.isLt (by omega)⟩
    rw [hp, pageValue, keyOf, dif_neg (by omega)]
  · obtain ⟨t, next, keeps, answered, stored⟩ := configWrite_stores (clamped := false) (cfg := page s.cfg ⟨b.toNat, by omega⟩)
      hr rfl rfl rfl (by omega) shape rfl (by decide) (by rw [hp, pageValue, keyOf, dif_pos (by omega)])
    rw [Settings.settle_other _ (by omega)] at answered stored
    refine ⟨t, next, fun k => absurd k bad, fun k hk => ⟨keeps, answered, ?_⟩⟩
    rw [stored, show (⟨b.toNat, by omega⟩ : Fin 16) = k from Fin.ext hk]

theorem pageSelection_stores (fld b : Byte) (hl : 10 ≤ fld.toNat) (hu : fld.toNat ≤ 15)
    (hr : s.reaches (.pageSelectionWrite 0 fld [b]) = true) :
    ∃ t, exec (.pageSelectionWrite 0 fld [b]) s = .next t ∧
      (16 ≤ b.toNat → s.fails t .badValue) ∧
      (∀ k : Fin 16, b.toNat = k.val → s.keeps t (.cfg :: opPieces) ∧ s.answered t .ok ∧
        (fld = 10 → t.cfg = { s.cfg with idlePage := k }) ∧ (fld = 11 → t.cfg = { s.cfg with armedPage := k }) ∧
        (fld = 12 → t.cfg = { s.cfg with delegatePage := k }) ∧ (fld = 13 → t.cfg = { s.cfg with chairPage := k }) ∧
        (fld = 14 → t.cfg = { s.cfg with observerPage := k }) ∧ (fld = 15 → t.cfg = { s.cfg with guestPage := k })) := by
  have value : number [b] = b.toNat := number_singleton b
  have named : fld = 10 ∨ fld = 11 ∨ fld = 12 ∨ fld = 13 ∨ fld = 14 ∨ fld = 15 := by bv_omega
  have taken : ∀ page : Settings → Fin 16 → Settings,
      (∀ c : Settings, c.store ⟨0, fld.toNat, [b]⟩ = pageValue (number [b]) (page c)) → _ := fun page hp =>
    pageWrite_stores fld b page ⟨hl, hu⟩ hr (by rwa [value] at hp)
  rcases named with rfl | rfl | rfl | rfl | rfl | rfl
  · obtain ⟨t, next, bad, good⟩ := taken (fun c k => { c with idlePage := k }) fun _ => rfl
    exact ⟨t, next, bad, fun k hk => by simpa using good k hk⟩
  · obtain ⟨t, next, bad, good⟩ := taken (fun c k => { c with armedPage := k }) fun _ => rfl
    exact ⟨t, next, bad, fun k hk => by simpa using good k hk⟩
  · obtain ⟨t, next, bad, good⟩ := taken (fun c k => { c with delegatePage := k }) fun _ => rfl
    exact ⟨t, next, bad, fun k hk => by simpa using good k hk⟩
  · obtain ⟨t, next, bad, good⟩ := taken (fun c k => { c with chairPage := k }) fun _ => rfl
    exact ⟨t, next, bad, fun k hk => by simpa using good k hk⟩
  · obtain ⟨t, next, bad, good⟩ := taken (fun c k => { c with observerPage := k }) fun _ => rfl
    exact ⟨t, next, bad, fun k hk => by simpa using good k hk⟩
  · obtain ⟨t, next, bad, good⟩ := taken (fun c k => { c with guestPage := k }) fun _ => rfl
    exact ⟨t, next, bad, fun k hk => by simpa using good k hk⟩

end Config

end Sys2Proof.Machine

namespace Sys2Proof.Machine

/-! ## The warn time: every seat's limit is evaluated, the lowest seat first (05 R106, R111) -/

section Evaluated
variable {s : State} {i : Seat}

/-- The turn of the seat stands at its limit or beyond. -/
def State.overLimit (s : State) (i : Seat) : Bool :=
  decide ((s.micOf i).state = .opened ∧ ∃ l, s.limitOf i = some l ∧ l * 10 ≤ (s.micOf i).timer)

theorem State.overLimit_iff : s.overLimit i = true ↔
    (s.micOf i).state = .opened ∧ ∃ l, s.limitOf i = some l ∧ l * 10 ≤ (s.micOf i).timer := decide_eq_true_iff

/-- The evaluation of the seat has something to tell: a new warning, or a limit reached under AUTO. -/
def State.tells (s : State) (i : Seat) : Prop :=
  (s.micOf i).state = .opened ∧ ∃ l, s.limitOf i = some l ∧
    ((s.micOf i).warning = false ∧ s.warnPoint l ≤ (s.micOf i).timer ∨ s.mic.limitAction = .auto ∧ s.overLimit i = true)

/-- An evaluation that removes nobody marks the turn. -/
theorem State.evaluateLimit_stays (h : s.mic.limitAction = .warn ∨ s.overLimit i = false) :
    s.keeps (s.evaluateLimit i) [.mic, .sending, .linkCounters] ∧ s.SameLimits (s.evaluateLimit i) ∧
      ∀ j, (s.evaluateLimit i).micOf j = if j = i ∧ (s.micOf i).state = .opened then s.marksOf (s.limitOf i) (s.micOf i)
        else s.micOf j := by
  by_cases ho : (s.micOf i).state = .opened
  · have under : ∀ l, s.limitOf i = some l → s.mic.limitAction = .warn ∨ (s.micOf i).timer < limitPoint l := fun l hl =>
      h.imp_right fun no => by
        by_contra reached
        rw [Bool.eq_false_iff, ne_eq, State.overLimit_iff] at no
        exact no ⟨ho, l, hl, not_lt.1 reached⟩
    obtain ⟨keeps, mics⟩ := State.evaluateLimit_marks ho under
    refine ⟨keeps, ?_, fun j => by rw [mics]; simp only [ho, and_true]⟩
    cases hl : s.limitOf i with
    | none =>
      rw [s.evaluateLimit_none i ho hl]
      exact s.setMic_limits i _
    | some l =>
      have stays : ¬ (s.mic.limitAction = .auto && decide (limitPoint l ≤ (s.micOf i).timer)) = true := by
        rcases under l hl with k | k
        · simp [k]
        · simp [not_le.2 k]
      rw [s.evaluateLimit_some i ho hl, if_neg stays]
      exact s.limitMarked_limits i l
  · rw [s.evaluateLimit_closed i ho]
    exact ⟨s.keeps_refl _, .refl s, fun j => by simp [ho]⟩

/-- An evaluation under AUTO of a limit that is reached removes the seat, from a state that has its marks. -/
theorem State.evaluateLimit_leaves (ha : s.mic.limitAction = .auto) (h : s.overLimit i = true) :
    ∃ m, s.evaluateLimit i = m.removeThenAdvance i .limit ∧ s.keeps m [.mic, .sending, .linkCounters] ∧ s.SameLimits m ∧
      (∀ j, j ≠ i → m.micOf j = s.micOf j) ∧ (m.micOf i).state = .opened := by
  obtain ⟨ho, l, hl, reached⟩ := State.overLimit_iff.1 h
  refine ⟨s.limitMarked i l, ?_, s.limitMarked_keeps i l, s.limitMarked_limits i l, fun j hj => ?_, ?_⟩
  · rw [s.evaluateLimit_some i ho hl, if_pos (by simp [ha, limitPoint, reached])]
  · rw [s.limitMarked_micOf, if_neg hj]
  · rw [s.limitMarked_micOf, if_pos rfl]
    exact ho

/-- An evaluation with nothing to tell sends nothing, and moves no other microphone. -/
theorem State.evaluateLimit_silent (h : ¬ s.tells i) : (s.evaluateLimit i).link = s.link ∧ s.SameLimits (s.evaluateLimit i) ∧
    ∀ j, j ≠ i → (s.evaluateLimit i).micOf j = s.micOf j := by
  by_cases ho : (s.micOf i).state = .opened
  · cases hl : s.limitOf i with
    | none =>
      rw [s.evaluateLimit_none i ho hl]
      exact ⟨rfl, s.setMic_limits i _, fun j hj => by rw [State.micOf_setMic, if_neg hj]⟩
    | some l =>
      have quiet : ¬ ((s.micOf i).warning = false ∧ s.warnPoint l ≤ (s.micOf i).timer) := fun k => h ⟨ho, l, hl, .inl k⟩
      have stays : s.mic.limitAction = .warn ∨ s.overLimit i = false := by
        by_contra k
        rw [not_or] at k
        refine h ⟨ho, l, hl, .inr ⟨?_, by simpa using k.2⟩⟩
        cases hw : s.mic.limitAction with
        | warn => exact absurd hw k.1
        | auto => rfl
      obtain ⟨-, limits, mics⟩ := State.evaluateLimit_stays stays
      refine ⟨?_, limits, fun j hj => by rw [mics, if_neg fun k => hj k.1]⟩
      have under : ¬ (s.mic.limitAction = .auto && decide (limitPoint l ≤ (s.micOf i).timer)) = true := fun k => by
        rw [Bool.and_eq_true, decide_eq_true_eq, decide_eq_true_eq] at k
        rcases stays with w | w
        · rw [w] at k
          exact absurd k.1 (by decide)
        · rw [Bool.eq_false_iff, ne_eq, State.overLimit_iff] at w
          exact w ⟨ho, l, hl, k.2⟩
      rw [s.evaluateLimit_some i ho hl, if_neg under, State.limitMarked,
        if_neg (by simpa using fun a => by rw [Bool.eq_true_of_not_eq_false fun b => quiet ⟨b, a⟩])]
      rfl
  · rw [s.evaluateLimit_closed i ho]
    exact ⟨rfl, .refl s, fun _ _ => rfl⟩

/-- A new warning is told first, before the removal of the same evaluation (log 50). -/
theorem State.evaluateLimit_warns {l : Nat} (hl : s.limitOf i = some l) (ho : (s.micOf i).state = .opened)
    (hw : (s.micOf i).warning = false) (hp : s.warnPoint l ≤ (s.micOf i).timer) :
    s.notified (s.evaluateLimit i) 0x03 (be8 i.val ++ be16 l ++ be16 (s.micOf i).timer) := by
  have told := State.limitMarked_notified l hw hp
  rw [s.evaluateLimit_some i ho hl]
  split
  · obtain ⟨more, -, queue⟩ := (s.limitMarked i l).removeThenAdvance_sends i .limit
    exact State.notified_mono told ⟨more, queue.symm⟩
  · exact told

end Evaluated

section Sweep
variable {s u : State} {done : List Seat} {i : Seat}

/-- The limit of every seat has been evaluated, the lowest seat first. -/
def State.limitsEvaluated (s : State) : State := (numbers 64).foldl State.evaluateLimit s

theorem State.limitsEvaluated_sends (s : State) : s.Sends s.limitsEvaluated :=
  State.sends_foldl _ (fun v j => v.evaluateLimit_sends j) _ s

theorem State.limitsEvaluated_keeps (s : State) : s.keeps s.limitsEvaluated sessionPieces := by
  unfold State.limitsEvaluated
  generalize numbers 64 = l
  induction l generalizing s with
  | nil => exact s.keeps_refl _
  | cons j l ih => exact State.keeps_trans (s.evaluateLimit_keeps j) (ih _)

/-- Where nothing is OPEN nothing is evaluated. -/
theorem State.limitsEvaluated_closed (h : ∀ j, (s.micOf j).state ≠ .opened) : s.limitsEvaluated = s := by
  unfold State.limitsEvaluated
  generalize numbers 64 = l
  induction l with
  | nil => rfl
  | cons j l ih => rw [List.foldl_cons, s.evaluateLimit_closed j (h j), ih]

/-- The seats of `done` have their marks. -/
structure State.Marked (s u : State) (done : List Seat) : Prop where
  keeps : s.keeps u [.mic, .sending, .linkCounters]
  limits : s.SameLimits u
  mics : ∀ j, u.micOf j = if j ∈ done ∧ (s.micOf j).state = .opened then s.marksOf (s.limitOf j) (s.micOf j) else s.micOf j

theorem State.marksOf_same (h : s.SameLimits u) (l : Option Nat) (m : MicRec) : u.marksOf l m = s.marksOf l m := by
  cases l with
  | none => rfl
  | some l =>
    exact congrArg₂ (fun (w : Nat) (a : LimitAction) => ({ m with
      warning := decide ((l - w) * 10 ≤ m.timer), overMark := a = .warn && decide (limitPoint l ≤ m.timer) } : MicRec))
      (congrArg Settings.warnTime h.cfg) h.limitAction

theorem State.overLimit_same (h : s.SameLimits u) (hm : u.micOf i = s.micOf i) : u.overLimit i = s.overLimit i := by
  rw [Bool.eq_iff_iff, State.overLimit_iff, State.overLimit_iff, hm, h.limitOf]

theorem State.Marked.step (hs : s.mic.limitAction = .warn ∨ ∀ j, s.overLimit j = false) (hd : i ∉ done) (h : s.Marked u done) :
    s.Marked (u.evaluateLimit i) (done ++ [i]) := by
  have own : u.micOf i = s.micOf i := by rw [h.mics, if_neg fun k => hd k.1]
  obtain ⟨keeps, limits, mics⟩ := State.evaluateLimit_stays (s := u) (i := i) (hs.imp h.limits.limitAction.trans fun k =>
    (State.overLimit_same h.limits own).trans (k i))
  refine ⟨State.keeps_trans h.keeps keeps, h.limits.trans limits, fun j => ?_⟩
  rw [mics, own, State.marksOf_same h.limits, h.limits.limitOf]
  by_cases hj : j = i
  · subst hj
    simp only [List.mem_append, List.mem_singleton, or_true, true_and]
    split
    · rfl
    · exact own
  · rw [if_neg fun k => hj k.1, h.mics]
    simp only [List.mem_append, List.mem_singleton, hj, or_false]

/-- Where no limit is reached under AUTO, the evaluations mark every turn. -/
theorem State.limitsEvaluated_marks (hs : s.mic.limitAction = .warn ∨ ∀ j, s.overLimit j = false) :
    s.Marked s.limitsEvaluated (numbers 64) :=
  foldl_done (P := s.Marked) (fun _ _ _ _ hd h => h.step hs hd) (List.nodup_finRange 64)
    ⟨s.keeps_refl _, .refl s, fun j => by simp⟩

/-- The seats before one, and those after it. -/
theorem numbers_split {n : Nat} (i : Fin n) : ∃ before after, numbers n = before ++ i :: after ∧ ∀ j ∈ before, j < i := by
  obtain ⟨before, after, split⟩ := List.append_of_mem (List.mem_finRange i)
  refine ⟨before, after, split, fun j hj => ?_⟩
  have sorted : (before ++ i :: after).Pairwise (· < ·) := split ▸ List.pairwise_lt_finRange n
  exact (List.pairwise_append.1 sorted).2.2 j hj i List.mem_cons_self

/-- Seats with nothing to tell leave the queue as it is. -/
theorem State.evaluations_silent (l : List Seat) (hn : l.Nodup) (h : ∀ j ∈ l, ¬ s.tells j) :
    (l.foldl State.evaluateLimit s).link = s.link ∧ s.SameLimits (l.foldl State.evaluateLimit s) ∧
      ∀ j, j ∉ l → (l.foldl State.evaluateLimit s).micOf j = s.micOf j := by
  refine foldl_done (P := fun u done => u.link = s.link ∧ s.SameLimits u ∧ ∀ j, j ∉ done → u.micOf j = s.micOf j) ?_ hn
    ⟨rfl, .refl s, fun _ _ => rfl⟩
  intro u done i hi hd ⟨link, limits, mics⟩
  have silent : ¬ u.tells i := fun ⟨ho, l, hl, k⟩ => h i hi ⟨by rwa [← mics i hd], l, by rwa [← limits.limitOf], by
    rwa [State.overLimit_same limits (mics i hd), mics i hd, limits.limitAction, State.warnPoint, limits.cfg] at k⟩
  obtain ⟨link', limits', mics'⟩ := State.evaluateLimit_silent silent
  refine ⟨link'.trans link, limits.trans limits', fun j hj => ?_⟩
  rw [List.mem_append, List.mem_singleton, not_or] at hj
  rw [mics' j hj.2, mics j hj.1]

/-- The lowest seat with something to tell tells its new warning. -/
theorem State.limitsEvaluated_notified {l : Nat} (hl : s.limitOf i = some l) (ho : (s.micOf i).state = .opened)
    (hw : (s.micOf i).warning = false) (hp : s.warnPoint l ≤ (s.micOf i).timer) (first : ∀ j, j < i → ¬ s.tells j) :
    s.notified s.limitsEvaluated 0x03 (be8 i.val ++ be16 l ++ be16 (s.micOf i).timer) := by
  obtain ⟨before, after, split, lower⟩ := numbers_split i
  have nodup : (before ++ i :: after).Nodup := split ▸ List.nodup_finRange 64
  have out : i ∉ before := fun k => absurd (lower i k) (lt_irrefl i)
  obtain ⟨link, limits, mics⟩ := State.evaluations_silent before (List.nodup_append.1 nodup).1 fun j hj => first j (lower j hj)
  rw [State.limitsEvaluated, split, List.foldl_append, List.foldl_cons]
  set u := before.foldl State.evaluateLimit s
  have own := mics i out
  have told := State.evaluateLimit_warns (s := u) ((limits.limitOf i).trans hl) (by rwa [own]) (by rwa [own])
    (by rwa [own, State.warnPoint, limits.cfg])
  obtain ⟨more, -, queue⟩ := State.sends_foldl _ (fun v j => State.evaluateLimit_sends v j) after (u.evaluateLimit i)
  rw [own] at told
  unfold State.notified at told ⊢
  rw [link] at told
  exact fun d hd hq => List.IsPrefix.subset ⟨more, queue.symm⟩ (told d hd hq)

end Sweep

end Sys2Proof.Machine

namespace Sys2Proof.Machine

/-! ## A grant leaves the limits -/

section GrantLimits
variable (s : State) (seat : Seat)

theorem State.dequeue_session : (s.dequeue seat).mic.speakLimit = s.mic.speakLimit ∧
    (s.dequeue seat).mic.limitAction = s.mic.limitAction := by
  unfold State.dequeue
  split <;> exact ⟨rfl, rfl⟩

theorem State.grantSeat_limits (c : Source) : s.SameLimits (s.grantSeat seat c) := by
  obtain ⟨speak, action⟩ := s.dequeue_session seat
  exact .of_eq (by simp) (by simp) (by simpa [State.grantSeat, State.micGrant, State.setFloor] using speak)
    (by simpa [State.grantSeat, State.micGrant, State.setFloor] using action) (by simp)

theorem State.advanceLoop_limits (n : Nat) (s : State) : s.SameLimits (State.advanceLoop n s) := by
  induction n generalizing s with
  | zero => exact .refl s
  | succ n ih =>
    unfold State.advanceLoop
    split
    · exact .refl s
    · split
      · exact (s.grantSeat_limits _ _).trans (ih _)
      · exact .refl s

theorem State.autoAdvance_limits : s.SameLimits s.autoAdvance := by
  unfold State.autoAdvance
  split
  · exact State.advanceLoop_limits _ s
  · exact .refl s

end GrantLimits

/-! ## The limits reached in IN_SESSION -/

section InSession
variable {s u m : State} {done : List Seat} {i : Seat} {k : Nat}

/-- Of the open list, what stays when the seats of `done` have left whose limit is reached. -/
def State.withinLimit (s : State) (done : List Seat) : List OpenEntry :=
  s.floor.openList.filter fun e => !(decide (e.seat ∈ done) && s.overLimit e.seat)

theorem State.withinLimit_nil (s : State) : s.withinLimit [] = s.floor.openList :=
  List.filter_eq_self.2 fun e _ => by simp

theorem State.withinLimit_all (s : State) : s.withinLimit (numbers 64) = s.floor.openList.filter fun e => !s.overLimit e.seat :=
  List.filter_congr fun e _ => by rw [decide_eq_true (List.mem_finRange e.seat), Bool.true_and]

theorem State.withinLimit_stays (done : List Seat) (h : s.overLimit i = false) : s.withinLimit (done ++ [i]) = s.withinLimit done :=
  List.filter_congr fun e _ => by
    by_cases he : e.seat = i
    · rw [he, h, Bool.and_false, Bool.and_false]
    · simp [he]

theorem State.withinLimit_leaves (done : List Seat) (h : s.overLimit i = true) :
    s.withinLimit (done ++ [i]) = (s.withinLimit done).filter fun e => e.seat ≠ i := by
  rw [State.withinLimit, State.withinLimit, List.filter_filter]
  refine List.filter_congr fun e _ => ?_
  by_cases he : e.seat = i
  · simp [he, h]
  · simp [he]

/-- A seat that finds room beside a list finds it beside a part of the list. -/
theorem State.roomBeside_sublist {l l' : List OpenEntry} {seat : Seat} (h : l'.Sublist l) (hr : s.roomBeside l seat) :
    s.roomBeside l' seat := by
  obtain ⟨short, few⟩ := hr
  refine ⟨h.length_le.trans_lt short, few.imp_right fun k => (h.filter _).length_le.trans_lt k⟩

/-- A seat whose limit is reached holds the floor, and does not wait for it. -/
theorem State.overLimit_holds (hf : s.FloorOk) (hm : s.MicOk) (h : s.overLimit i = true) :
    s.holds i = true ∧ ∀ e ∈ s.floor.queue, e.seat ≠ i := by
  have holds := (hm i).2 (.inr (State.overLimit_iff.1 h).1)
  exact ⟨holds, (s.queued_false_iff i).1 (hf.sane.not_queued holds)⟩

/-- In IN_SESSION the seats of `done` have been evaluated under AUTO: those at their limit have left the list, and `k` heads of
the queue have been granted in between. -/
structure State.Swept (s u : State) (done : List Seat) (k : Nat) : Prop where
  bound : k ≤ s.floor.queue.length
  keeps : s.keeps u floorPieces
  limits : s.SameLimits u
  mode : u.floor.mode = s.floor.mode ∧ u.floor.maxOpen = s.floor.maxOpen
  openList : u.floor.openList = s.withinLimit done ++ s.granted (s.floor.queue.take k)
  queue : u.floor.queue = s.floor.queue.drop k
  none : s.noAdvance → k = 0
  room : ∀ (n : Nat) (e : QueueEntry), s.floor.queue[n]? = some e → n < k →
    s.roomBeside (s.withinLimit done ++ s.granted (s.floor.queue.take n)) e.seat
  full : ¬ s.noAdvance → (∃ j ∈ done, s.overLimit j = true) → ∀ e : QueueEntry, s.floor.queue[k]? = some e →
    ¬ s.roomBeside (s.withinLimit done ++ s.granted (s.floor.queue.take k)) e.seat
  opening : ∀ e ∈ s.floor.queue.take k, (u.micOf e.seat).state = .opening ∧ (u.micOf e.seat).gap = s.cfg.openGap ∧
    (u.micOf e.seat).queued = false
  closes : ∀ j ∈ done, s.overLimit j = true → (u.micOf j).state = .closing ∧ (u.micOf j).gap = s.cfg.closeGap
  rest : ∀ j, (j ∉ done ∨ (s.micOf j).state ≠ .opened) → (∀ e ∈ s.floor.queue.take k, e.seat ≠ j) → u.micOf j = s.micOf j

theorem State.Swept.start (s : State) : s.Swept s [] 0 where
  bound := Nat.zero_le _
  keeps := s.keeps_refl _
  limits := .refl s
  mode := ⟨rfl, rfl⟩
  openList := by rw [s.withinLimit_nil]; exact (List.append_nil _).symm
  queue := rfl
  none _ := rfl
  room _ _ _ h := absurd h (Nat.not_lt_zero _)
  full _ h := by
    obtain ⟨j, hj, -⟩ := h
    exact absurd hj List.not_mem_nil
  opening _ h := absurd h List.not_mem_nil
  closes _ h := absurd h List.not_mem_nil
  rest _ _ _ := rfl

/-- One more seat stays where it is: its turn may be marked. -/
theorem State.Swept.stays (h : s.Swept u done k) {v : State} (hi : s.overLimit i = false)
    (keeps : u.keeps v [.mic, .sending, .linkCounters]) (limits : u.SameLimits v)
    (mics : ∀ j, j ≠ i ∨ (s.micOf i).state ≠ .opened → v.micOf j = u.micOf j)
    (hq : ∀ e ∈ s.floor.queue.take k, e.seat = i → (s.micOf i).state ≠ .opened) : s.Swept v (done ++ [i]) k where
  bound := h.bound
  keeps := State.keeps_trans h.keeps (State.keeps_mono keeps (by decide))
  limits := h.limits.trans limits
  mode := by rw [keeps .floor (by decide)]; exact h.mode
  openList := by rw [keeps .floor (by decide), s.withinLimit_stays done hi]; exact h.openList
  queue := by rw [keeps .floor (by decide)]; exact h.queue
  none := h.none
  room := by rw [s.withinLimit_stays done hi]; exact h.room
  full ha := by
    rw [s.withinLimit_stays done hi]
    rintro ⟨j, hj, reached⟩
    refine h.full ha ⟨j, (List.mem_append.1 hj).resolve_right fun e => ?_, reached⟩
    rw [List.mem_singleton.1 e, hi] at reached
    cases reached
  opening e he := by
    rw [mics e.seat (or_iff_not_imp_left.2 fun x => hq e he (not_not.1 x))]
    exact h.opening e he
  closes j hj reached := by
    have ne : j ≠ i := fun e => by rw [e, hi] at reached; cases reached
    rw [mics j (.inl ne)]
    exact h.closes j ((List.mem_append.1 hj).resolve_right fun e => ne (List.mem_singleton.1 e)) reached
  rest j hj hn := by
    have outside : j ∉ done ∨ (s.micOf j).state ≠ .opened := hj.imp_left fun x y => x (List.mem_append_left _ y)
    rw [mics j (hj.elim (fun x => .inl fun e => x (by simp [e])) fun x => or_iff_not_imp_left.2 fun e => by
      rw [← not_not.1 e]; exact x)]
    exact h.rest j outside hn

/-- One more seat has left the list, and a check has granted `n` more heads of the queue. -/
theorem State.Swept.leaves (h : s.Swept u done k) (hf : s.FloorOk) (hm : s.MicOk) (hi : s.overLimit i = true) {r v : State} {n : Nat}
    (hn : n ≤ u.floor.queue.length) (keeps : u.keeps v floorPieces) (limits : u.SameLimits v) (rlimits : u.SameLimits r)
    (rmax : r.floor.maxOpen = u.floor.maxOpen)
    (mode : v.floor.mode = u.floor.mode ∧ v.floor.maxOpen = u.floor.maxOpen)
    (openList : v.floor.openList = u.floor.openList.filter (fun e => e.seat ≠ i) ++ s.granted (u.floor.queue.take n))
    (queue : v.floor.queue = u.floor.queue.drop n) (none : s.noAdvance → n = 0)
    (room : ∀ (x : Nat) (e : QueueEntry), u.floor.queue[x]? = some e → x < n →
      r.roomBeside (u.floor.openList.filter (fun e => e.seat ≠ i) ++ s.granted (u.floor.queue.take x)) e.seat)
    (full : ¬ s.noAdvance → ∀ e : QueueEntry, u.floor.queue[n]? = some e →
      ¬ r.roomBeside (u.floor.openList.filter (fun e => e.seat ≠ i) ++ s.granted (u.floor.queue.take n)) e.seat)
    (opening : ∀ e ∈ u.floor.queue.take n, (v.micOf e.seat).state = .opening ∧ (v.micOf e.seat).gap = s.cfg.openGap ∧
      (v.micOf e.seat).queued = false)
    (closes : (v.micOf i).state = .closing ∧ (v.micOf i).gap = s.cfg.closeGap)
    (rest : ∀ j, j ≠ i → (∀ e ∈ u.floor.queue.take n, e.seat ≠ j) → v.micOf j = u.micOf j) :
    s.Swept v (done ++ [i]) (k + n) := by
  obtain ⟨-, waits⟩ := State.overLimit_holds hf hm hi
  have nodup : (s.floor.queue.map (·.seat)).Nodup := hf.sane.queue_nodup
  have left : ∀ l : List QueueEntry, (∀ e ∈ l, e ∈ s.floor.queue) →
      (s.withinLimit done ++ s.granted l).filter (fun e => e.seat ≠ i) = s.withinLimit (done ++ [i]) ++ s.granted l := by
    intro l hl
    rw [List.filter_append, ← s.withinLimit_leaves done hi]
    congr 1
    refine List.filter_eq_self.2 fun e he => ?_
    obtain ⟨q, hq, rfl⟩ := List.mem_map.1 he
    simpa using waits q (hl q hq)
  have takes : ∀ x, s.floor.queue.take (k + x) = s.floor.queue.take k ++ (s.floor.queue.drop k).take x := fun x => List.take_add
  have beside : ∀ x, u.floor.openList.filter (fun e => e.seat ≠ i) ++ s.granted (u.floor.queue.take x) =
      s.withinLimit (done ++ [i]) ++ s.granted (s.floor.queue.take (k + x)) := fun x => by
    rw [h.openList, left _ fun e he => List.mem_of_mem_take he, h.queue, takes, s.granted_append, List.append_assoc]
  have rooms : ∀ l seat, r.roomBeside l seat ↔ s.roomBeside l seat := fun l seat =>
    State.roomBeside_same (h.limits.trans rlimits).classes (rmax.trans h.mode.2) l seat
  have apart : ∀ e ∈ s.floor.queue.take k, ∀ f ∈ (s.floor.queue.drop k).take n, f.seat ≠ e.seat := fun e he f hf' same => by
    rw [← List.take_append_drop k s.floor.queue, List.map_append] at nodup
    exact (List.nodup_append.1 nodup).2.2 e.seat (List.mem_map_of_mem he) e.seat
      (same ▸ List.mem_map_of_mem (List.mem_of_mem_take hf')) rfl
  rw [h.queue] at hn opening rest
  rw [List.length_drop] at hn
  refine ⟨?_, State.keeps_trans h.keeps keeps, h.limits.trans limits, ⟨mode.1.trans h.mode.1, mode.2.trans h.mode.2⟩, ?_, ?_,
    fun ha => ?_, fun x e he hx => ?_, fun ha _ e he => ?_, fun e he => ?_, fun j hj reached => ?_, fun j hj hout => ?_⟩
  · have := h.bound
    omega
  · rw [openList, beside]
  · rw [queue, h.queue, List.drop_drop]
  · rw [h.none ha, none ha]
  · by_cases early : x < k
    · have sub : s.withinLimit (done ++ [i]) = (s.withinLimit done).filter fun e => e.seat ≠ i := s.withinLimit_leaves done hi
      exact State.roomBeside_sublist (List.Sublist.append (sub ▸ List.filter_sublist) (List.Sublist.refl _)) (h.room x e he early)
    · have found := room (x - k) e (by rw [h.queue, List.getElem?_drop, Nat.add_sub_cancel' (by omega)]; exact he) (by omega)
      rwa [rooms, beside, Nat.add_sub_cancel' (by omega)] at found
  · have stuck := full ha e (by rw [h.queue, List.getElem?_drop]; exact he)
    rwa [rooms, beside] at stuck
  · rw [takes] at he
    rcases List.mem_append.1 he with early | late
    · rw [rest e.seat (waits e (List.mem_of_mem_take early)) fun f hf' => apart e early f hf']
      exact h.opening e early
    · exact opening e late
  · by_cases hji : j = i
    · rw [hji]
      exact closes
    · obtain ⟨-, jwaits⟩ := State.overLimit_holds hf hm reached
      rw [rest j hji fun f hf' => jwaits f (List.mem_of_mem_drop (List.mem_of_mem_take hf'))]
      exact h.closes j ((List.mem_append.1 hj).resolve_right fun e => hji (List.mem_singleton.1 e)) reached
  · rw [takes] at hout
    have ne : j ≠ i := by
      rintro rfl
      rcases hj with hj | hj
      · exact hj (by simp)
      · exact hj (State.overLimit_iff.1 hi).1
    rw [rest j ne fun e he => hout e (List.mem_append_right _ he)]
    exact h.rest j (hj.imp_left fun x y => x (List.mem_append_left _ y)) fun e he => hout e (List.mem_append_left _ he)

/-- The evaluation of one more seat. -/
theorem State.Swept.step (ha : s.mic.limitAction = .auto) (hf : s.FloorOk) (hm : s.MicOk) (hs : s.cal.session = .inSession)
    (hd : i ∉ done) (h : s.Swept u done k) : ∃ n, s.Swept (u.evaluateLimit i) (done ++ [i]) n := by
  have own : (∀ e ∈ s.floor.queue.take k, e.seat ≠ i) → u.micOf i = s.micOf i := h.rest i (.inl hd)
  by_cases granted : ∃ e ∈ s.floor.queue.take k, e.seat = i
  · -- a seat that was granted in between is OPENING, and is not evaluated
    obtain ⟨e, he, rfl⟩ := granted
    obtain ⟨opening, -, -⟩ := h.opening e he
    have notOver : s.overLimit e.seat = false := by
      by_contra reached
      exact (State.overLimit_holds hf hm (by simpa using reached)).2 e (List.mem_of_mem_take he) rfl
    have waits : s.holds e.seat = false := by
      by_contra holds
      have := (s.queued_false_iff _).1 (hf.sane.not_queued (by simpa using holds)) e (List.mem_of_mem_take he)
      exact this rfl
    have closed : (s.micOf e.seat).state ≠ .opened := fun o => by
      rw [(hm e.seat).2 (.inr o)] at waits
      cases waits
    rw [u.evaluateLimit_closed e.seat (by rw [opening]; decide)]
    exact ⟨k, h.stays notOver (u.keeps_refl _) (.refl u) (fun _ _ => rfl) fun _ _ _ => closed⟩
  · push Not at granted
    have mic := own granted
    have same := State.overLimit_same h.limits mic
    cases hi : s.overLimit i with
    | false =>
      obtain ⟨keeps, limits, mics⟩ := State.evaluateLimit_stays (s := u) (i := i) (.inr (same.trans hi))
      refine ⟨k, h.stays hi keeps limits (fun j hj => ?_) fun e he hei => absurd hei (granted e he)⟩
      rw [mics, if_neg]
      rintro ⟨rfl, o⟩
      rw [mic] at o
      exact hj.elim (fun x => x rfl) fun x => x o
    | true =>
      obtain ⟨m, eq, mkeeps, mlimits, mothers, mopen⟩ :=
        State.evaluateLimit_leaves (s := u) (i := i) (h.limits.limitAction.trans ha) (same.trans hi)
      obtain ⟨holds, waits⟩ := State.overLimit_holds hf hm hi
      have running : s.store.halted = false := by
        by_contra halted
        obtain ⟨none, -⟩ := hf.2.2.2 (by simp [State.floorRuns, (by simpa using halted : s.store.halted = true)])
        obtain ⟨e, he, -⟩ := (s.holds_iff i).1 holds
        rw [none] at he
        cases he
      have mfloor : m.floor = u.floor := mkeeps .floor (by decide)
      have mcfg : m.cfg = s.cfg := mlimits.cfg.trans h.limits.cfg
      have mcal : m.cal = s.cal := (mkeeps .cal (by decide)).trans (h.keeps .cal (by decide))
      have mclock : m.clock = s.clock := (mkeeps .clock (by decide)).trans (h.keeps .clock (by decide))
      have mstore : m.store = s.store := (mkeeps .store (by decide)).trans (h.keeps .store (by decide))
      have mholds : m.holds i = true := by
        obtain ⟨e, he, hei⟩ := (s.holds_iff i).1 holds
        rw [State.holds_iff, mfloor, h.openList]
        exact ⟨e, List.mem_append_left _ (List.mem_filter.2 ⟨he, by simp [hei, hd]⟩), hei⟩
      set r := m.removeCore i .limit with hr
      have rcal : r.cal = s.cal := by rw [hr]; simpa using mcal
      have rcfg : r.cfg = s.cfg := by rw [hr]; simpa using mcfg
      have rclock : r.clock = s.clock := by rw [hr]; simpa using mclock
      have rstore : r.store = s.store := by rw [hr]; simpa using mstore
      obtain ⟨rqueue, rmode, rmax, -⟩ := m.removeCore_queue i .limit
      rw [← hr, mfloor] at rqueue rmode rmax
      have ropen : r.floor.openList = u.floor.openList.filter fun e => e.seat ≠ i := by rw [hr, m.removeCore_openList, mfloor]
      have rlimits : u.SameLimits r := mlimits.trans (m.removeCore_limits i .limit)
      have rkeeps : u.keeps r floorPieces := State.keeps_trans (State.keeps_mono mkeeps (by decide)) (m.removeCore_keeps i .limit)
      have rmics : ∀ j, j ≠ i → r.micOf j = u.micOf j := fun j hj => by rw [hr, m.removeCore_micOf_ne i j .limit hj, mothers j hj]
      have rcloses : (r.micOf i).state = .closing ∧ (r.micOf i).gap = s.cfg.closeGap := by
        rw [hr, m.removeCore_micOf i i .limit rfl mholds, m.micRemove_micOf, if_pos ⟨rfl, .inr mopen⟩, mcfg]
        exact ⟨rfl, rfl⟩
      have after : u.evaluateLimit i = r.autoAdvance := by
        rcases m.removeThenAdvance_cases i .limit mholds with ⟨grace, -⟩ | ⟨-, e⟩
        · rw [mcal, hs] at grace
          cases grace
        · rw [eq, e]
      rw [after]
      have uqueue : ∀ e ∈ u.floor.queue, e.seat ≠ i := fun e he => waits e (by rw [h.queue] at he; exact List.mem_of_mem_drop he)
      by_cases off : s.noAdvance
      · rw [State.autoAdvance_off r (State.noAdvance_congr off (rmode.trans h.mode.1) rcfg)]
        exact ⟨k + 0, h.leaves (n := 0) hf hm hi (Nat.zero_le _) rkeeps rlimits rlimits rmax ⟨rmode, rmax⟩
          (by rw [ropen]; exact (List.append_nil _).symm) (by rw [rqueue]; rfl) (fun _ => rfl)
          (fun x e _ hx => absurd hx (Nat.not_lt_zero x)) (fun on => absurd off on) (fun e he => absurd he List.not_mem_nil) rcloses
          fun j hj _ => rmics j hj⟩
      · have on : s.floor.mode = .queue ∧ s.cfg.autoAdvance = true := by simpa [State.noAdvance] using off
        have nodup : (r.floor.queue.map (·.seat)).Nodup := by
          rw [rqueue, h.queue, List.map_drop]
          exact hf.sane.queue_nodup.sublist (List.drop_sublist _ _)
        obtain ⟨n, bound, vopen, vqueue, vroom, vopening, vrest⟩ := r.autoAdvance_grants nodup (by rw [rstore]; exact running)
          (by rw [rcal]; exact hs) (rmode.trans (h.mode.1.trans on.1)) (by rw [rcfg]; exact on.2)
        rw [rqueue] at bound vopen vqueue vroom vopening vrest
        rw [ropen, rclock] at vopen vroom
        rw [rcfg] at vopening
        obtain ⟨o, q, vfloor⟩ := r.autoAdvance_floor
        refine ⟨k + n, h.leaves hf hm hi bound (State.keeps_trans rkeeps r.autoAdvance_keeps) (rlimits.trans r.autoAdvance_limits)
          rlimits rmax ⟨by rw [vfloor]; exact rmode, by rw [vfloor]; exact rmax⟩ vopen vqueue (fun x => absurd x off)
          (fun x e he hx => (vroom x e he).1 hx) (fun _ e he => (vroom n e he).2 rfl) vopening ?_ fun j hj hout => ?_⟩
        · rw [vrest i List.not_mem_nil fun e he => uqueue e (List.mem_of_mem_take he)]
          exact rcloses
        · rw [vrest j List.not_mem_nil hout, rmics j hj]

/-- The evaluations of all seats under AUTO in IN_SESSION. -/
theorem State.limitsEvaluated_inSession (ha : s.mic.limitAction = .auto) (hf : s.FloorOk) (hm : s.MicOk)
    (hs : s.cal.session = .inSession) : ∃ k, s.Swept s.limitsEvaluated (numbers 64) k :=
  foldl_done (P := fun u done => ∃ k, s.Swept u done k) (fun _ _ _ _ hd ⟨_, h⟩ => h.step ha hf hm hs hd)
    (List.nodup_finRange 64) ⟨0, .start s⟩

/-- What they come to: the heads of the queue that find room beside those that stay. -/
theorem State.Swept.advances (h : s.Swept u (numbers 64) k) (hon : s.Advancing) (reached : ∃ j, s.overLimit j = true) :
    s.Advances u (s.floor.openList.filter fun e => !s.overLimit e.seat) s.floor.queue
      ((numbers 64).filter fun j => (s.micOf j).state = .opened) := by
  obtain ⟨-, -, mode, auto, -⟩ := hon
  have on : ¬ s.noAdvance := by simp [State.noAdvance, mode, auto]
  obtain ⟨j, hj⟩ := reached
  rw [← s.withinLimit_all]
  refine ⟨k, h.bound, h.openList, h.queue, fun n e he => ⟨fun hn => h.room n e he hn, fun hn => ?_⟩, h.opening, fun i hi hout => ?_⟩
  · subst hn
    exact h.full on ⟨j, List.mem_finRange j, hj⟩ e he
  · refine h.rest i (.inr fun o => hi ?_) hout
    simpa using o

end InSession

end Sys2Proof.Machine

namespace Sys2Proof.Machine

/-! ## The limits reached in GRACE -/

section InGrace
variable {s u : State} {done : List Seat} {i : Seat}

/-- In GRACE the seats of `done` have been evaluated under AUTO, and the session goes on. -/
structure State.GraceSwept (s u : State) (done : List Seat) : Prop where
  keeps : s.keeps u floorPieces
  limits : s.SameLimits u
  openList : u.floor.openList = s.withinLimit done
  queue : u.floor.queue = s.floor.queue
  left : s.withinLimit done ≠ [] ∨ s.floor.openList = []
  state : ∀ j, (u.micOf j).state = if j ∈ done ∧ s.overLimit j = true then .closing else (s.micOf j).state
  rest : ∀ j, j ∉ done → u.micOf j = s.micOf j

/-- In GRACE the evaluations of the seats of `done` have emptied the list, which began CLOSING. -/
structure State.GraceEmptied (s u : State) (done : List Seat) : Prop where
  gone : s.withinLimit done = []
  held : s.floor.openList ≠ []
  floor : u.floor.openList = [] ∧ u.floor.queue = []
  closing : u.cal.session = .closing
  cause : u.cal.lastReport.map (·.cause) = some .floorEmpty
  nobody : ∀ j, (u.micOf j).state ≠ .opened

theorem State.GraceEmptied.step (h : s.GraceEmptied u done) (i : Seat) : s.GraceEmptied (u.evaluateLimit i) (done ++ [i]) := by
  rw [u.evaluateLimit_closed i (h.nobody i)]
  refine ⟨?_, h.held, h.floor, h.closing, h.cause, h.nobody⟩
  cases hi : s.overLimit i with
  | false => rw [s.withinLimit_stays done hi, h.gone]
  | true => rw [s.withinLimit_leaves done hi, h.gone, List.filter_nil]

/-- One more seat stays where it is: its turn may be marked. -/
theorem State.GraceSwept.stays (h : s.GraceSwept u done) (hd : i ∉ done) (hi : s.overLimit i = false) :
    s.GraceSwept (u.evaluateLimit i) (done ++ [i]) := by
  have own := h.rest i hd
  obtain ⟨keeps, limits, mics⟩ := State.evaluateLimit_stays (s := u) (i := i) (.inr ((State.overLimit_same h.limits own).trans hi))
  have floor : (u.evaluateLimit i).floor = u.floor := keeps .floor (by decide)
  have list := s.withinLimit_stays done hi
  refine ⟨State.keeps_trans h.keeps (State.keeps_mono keeps (by decide)), h.limits.trans limits, by rw [floor, list]; exact h.openList,
    by rw [floor]; exact h.queue, by rw [list]; exact h.left, fun j => ?_, fun j hj => ?_⟩
  · have same : ((u.evaluateLimit i).micOf j).state = (u.micOf j).state := by
      rw [mics]
      by_cases hj : j = i ∧ (u.micOf i).state = .opened
      · rw [if_pos hj, hj.1]
        cases u.limitOf i <;> rfl
      · rw [if_neg hj]
    rw [same, h.state]
    by_cases hj : j = i
    · simp [hj, hi]
    · simp [hj]
  · rw [List.mem_append, List.mem_singleton, not_or] at hj
    rw [mics, if_neg fun k => hj.2 k.1, h.rest j hj.1]

/-- One more seat leaves the list: the session goes on, or it was the last one and CLOSING begins. -/
theorem State.GraceSwept.leaves (ha : s.mic.limitAction = .auto) (hf : s.FloorOk) (hm : s.MicOk) (hs : s.cal.session = .grace)
    (h : s.GraceSwept u done) (hd : i ∉ done) (hi : s.overLimit i = true) :
    s.GraceSwept (u.evaluateLimit i) (done ++ [i]) ∨ s.GraceEmptied (u.evaluateLimit i) (done ++ [i]) := by
  have own := h.rest i hd
  obtain ⟨m, eq, mkeeps, mlimits, mothers, mopen⟩ :=
    State.evaluateLimit_leaves (s := u) (i := i) (h.limits.limitAction.trans ha) ((State.overLimit_same h.limits own).trans hi)
  obtain ⟨holds, -⟩ := State.overLimit_holds hf hm hi
  have mfloor : m.floor = u.floor := mkeeps .floor (by decide)
  have mcal : m.cal = s.cal := (mkeeps .cal (by decide)).trans (h.keeps .cal (by decide))
  have mholds : m.holds i = true := by
    obtain ⟨e, he, hei⟩ := (s.holds_iff i).1 holds
    rw [State.holds_iff, mfloor, h.openList]
    exact ⟨e, List.mem_filter.2 ⟨he, by simp [hei, hd]⟩, hei⟩
  set r := m.removeCore i .limit with hr
  have rcal : r.cal = s.cal := by rw [hr]; simpa using mcal
  have ropen : r.floor.openList = s.withinLimit (done ++ [i]) := by
    rw [hr, m.removeCore_openList, mfloor, h.openList, s.withinLimit_leaves done hi]
  have rstate : ∀ j, (r.micOf j).state = if j ∈ done ++ [i] ∧ s.overLimit j = true then .closing else (s.micOf j).state := fun j => by
    by_cases hj : j = i
    · subst hj
      rw [hr, m.removeCore_micOf j j .limit rfl mholds, m.micRemove_micOf, if_pos ⟨rfl, .inr mopen⟩]
      exact (if_pos ⟨by simp, hi⟩).symm
    · rw [hr, m.removeCore_micOf_ne i j .limit hj, mothers j hj, h.state]
      simp [hj]
  rw [eq]
  rcases m.removeThenAdvance_cases i .limit mholds with ⟨-, empty, -⟩ | ⟨goes, e⟩
  · have empty : r.floor.openList = [] := empty
    have none : s.withinLimit (done ++ [i]) = [] := ropen.symm.trans empty
    obtain ⟨closing, -⟩ := State.removal_closes (v := m) (r := .limit) rfl mholds (by rw [mcal]; exact hs) (.inr mopen)
      ((m.removeCore_openList i .limit).symm.trans empty)
    rw [closing, ← hr]
    obtain ⟨openList, queue, -⟩ := r.closingBegun_floor .floorEmpty
    obtain ⟨report, cal, cause, -⟩ := r.closingBegun_cal .floorEmpty
    refine .inr ⟨none, fun k => ?_, ⟨openList, queue⟩, by rw [cal], by rw [cal]; exact congrArg some cause, fun j => ?_⟩
    · obtain ⟨e, he, -⟩ := (s.holds_iff i).1 holds
      rw [k] at he
      cases he
    · have same : ((r.closingBegun .floorEmpty).micOf j).state = (r.micOf j).state := by
        rw [r.closingBegun_micOf .floorEmpty empty]
        split <;> rfl
      rw [same, rstate]
      split
      · decide
      · next out =>
        -- an OPEN seat holds the floor, and has not left the list
        intro o
        obtain ⟨e, he, rfl⟩ := (s.holds_iff j).1 ((hm j).2 (.inr o))
        have stays : e ∈ s.withinLimit (done ++ [i]) := List.mem_filter.2 ⟨he, by
          rw [Bool.not_eq_true', Bool.and_eq_false_iff, decide_eq_false_iff_not]
          exact (not_and_or.1 out).imp_right (by simpa using ·)⟩
        rw [none] at stays
        cases stays
  · obtain ⟨rqueue, -⟩ := m.removeCore_queue i .limit
    have still : r.autoAdvance = r := by
      rcases r.autoAdvance_cases with k | ⟨-, k, -⟩
      · exact k
      · rw [rcal, hs] at k
        cases k
    rw [e, ← hr, still]
    refine .inl ⟨State.keeps_trans h.keeps (State.keeps_trans (State.keeps_mono mkeeps (by decide)) (m.removeCore_keeps i .limit)),
      h.limits.trans (mlimits.trans (m.removeCore_limits i .limit)), ropen, by rw [rqueue, mfloor]; exact h.queue,
      .inl fun k => goes ⟨by rw [mcal]; exact hs, ropen.trans k⟩, rstate, fun j hj => ?_⟩
    rw [List.mem_append, List.mem_singleton, not_or] at hj
    rw [hr, m.removeCore_micOf_ne i j .limit hj.2, mothers j hj.2, h.rest j hj.1]

/-- The evaluations of all seats under AUTO in GRACE. -/
theorem State.limitsEvaluated_grace (ha : s.mic.limitAction = .auto) (hf : s.FloorOk) (hm : s.MicOk)
    (hs : s.cal.session = .grace) :
    s.GraceSwept s.limitsEvaluated (numbers 64) ∨ s.GraceEmptied s.limitsEvaluated (numbers 64) := by
  refine foldl_done (P := fun u done => s.GraceSwept u done ∨ s.GraceEmptied u done) (fun u done i _ hd h => ?_)
    (List.nodup_finRange 64) (.inl ⟨s.keeps_refl _, .refl s, s.withinLimit_nil.symm, rfl, ?_, fun j => by simp, fun _ _ => rfl⟩)
  · rcases h with h | h
    · cases hi : s.overLimit i with
      | false => exact .inl (h.stays hd hi)
      | true => exact h.leaves ha hf hm hs hd hi
    · exact .inr (h.step i)
  · rw [s.withinLimit_nil]
    exact (em _).symm

end InGrace

/-! ## The write of the warn time -/

section WarnTime
variable {s t : State}

/-- An operation that is taken, with what its end leaves of the queue. -/
theorem State.reaches_done {i : Instr} {op : Op} {owner : State → OpResult} {v : State} {c : Bool} {l : List Piece}
    (hr : s.reaches i = true) (hop : i.op = some op) (hread : op.isRead = false) (hx : exec i s = s.runOp op owner)
    (ho : owner s = done v c) (hk : s.keeps v l) (hm : .mgmt ∉ l) (ht : .tables ∉ l) (hq : s.Sends v) :
    ∃ t, exec i s = .next t ∧ s.answered t (okOr c) ∧ v.keeps t opPieces ∧ v.link.queue <+: t.link.queue := by
  obtain ⟨hat, next⟩ := State.reaches_next hr hop hx
  refine ⟨_, next, State.opEnd_answered hat ho hread hk hm ht hq, ?_, ?_⟩ <;> rw [ho]
  · exact State.opEnd_keeps op (done v c)
  · exact State.opEnd_queue op (done v c)

/-- The settings with another warn time. -/
def Settings.warning (c : Settings) (n : Nat) : Settings := { c with warnTime := n }

theorem State.configEffects_evaluates (s : State) (vals : List Byte) : s.configEffects [⟨0, 4, vals⟩] = s.limitsEvaluated := by
  rw [s.configEffects_warnTime, State.limitsEvaluated]

/-- What a write of the warn time leaves: the limits evaluated with the new warn time, and the end of the operation. -/
theorem warnTimeWrite_ends (n : BitVec 16) (hr : s.reaches (.gapWarnWrite 0 4 (be16 n.toNat)) = true) :
    ∃ t, exec (.gapWarnWrite 0 4 (be16 n.toNat)) s = .next t ∧ s.answered t (if 300 < n.toNat then .clamped else .ok) ∧
      (s.configured (s.cfg.warning (min 300 n.toNat))).limitsEvaluated.keeps t opPieces ∧
      (s.configured (s.cfg.warning (min 300 n.toNat))).limitsEvaluated.link.queue <+: t.link.queue := by
  have stored : s.cfg.store ⟨0, 4, be16 n.toNat⟩ = .ok (s.cfg.warning (min 300 n.toNat), decide (300 < n.toNat)) := by
    simp only [Settings.store, limited, number_be16 n.isLt, Settings.warning]
  have owner := State.writeConfig_one (fld := 4) (k := 2) rfl rfl (by decide) stored
  rw [Settings.settle_other _ (by omega), State.configEffects_evaluates, Bool.or_false] at owner
  set u := s.configured (s.cfg.warning (min 300 n.toNat))
  have sends : s.Sends u.limitsEvaluated := State.Sends.from u.limitsEvaluated_sends rfl
  have keeps : s.keeps u.limitsEvaluated (.cfg :: sessionPieces) :=
    State.keeps_trans (State.keeps_mono (s.configured_keeps _) (by decide)) (State.keeps_mono u.limitsEvaluated_keeps (by decide))
  obtain ⟨t, next, answered, ended, grows⟩ := State.reaches_done hr rfl rfl rfl owner keeps (by decide) (by decide) sends
  rw [okOr_decide] at answered
  exact ⟨t, next, answered, ended, grows⟩

/-- The write of the warn time (05 R106, R111). -/
theorem warnTimeWrite_evaluates (n : BitVec 16) (hr : s.reaches (.gapWarnWrite 0 4 (be16 n.toNat)) = true) :
    let warns := fun (i : Seat) (l : Nat) => decide ((l - min 300 n.toNat) * 10 ≤ (s.micOf i).timer)
    let reached := fun i : Seat => decide ((s.micOf i).state = .opened ∧ ∃ l, s.limitOf i = some l ∧ l * 10 ≤ (s.micOf i).timer)
    let kept := s.floor.openList.filter fun e => !reached e.seat
    ∃ t, exec (.gapWarnWrite 0 4 (be16 n.toNat)) s = .next t ∧ s.keeps t (.cfg :: (sessionPieces ++ opPieces)) ∧
      (s.mic.limitAction = .warn ∨ (∀ i, reached i = false) →
        s.keeps t ([.cfg, .mic, .linkCounters] ++ opPieces) ∧ ∀ i : Seat,
          ((s.micOf i).state ≠ .opened → t.micOf i = s.micOf i) ∧
          ((s.micOf i).state = .opened →
            (s.limitOf i = none → t.micOf i = { s.micOf i with warning := false, overMark := false }) ∧
            ∀ l, s.limitOf i = some l → t.micOf i = { s.micOf i with
              warning := warns i l, overMark := decide (s.mic.limitAction = .warn ∧ l * 10 ≤ (s.micOf i).timer) })) ∧
      (∀ (i : Seat) (l : Nat), s.limitOf i = some l → (s.micOf i).state = .opened → (s.micOf i).warning = false →
        warns i l = true →
        (∀ j : Seat, j < i → ¬ ((s.micOf j).state = .opened ∧ ∃ m, s.limitOf j = some m ∧
          ((s.micOf j).warning = false ∧ warns j m = true ∨ s.mic.limitAction = .auto ∧ reached j = true))) →
        s.notified t 0x03 (be8 i.val ++ be16 l ++ be16 (s.micOf i).timer)) ∧
      (s.mic.limitAction = .auto → s.FloorOk → s.MicOk → s.cal.session = .inSession →
        t.cal = s.cal ∧ (∀ i, reached i = true → s.GapCloses t i) ∧
        (s.noAdvance → t.floor.openList = kept ∧ t.floor.queue = s.floor.queue) ∧
        (s.Advancing → (∃ i, reached i = true) →
          s.Advances t kept s.floor.queue ((numbers 64).filter fun i => (s.micOf i).state = .opened))) ∧
      (s.mic.limitAction = .auto → s.FloorOk → s.MicOk → s.cal.session = .grace → t.floor.openList = kept ∧
        (kept ≠ [] ∨ s.floor.openList = [] → t.cal = s.cal ∧ t.floor.queue = s.floor.queue) ∧
        (kept = [] → s.floor.openList ≠ [] → t.floor.queue = [] ∧ t.cal.session = .closing ∧
          (t.cal.lastReport.map (·.cause)) = some .floorEmpty)) := by
  intro warns reached kept
  obtain ⟨t, next, -, ended, grows⟩ := warnTimeWrite_ends n hr
  set u := s.configured (s.cfg.warning (min 300 n.toNat))
  have changed : s.keeps u [.cfg] := s.configured_keeps _
  have tfloor : t.floor = u.limitsEvaluated.floor := ended .floor (by decide)
  have tcal : t.cal = u.limitsEvaluated.cal := ended .cal (by decide)
  have tmic : ∀ i, t.micOf i = u.limitsEvaluated.micOf i := State.micOf_congr (ended .mic (by decide))
  refine ⟨t, next, State.keeps_trans (State.keeps_mono changed (by decide))
    (State.keeps_trans (State.keeps_mono u.limitsEvaluated_keeps (by decide)) (State.keeps_mono ended (by decide))),
    fun stays => ?_, fun i l hl ho hw hp first => ?_, fun ha hf hm hs => ?_, fun ha hf hm hs => ?_⟩
  · obtain ⟨keeps, -, mics⟩ := State.limitsEvaluated_marks (s := u) stays
    refine ⟨State.keeps_trans (State.keeps_mono changed (by decide))
      (State.keeps_trans (State.keeps_mono keeps (by decide)) (State.keeps_mono ended (by decide))), fun i => ⟨fun ho => ?_, fun ho =>
      ⟨fun hl => ?_, fun l hl => ?_⟩⟩⟩
    · rw [tmic, mics, if_neg fun k => ho k.2]
      rfl
    · rw [tmic, mics, if_pos ⟨List.mem_finRange i, ho⟩, show u.limitOf i = none from hl]
      rfl
    · rw [tmic, mics, if_pos ⟨List.mem_finRange i, ho⟩, show u.limitOf i = some l from hl, Bool.decide_and]
      rfl
  · refine State.notified_mono (t := u.limitsEvaluated) ?_ grows
    exact State.limitsEvaluated_notified (s := u) hl ho hw (of_decide_eq_true hp) fun j hj ⟨jo, m, jl, k⟩ =>
      first j hj ⟨jo, m, jl, k.imp_left fun x => ⟨x.1, decide_eq_true x.2⟩⟩
  · obtain ⟨k, swept⟩ := State.limitsEvaluated_inSession (s := u) ha hf hm hs
    refine ⟨tcal.trans (swept.keeps .cal (by decide)), fun i hi _ => ?_, fun off => ?_, fun on some => ?_⟩
    · rw [tmic]
      exact swept.closes i (List.mem_finRange i) hi
    · have none := swept.none off
      have list := swept.openList
      have queue := swept.queue
      rw [none, u.withinLimit_all] at list
      rw [none] at queue
      rw [tfloor, list, queue]
      exact ⟨List.append_nil _, rfl⟩
    · have moves : s.Advances u.limitsEvaluated kept s.floor.queue ((numbers 64).filter fun i => (s.micOf i).state = .opened) :=
        swept.advances on some
      obtain ⟨k, bound, list, queue, room, opening, rest⟩ := moves
      exact ⟨k, bound, by rw [tfloor]; exact list, by rw [tfloor]; exact queue, room, fun e he => by rw [tmic]; exact opening e he,
        fun i hi hout => by rw [tmic]; exact rest i hi hout⟩
  · have list : u.withinLimit (numbers 64) = kept := u.withinLimit_all
    rw [tfloor, tcal]
    rcases State.limitsEvaluated_grace (s := u) ha hf hm hs with goes | emptied
    · refine ⟨goes.openList.trans list, fun _ => ⟨goes.keeps .cal (by decide), goes.queue⟩, fun none held => ?_⟩
      exact absurd none (list ▸ goes.left.resolve_right held)
    · have none := list.symm.trans emptied.gone
      refine ⟨emptied.floor.1.trans none.symm, fun k => ?_, fun _ _ => ⟨emptied.floor.2, emptied.closing, emptied.cause⟩⟩
      exact absurd none (k.resolve_right emptied.held)

/-- The gaps and the warn time, where nothing is OPEN to be evaluated. -/
theorem gapWarnWrite_stores (fld : Byte) (n : BitVec 16) (hf : fld = 2 ∨ fld = 3 ∨ fld = 4)
    (hr : s.reaches (.gapWarnWrite 0 fld (be16 n.toNat)) = true) :
    let limit := if fld = 2 then 15 else if fld = 3 then 255 else 300
    ∃ t, exec (.gapWarnWrite 0 fld (be16 n.toNat)) s = .next t ∧
      s.answered t (if limit < n.toNat then .clamped else .ok) ∧
      (fld = 2 → t.cfg = { s.cfg with openGap := min 15 n.toNat }) ∧
      (fld = 3 → t.cfg = { s.cfg with closeGap := min 255 n.toNat }) ∧
      (fld = 4 → t.cfg = { s.cfg with warnTime := min 300 n.toNat }) ∧
      ((fld ≠ 4 ∨ ∀ seat, (s.micOf seat).state ≠ .opened) → s.keeps t (.cfg :: opPieces)) := by
  intro limit
  rcases or_assoc.2 hf with gap | rfl
  · obtain ⟨t, next, keeps, answered, opens, closes⟩ := gapWrite_stores fld n gap hr
    have other : fld ≠ 4 := by rcases gap with rfl | rfl <;> decide
    have bound : limit = if fld = 2 then 15 else 255 := by rcases gap with rfl | rfl <;> rfl
    rw [bound]
    exact ⟨t, next, answered, opens, closes, fun k => absurd k other, fun _ => keeps⟩
  · obtain ⟨t, next, answered, ended, -⟩ := warnTimeWrite_ends n hr
    refine ⟨t, next, answered, fun k => absurd k (by decide), fun k => absurd k (by decide),
      fun _ => (ended .cfg (by decide)).trans (State.limitsEvaluated_keeps _ .cfg (by decide)), fun k => ?_⟩
    have closed : ∀ seat, (s.micOf seat).state ≠ .opened := k.resolve_left (by decide)
    rw [State.limitsEvaluated_closed (s := s.configured (s.cfg.warning (min 300 n.toNat))) closed] at ended
    exact (State.keeps_configured ended).1

end WarnTime

/-- Settles O52: a write of one setting stores it, and the effects of its field follow; the warn time sweeps the seats in order. -/
theorem settingsAreStoredAndTheLeadArms : Obligations.SettingsAreStoredAndTheLeadArms :=
  ⟨fun _ n hr => leadWrite_arms n hr, fun _ b hr => switchWrite_stores b hr, fun _ fld n hf hr => gapWarnWrite_stores fld n hf hr,
    fun _ n hr => warnTimeWrite_evaluates n hr, fun _ i n b cfg clamped hr hi => detectorWrite_settles i n b cfg clamped hr hi,
    fun _ fld b hl hu hr => pageSelection_stores fld b hl hu hr⟩

end Sys2Proof.Machine

namespace Sys2Proof.Machine

/-! ## A boundary at the microphones in any session state -/

section Boundary
variable {s u v : State} {done : List Seat} {i : Seat}

/-- The steps of the seats of `done` have moved neither the floor nor the calendar. -/
structure State.StepsKeep (s u : State) (done : List Seat) : Prop where
  cal : u.cal = s.cal
  floor : u.floor = s.floor
  action : u.mic.limitAction = s.mic.limitAction
  rest : ∀ i, i ∉ done → u.micOf i = (s.micOf i).tick (s.early.contains (.mic i))
  flash : ∀ i, (u.micOf i).flash = (s.micOf i).flash - 1

/-- The steps of the seats of `done` have completed CLOSING, which lets the calendar move on. -/
structure State.StepsEnd (s u : State) (done : List Seat) : Prop where
  closing : s.cal.session = .closing
  openList : u.floor.openList = s.floor.openList
  queue : u.floor.queue = s.floor.queue
  seen : u.floor.seen = s.floor.seen
  report : u.cal.lastReport = s.cal.lastReport
  settled : u.cal.session.settled
  closed : ∀ i, (u.micOf i).state = .closed
  due : ∀ i, (s.micOf i).state ≠ .closed → i ∈ done

/-- A step that touches the seat's own microphone and record, and at most marks its turn. -/
theorem State.StepsKeep.turn (h : s.StepsKeep u done) (cal : v.cal = u.cal) (floor : v.floor = u.floor)
    (action : v.mic.limitAction = u.mic.limitAction) (mics : ∀ j, j ≠ i → v.micOf j = u.micOf j)
    (flash : (v.micOf i).flash = (u.micOf i).flash) (stays : v.mic.limitAction = .warn ∨ v.overLimit i = false) :
    s.StepsKeep (v.evaluateLimit i) (done ++ [i]) := by
  obtain ⟨keeps, limits, marks⟩ := State.evaluateLimit_stays stays
  have others : ∀ j, j ≠ i → (v.evaluateLimit i).micOf j = u.micOf j := fun j hj => by
    rw [marks, if_neg fun k => hj k.1, mics j hj]
  refine ⟨(keeps .cal (by decide)).trans (cal.trans h.cal), (keeps .floor (by decide)).trans (floor.trans h.floor),
    limits.limitAction.trans (action.trans h.action), fun j hj => ?_, fun j => ?_⟩
  · rw [List.mem_append, List.mem_singleton, not_or] at hj
    rw [others j hj.2, h.rest j hj.1]
  · rw [← h.flash]
    by_cases hj : j = i
    · subst hj
      rw [marks, ← flash]
      split
      · cases v.limitOf j <;> rfl
      · rfl
    · rw [others j hj]

/-- The microphone of a seat whose step is due and has not been taken. -/
theorem State.StepsKeep.own (h : s.StepsKeep u done) (hi : i ∈ s.micDue) (hd : i ∉ done) :
    u.micOf i = { s.micOf i with flash := (s.micOf i).flash - 1 } := by
  obtain ⟨-, due⟩ := (s.mem_micDue i).1 hi
  rw [h.rest i hd, MicRec.tick_due _ _ (.inr due)]

/-- A close gap ends: where it was the last one in CLOSING, CLOSING completes. -/
theorem State.StepsKeep.closes (h : s.StepsKeep u done) (hi : i ∈ s.micDue) (hd : i ∉ done) (hs : (s.micOf i).state = .closing) :
    s.StepsKeep (u.endGap i) (done ++ [i]) ∨ s.StepsEnd (u.endGap i) (done ++ [i]) := by
  have own := h.own hi hd
  set w := u.setMic i fun m => { m with state := .closed, gap := 0 } with hw
  have mics : ∀ j, w.micOf j = if j = i then { u.micOf j with state := .closed, gap := 0 } else u.micOf j := fun j => by
    rw [hw, State.micOf_setMic]
  have step : u.endGap i = w.reportClosed := by
    rw [State.endGap, own]
    simp only [hs]
    rfl
  rw [step]
  rcases w.reportClosed_cases with e | ⟨closing, all, complete⟩
  · rw [e]
    refine .inl ⟨h.cal, h.floor, h.action, fun j hj => ?_, fun j => ?_⟩
    · rw [List.mem_append, List.mem_singleton, not_or] at hj
      rw [mics, if_neg hj.2, h.rest j hj.1]
    · rw [mics, ← h.flash]
      split <;> rfl
  · have rests := w.reportClosed_rests
    have settled : w.reportClosed.cal.session.settled := by
      rw [complete]
      exact w.completeClosing_settled
    refine .inr ⟨?_, rests.openList.trans (congrArg Floor.openList h.floor), rests.queue.trans (congrArg Floor.queue h.floor),
      rests.seen.trans (congrArg Floor.seen h.floor), rests.report.trans (congrArg Calendar.lastReport h.cal), settled,
      fun j => ?_, fun j hj => ?_⟩
    · rw [← h.cal]
      exact closing
    · rw [State.micOf, rests.recs]
      exact all j
    · by_contra out
      rw [List.mem_append, List.mem_singleton, not_or] at out
      have still := all j
      rw [mics, if_neg out.2, h.rest j out.1, MicRec.tick_state] at still
      exact hj still

/-- The step of one more seat, where no turn is lost: under WARN, or with no microphone OPEN when the boundary comes. -/
theorem State.StepsKeep.step (hw : s.mic.limitAction = .warn ∨ ∀ j, (s.micOf j).state ≠ .opened) (hi : i ∈ s.micDue)
    (hd : i ∉ done) (h : s.StepsKeep u done) :
    s.StepsKeep (s.micStep u i) (done ++ [i]) ∨ s.StepsEnd (s.micStep u i) (done ++ [i]) := by
  obtain ⟨-, due⟩ := (s.mem_micDue i).1 hi
  have own := h.own hi hd
  have state : (u.micOf i).state = (s.micOf i).state := by rw [own]
  rw [State.micStep, if_neg (not_not.2 state)]
  cases hst : (s.micOf i).state with
  | closed =>
    rw [MicRec.gapDue_iff, MicRec.turnDue_iff, hst] at due
    simp at due
  | opened =>
    have warn : s.mic.limitAction = .warn := hw.resolve_right fun k => k i hst
    rw [if_neg (by rw [MicRec.gapDue_iff, hst]; simp), u.advanceTurn_eq]
    exact .inl (h.turn rfl rfl rfl (fun j hj => by rw [u.tenthOn_micOf, if_neg hj]) (by rw [u.tenthOn_micOf, if_pos rfl])
      (.inl (h.action.trans warn)))
  | opening =>
    have gap : (s.micOf i).gapDue = true := due.resolve_right fun k => by
      rw [MicRec.turnDue_iff, hst] at k
      cases k.1
    rw [if_pos gap, u.endGap_opening i (state.trans hst)]
    -- a turn that begins has not reached its limit
    have fresh : (u.micOpened i).overLimit i = false := by
      rw [Bool.eq_false_iff, ne_eq, State.overLimit_iff]
      rintro ⟨-, l, hl, reached⟩
      rw [u.micOpened_micOf, if_pos rfl] at reached
      have := State.limitOf_pos hl
      have reached : l * 10 ≤ 0 := reached
      omega
    exact .inl (h.turn (u.micOpened_keeps i .cal (by decide)) (u.micOpened_keeps i .floor (by decide))
      (u.micOpened_limits i).limitAction (fun j hj => by rw [u.micOpened_micOf, if_neg hj])
      (by rw [u.micOpened_micOf, if_pos rfl]) (.inr fresh))
  | closing =>
    have gap : (s.micOf i).gapDue = true := due.resolve_right fun k => by
      rw [MicRec.turnDue_iff, hst] at k
      cases k.1
    rw [if_pos gap]
    exact h.closes hi hd hst

/-- Once CLOSING is complete, a due step finds its microphone moved on, and is not taken. -/
theorem State.StepsEnd.step (hi : i ∈ s.micDue) (h : s.StepsEnd u done) : s.StepsEnd (s.micStep u i) (done ++ [i]) := by
  obtain ⟨-, due⟩ := (s.mem_micDue i).1 hi
  have moved : (u.micOf i).state ≠ (s.micOf i).state := fun e => by
    rw [h.closed i] at e
    rw [MicRec.gapDue_iff, MicRec.turnDue_iff, ← e] at due
    simp at due
  rw [State.micStep, if_pos moved]
  exact ⟨h.closing, h.openList, h.queue, h.seen, h.report, h.settled, h.closed, fun j hj => List.mem_append_left _ (h.due j hj)⟩

/-- A boundary at the microphones moves neither the floor nor the calendar, or it completes CLOSING. -/
theorem State.micBoundary_outcome (hw : s.mic.limitAction = .warn ∨ ∀ j, (s.micOf j).state ≠ .opened) :
    s.StepsKeep s.micBoundary s.micDue ∨ s.StepsEnd s.micBoundary s.micDue := by
  rw [State.micBoundary_eq]
  refine foldl_done (P := fun u done => s.StepsKeep u done ∨ s.StepsEnd u done) (fun u done i hi hd h => ?_) State.micDue_nodup
    (.inl ⟨s.ticked_keeps .cal (by decide), s.ticked_keeps .floor (by decide), s.ticked_limits.limitAction,
      fun i _ => s.ticked_micOf i, fun i => by rw [s.ticked_micOf]; exact (MicRec.tick_flash _).1⟩)
  rcases h with h | h
  · exact h.step hw hi hd
  · exact .inr (h.step hi)

end Boundary

end Sys2Proof.Machine

namespace Sys2Proof.Machine

/-! ## Seats in order of envelope (04 R80) -/

section ByEnvelope
variable (env : Seat → Nat)

/-- The seat is considered first: its envelope is the higher one, or among equals it is the lower seat. -/
def louder (i j : Seat) : Prop := env j < env i ∨ (env j = env i ∧ i < j)

theorem louder_asymm {i j : Seat} (h : louder env i j) (k : louder env j i) : False := by
  rcases h with h | ⟨e, h⟩
  · rcases k with k | ⟨e, -⟩
    · exact Nat.lt_asymm h k
    · exact h.ne e.symm
  · rcases k with k | ⟨-, k⟩
    · exact k.ne e.symm
    · exact lt_asymm h k

theorem insertByEnvelope_perm (x : Seat) (l : List Seat) : (insertByEnvelope env x l).Perm (x :: l) := by
  induction l with
  | nil => exact .refl _
  | cons y l ih =>
    rw [insertByEnvelope]
    split
    · exact .refl _
    · exact (ih.cons y).trans (.swap x y l)

/-- A seat above all that are placed takes its place among them. -/
theorem insertByEnvelope_sorted (x : Seat) (l : List Seat) (h : l.Pairwise (louder env)) (hx : ∀ y ∈ l, y < x) :
    (insertByEnvelope env x l).Pairwise (louder env) := by
  induction l with
  | nil => exact List.pairwise_singleton _ _
  | cons y l ih =>
    obtain ⟨first, rest⟩ := List.pairwise_cons.1 h
    rw [insertByEnvelope]
    split
    · next higher =>
      refine List.pairwise_cons.2 ⟨fun z hz => .inl ?_, h⟩
      rcases List.mem_cons.1 hz with rfl | hz
      · exact higher
      · rcases first z hz with k | k <;> omega
    · next lower =>
      refine List.pairwise_cons.2 ⟨fun z hz => ?_, ih rest fun z hz => hx z (List.mem_cons_of_mem _ hz)⟩
      rcases List.mem_cons.1 ((insertByEnvelope_perm env x l).subset hz) with rfl | hz
      · have above := hx y List.mem_cons_self
        rcases Nat.lt_or_eq_of_le (not_lt.1 lower) with k | k
        · exact .inl k
        · exact .inr ⟨k, above⟩
      · exact first z hz

/-- The seats are put in order of envelope. -/
theorem byEnvelope_ordered (l : List Seat) (h : l.Pairwise (· < ·)) :
    (byEnvelope env l).Perm l ∧ (byEnvelope env l).Pairwise (louder env) := by
  have all : ∀ (l acc : List Seat), l.Pairwise (· < ·) → acc.Pairwise (louder env) → (∀ y ∈ acc, ∀ x ∈ l, y < x) →
      (l.foldl (fun acc x => insertByEnvelope env x acc) acc).Perm (acc ++ l) ∧
        (l.foldl (fun acc x => insertByEnvelope env x acc) acc).Pairwise (louder env) := by
    intro l
    induction l with
    | nil => exact fun acc _ sorted _ => ⟨by simp, sorted⟩
    | cons x l ih =>
      intro acc increasing sorted below
      obtain ⟨above, rest⟩ := List.pairwise_cons.1 increasing
      have perm := insertByEnvelope_perm env x acc
      obtain ⟨p, s⟩ := ih (insertByEnvelope env x acc) rest
        (insertByEnvelope_sorted env x acc sorted fun y hy => below y hy x List.mem_cons_self) fun y hy z hz => by
          rcases List.mem_cons.1 (perm.subset hy) with rfl | hy
          · exact above z hz
          · exact below y hy z (List.mem_cons_of_mem _ hz)
      exact ⟨p.trans ((perm.append_right l).trans List.perm_middle.symm), s⟩
  simpa [byEnvelope] using all l [] h .nil (by simp)

/-- What each step of a fold carries on, for one more entry behind all that are done, holds when all are done. -/
theorem foldl_ordered {α β : Type} {R : α → α → Prop} {f : β → α → β} {P : β → List α → Prop} {l : List α}
    (step : ∀ u done a, a ∈ l → (∀ b ∈ done, R b a) → P u done → P (f u a) (done ++ [a])) (hl : l.Pairwise R) {u : β} (h : P u []) :
    P (l.foldl f u) l := by
  have all : ∀ (rest done : List α) (v : β), done ++ rest = l → P v done → P (rest.foldl f v) l := by
    intro rest
    induction rest with
    | nil =>
      intro done v whole hv
      rw [List.append_nil] at whole
      exact whole ▸ hv
    | cons a rest ih =>
      intro done v whole hv
      have behind : ∀ b ∈ done, R b a := fun b hb => by
        rw [← whole] at hl
        exact (List.pairwise_append.1 hl).2.2 b hb a List.mem_cons_self
      exact ih (done ++ [a]) (f v a) (by simpa using whole) (step v done a (by rw [← whole]; simp) behind hv)
  exact all l [] u rfl h

end ByEnvelope

/-! ## Several removals through the close gap -/

section RemoveAll
variable {s : State} {r : Reason} {i : Seat}

theorem State.removeAll_limits (l : List OpenEntry) (r : Reason) (s : State) : s.SameLimits (s.removeAll l r) := by
  unfold State.removeAll
  induction l generalizing s with
  | nil => exact .refl s
  | cons e l ih => exact (s.removeCore_limits e.seat r).trans (ih _)

/-- A reason that does not block leaves the blocked marks. -/
theorem State.removeAll_blocked (l : List OpenEntry) (hr : r.blocks = false) (s : State) :
    (s.removeAll l r).floor.blocked = s.floor.blocked := by
  have core : ∀ (u : State) (seat : Seat), (u.removeCore seat r).floor.blocked = u.floor.blocked := fun u seat => by
    cases hh : u.holds seat with
    | false => rw [u.removeCore_of_not _ _ hh]
    | true =>
      rw [u.removeCore_floor seat r hh, hr, Bool.and_false]
      rfl
  unfold State.removeAll
  induction l generalizing s with
  | nil => rfl
  | cons e l ih => exact (ih _).trans (core s e.seat)

/-- A microphone in its close gap is not touched by a removal. -/
theorem State.removeAll_closing (l : List OpenEntry) (hr : r.atOnce = false) (s : State) (hc : (s.micOf i).state = .closing) :
    (s.removeAll l r).micOf i = s.micOf i := by
  unfold State.removeAll
  induction l generalizing s with
  | nil => rfl
  | cons e l ih =>
    have core : (s.removeCore e.seat r).micOf i = s.micOf i := by
      cases hh : s.holds e.seat with
      | false => rw [s.removeCore_of_not _ _ hh]
      | true =>
        rw [s.removeCore_micOf e.seat i r hr hh, s.micRemove_micOf, if_neg]
        rintro ⟨rfl, k⟩
        rw [hc] at k
        simp at k
    rw [List.foldl_cons, ih _ (by rw [core]; exact hc), core]

/-- A microphone that removals take through its close gap has the gap loaded. -/
theorem State.removeAll_gap (l : List OpenEntry) (hr : r.atOnce = false) (s : State)
    (hm : (s.micOf i).state = .opening ∨ (s.micOf i).state = .opened) (hc : ((s.removeAll l r).micOf i).state = .closing) :
    ((s.removeAll l r).micOf i).gap = s.cfg.closeGap := by
  induction l generalizing s with
  | nil =>
    have hc : (s.micOf i).state = .closing := hc
    rw [hc] at hm
    simp at hm
  | cons e l ih =>
    have hc : (((s.removeCore e.seat r).removeAll l r).micOf i).state = .closing := hc
    have cfg : (s.removeCore e.seat r).cfg = s.cfg := s.removeCore_keeps e.seat r .cfg (by decide)
    show (((s.removeCore e.seat r).removeAll l r).micOf i).gap = s.cfg.closeGap
    by_cases taken : i = e.seat ∧ s.holds i = true
    · obtain ⟨rfl, hh⟩ := taken
      have core : ((s.removeCore e.seat r).micOf e.seat).state = .closing ∧
          ((s.removeCore e.seat r).micOf e.seat).gap = s.cfg.closeGap := by
        rw [s.removeCore_micOf e.seat e.seat r hr hh, s.micRemove_micOf, if_pos ⟨rfl, hm⟩]
        exact ⟨rfl, rfl⟩
      rw [State.removeAll_closing l hr _ core.1]
      exact core.2
    · have still : (s.removeCore e.seat r).micOf i = s.micOf i := by
        by_cases hi : i = e.seat
        · rw [s.removeCore_of_not e.seat r (Bool.eq_false_iff.2 fun k => taken ⟨hi, hi ▸ k⟩)]
        · exact s.removeCore_micOf_ne e.seat i r hi
      rw [ih _ (by rw [still]; exact hm) hc, cfg]

/-- Removals in GRACE that leave somebody on the list begin nothing. -/
theorem State.removeEntries_left (l : List OpenEntry) (r : Reason) {x : OpenEntry} (hx : x ∈ s.floor.openList)
    (hl : ∀ e ∈ l, e.seat ≠ x.seat) : l.foldl (fun t e => t.removeEntry e.seat r) s = s.removeAll l r := by
  unfold State.removeAll
  induction l generalizing s with
  | nil => rfl
  | cons e l ih =>
    have stays : x ∈ (s.removeCore e.seat r).floor.openList := by
      rw [s.removeCore_openList]
      exact List.mem_filter.2 ⟨hx, by simpa using (hl e List.mem_cons_self).symm⟩
    have entry : s.removeEntry e.seat r = s.removeCore e.seat r := by
      unfold State.removeEntry
      split
      · exact if_neg fun k => List.not_mem_nil (k.2 ▸ stays)
      · next hh => exact (s.removeCore_of_not _ _ (by simpa using hh)).symm
    rw [List.foldl_cons, List.foldl_cons, entry]
    exact ih stays fun f hf => hl f (List.mem_cons_of_mem _ hf)

theorem State.unqueueAll_limitAction (l : List QueueEntry) (s : State) : (s.unqueueAll l).mic.limitAction = s.mic.limitAction := by
  unfold State.unqueueAll
  induction l generalizing s with
  | nil => rfl
  | cons e l ih => exact (ih _).trans rfl

theorem State.closingBegun_limitAction (s : State) (c : EndCause) : (s.closingBegun c).mic.limitAction = s.mic.limitAction := by
  rw [(s.closingBegun_frame c).2.1, State.closingEmptied, State.clearQueue]
  simp only [State.floorChange_frame]
  exact (State.unqueueAll_limitAction _ _).trans (State.removeAll_limits _ _ _).limitAction

end RemoveAll

end Sys2Proof.Machine

namespace Sys2Proof.Machine

/-! ## Voice operation: who leaves, and who asks (04 R80, R81) -/

section Voice
variable {s u v : State} {done : List Seat} {i : Seat}

/-- Of the open list, the entries whose voice-idle does not hold, and those whose voice-idle holds. -/
def State.keptVoices (s : State) : List OpenEntry := s.floor.openList.filter fun e => !s.voiceIdle e.seat

def State.idleVoices (s : State) : List OpenEntry := s.floor.openList.filter fun e => s.voiceIdle e.seat

/-- The seat's voice-start holds, and after the removals the seat would be ADMITTED to the floor. -/
def State.voiceAsks (s : State) (i : Seat) : Bool :=
  decide (s.voiceStart i = true ∧ (∀ e ∈ s.keptVoices, e.seat ≠ i) ∧ s.floor.blocked[i] = false ∧
    s.pos[s.phys i].presence = .present ∧ s.pos[s.phys i].statusValid = true ∧ s.classOf i ≠ .observer ∧
    s.permitted i = true)

/-- The seats whose voice-start holds, in the order in which they are considered. -/
def State.startingVoices (s : State) : List Seat := byEnvelope s.envelope ((numbers 64).filter s.voiceStart)

/-- The voice-idle removals have been made. -/
def State.voicesOut (s : State) : State := s.idleVoices.foldl (fun t e => t.removeEntry e.seat .voiceIdle) s

/-- Every seat of the list has been considered. -/
def State.voicesTried (s : State) : State :=
  s.startingVoices.foldl (State.voiceTry fun i => s.floor.seen[i]) s.voicesOut

theorem State.startingVoices_ordered (s : State) : s.startingVoices.Perm ((numbers 64).filter s.voiceStart) ∧
    s.startingVoices.Pairwise (louder s.envelope) :=
  byEnvelope_ordered _ _ ((List.pairwise_lt_finRange 64).sublist List.filter_sublist)

theorem State.mem_startingVoices : i ∈ s.startingVoices ↔ s.voiceStart i = true := by
  rw [s.startingVoices_ordered.1.mem_iff, List.mem_filter]
  simp

theorem State.voiceCycle_on (h : s.floor.mode = .voice) :
    s.voiceCycle = s.voicesTried.setFloor fun f => { f with seen := Vector.ofFn s.voiceStart } := by
  rw [State.voiceCycle]
  simp only [h, if_true]
  rw [State.voicesTried, State.voicesOut, State.idleVoices, State.startingVoices, List.filter_map, List.foldl_map]
  rfl

theorem State.voiceCycle_seen (s : State) (i : Seat) : s.voiceCycle.floor.seen[i] = s.voiceStart i := by
  unfold State.voiceCycle State.setFloor
  simp

theorem State.removeAll_idle (s : State) : (s.removeAll s.idleVoices .voiceIdle).floor.openList = s.keptVoices := by
  rw [(State.removeAll_floor _ _ _).1]
  refine List.filter_congr fun e he => ?_
  cases idle : s.voiceIdle e.seat with
  | true =>
    exact decide_eq_false (not_not.2 (List.mem_map_of_mem (List.mem_filter.2 ⟨he, idle⟩)))
  | false =>
    refine decide_eq_true fun inside => ?_
    obtain ⟨x, hx, same⟩ := List.mem_map.1 inside
    have other := (List.mem_filter.1 hx).2
    rw [same, idle] at other
    cases other

/-- Outside GRACE, and in GRACE where somebody stays or nobody held the floor, the removals are no more than that. -/
theorem State.voicesOut_eq (h : s.cal.session ≠ .grace ∨ s.keptVoices ≠ [] ∨ s.floor.openList = []) :
    s.voicesOut = s.removeAll s.idleVoices .voiceIdle := by
  rcases h with h | h | h
  · exact State.removeEntries_plain _ _ h
  · obtain ⟨x, hx⟩ := List.exists_mem_of_ne_nil _ h
    obtain ⟨held, stays⟩ := List.mem_filter.1 hx
    refine State.removeEntries_left _ _ held fun e he same => ?_
    have idle := (List.mem_filter.1 he).2
    rw [same] at idle
    rw [idle] at stays
    cases stays
  · obtain ⟨all, entries⟩ := State.removeAll_nobody s.idleVoices .voiceIdle h
    exact entries.trans all.symm

/-- The list that voice-idle empties in GRACE begins CLOSING (04 R71). -/
theorem State.voicesOut_emptied (hg : s.cal.session = .grace) (hk : s.keptVoices = []) (ho : s.floor.openList ≠ []) :
    s.voicesOut = (s.removeAll s.idleVoices .voiceIdle).startClosing .floorEmpty := by
  refine State.removeEntries_grace _ _ hg ho fun x hx => ⟨x, List.mem_filter.2 ⟨hx, ?_⟩, rfl⟩
  by_contra stays
  have kept : x ∈ s.keptVoices := List.mem_filter.2 ⟨hx, by simpa using stays⟩
  rw [hk] at kept
  cases kept

/-! ### One seat is considered -/

/-- What makes a key and a permission is the same. -/
theorem State.answer_same (hc : s.sameClasses u) (hb : u.cal.bookings = s.cal.bookings) (hp : u.pos = s.pos) (i : Seat) :
    u.answer i = s.answer i := by
  obtain ⟨chair, active, recs⟩ := id hc
  have phys : u.phys i = s.phys i := State.phys_congr chair i
  have permitted : u.permitted i = s.permitted i := by
    simp only [State.permitted, State.permittedAt, State.keyAt, State.activeBooking, State.classAt_same hc, phys, hp, hb, active,
      (recs _).1]
  rw [State.answer, State.answer, State.classOf_same hc, permitted]
  simp only [phys, hp]

theorem State.answer_admitted_iff : s.answer i = .admitted ↔ s.pos[s.phys i].presence = .present ∧
    s.pos[s.phys i].statusValid = true ∧ s.classOf i ≠ .observer ∧ s.permitted i = true := by
  unfold State.answer
  split
  · next a => exact ⟨nofun, fun ⟨p, v, _⟩ => by rcases a with a | a <;> simp_all⟩
  · next a =>
    have present : s.pos[s.phys i].presence = .present := by
      cases hp : s.pos[s.phys i].presence with
      | present => rfl
      | absent => exact absurd (.inl hp) a
    have valid : s.pos[s.phys i].statusValid = true := Bool.eq_true_of_not_eq_false fun k => a (.inr k)
    split
    · next observer => exact ⟨nofun, fun ⟨_, _, c, _⟩ => absurd observer c⟩
    · next speaker =>
      split
      · next no => exact ⟨nofun, fun ⟨_, _, _, k⟩ => by rw [no] at k; cases k⟩
      · next yes => exact ⟨fun _ => ⟨present, valid, speaker, by simpa using yes⟩, fun _ => rfl⟩

/-- While seats are considered, what decides whether one asks is as it was; of the list the entries that stayed lead. -/
structure State.VoiceFacts (s u : State) (granted : List Seat) : Prop where
  classes : s.sameClasses u
  bookings : u.cal.bookings = s.cal.bookings
  pos : u.pos = s.pos
  store : u.store = s.store
  clock : u.clock = s.clock
  blocked : u.floor.blocked = s.floor.blocked
  maxOpen : u.floor.maxOpen = s.floor.maxOpen
  openList : u.floor.openList = s.keptVoices ++ granted.map fun i => ⟨i, s.clock.now, .voice⟩

theorem State.VoiceFacts.start (s : State) : s.VoiceFacts (s.removeAll s.idleVoices .voiceIdle) [] where
  classes := (State.removeAll_limits _ _ _).classes
  bookings := by simp
  pos := by simp
  store := by simp
  clock := by simp
  blocked := State.removeAll_blocked _ rfl _
  maxOpen := (State.removeAll_floor _ _ _).2.2.2.1
  openList := by rw [s.removeAll_idle]; exact (List.append_nil _).symm

theorem State.VoiceFacts.holds_iff {granted : List Seat} (h : s.VoiceFacts u granted) (hi : i ∉ granted) :
    u.holds i = false ↔ ∀ e ∈ s.keptVoices, e.seat ≠ i := by
  rw [State.holds_false_iff, h.openList]
  refine ⟨fun k e he => k e (List.mem_append_left _ he), fun k e he => ?_⟩
  rcases List.mem_append.1 he with he | he
  · exact k e he
  · obtain ⟨j, hj, rfl⟩ := List.mem_map.1 he
    exact fun same => hi (same ▸ hj)

/-- The checks that a seat is considered by find what `voiceAsks` says. -/
theorem State.VoiceFacts.checks {granted : List Seat} (h : s.VoiceFacts u granted) (hh : s.store.halted = false)
    (hv : s.voiceStart i = true) (hi : i ∉ granted) :
    (u.holds i || u.floor.blocked[i] || decide (u.answer i ≠ .admitted) || u.store.halted) = !s.voiceAsks i := by
  have holds := h.holds_iff hi
  rw [h.store, hh, Bool.or_false, Bool.eq_iff_iff, ← not_iff_not, Bool.not_eq_true, Bool.or_eq_false_iff, Bool.or_eq_false_iff,
    decide_eq_false_iff_not, not_not, holds, State.answer_same h.classes h.bookings h.pos, State.answer_admitted_iff,
    Bool.not_eq_true', Bool.not_eq_false, State.voiceAsks, decide_eq_true_eq, h.blocked]
  constructor
  · rintro ⟨⟨a, b⟩, c⟩
    exact ⟨hv, a, b, c⟩
  · rintro ⟨-, a, b, c⟩
    exact ⟨⟨a, b⟩, c⟩

section Try
variable {granted : List Seat} (h : s.VoiceFacts u granted) (hh : s.store.halted = false) (hv : s.voiceStart i = true)
  (hi : i ∉ granted) (seen : Seat → Bool)

include h hh hv hi

theorem State.VoiceFacts.declined (ha : s.voiceAsks i = false) : State.voiceTry seen u i = u := by
  unfold State.voiceTry
  rw [h.checks hh hv hi, ha]
  rfl

theorem State.VoiceFacts.considered (ha : s.voiceAsks i = true) (hs : u.cal.session = .inSession) :
    State.voiceTry seen u i = if u.room i then u.grantSeat i .voice else u := by
  unfold State.voiceTry
  rw [h.checks hh hv hi, ha, hs]
  rfl

theorem State.VoiceFacts.refused (ha : s.voiceAsks i = true) (hs : u.cal.session = .grace) :
    State.voiceTry seen u i = if seen i then u else u.refuse i .sessionEnding .voice := by
  unfold State.voiceTry
  rw [h.checks hh hv hi, ha, hs]
  rfl

end Try

end Voice

end Sys2Proof.Machine

namespace Sys2Proof.Machine

/-! ## The grants of voice operation in IN_SESSION (04 R80) -/

section Grants
variable {s u : State} {done granted : List Seat} {i : Seat}

/-- The seats of `done` have been considered in IN_SESSION, and those of `granted` have been granted. -/
structure State.VoiceGrants (s u : State) (done granted : List Seat) : Prop where
  facts : s.VoiceFacts u granted
  cal : u.cal = s.cal
  action : u.mic.limitAction = s.mic.limitAction
  within : ∀ i ∈ granted, i ∈ done
  asks : ∀ i ∈ granted, s.voiceAsks i = true
  ordered : granted.Pairwise (louder s.envelope)
  full : ∀ i ∈ done, s.voiceAsks i = true → i ∉ granted → ¬ s.roomBeside u.floor.openList i ∧
    ∀ j ∈ granted, louder s.envelope i j → s.classOf j = .chair ∧ s.classOf i ≠ .chair

theorem State.VoiceGrants.start (s : State) : s.VoiceGrants (s.removeAll s.idleVoices .voiceIdle) [] [] where
  facts := .start s
  cal := by simp
  action := (State.removeAll_limits _ _ _).limitAction
  within _ h := absurd h List.not_mem_nil
  asks _ h := absurd h List.not_mem_nil
  ordered := .nil
  full _ h := absurd h List.not_mem_nil

/-- A seat that finds room where another found none is the CHAIR of the two. -/
theorem State.roomBeside_chair {l : List OpenEntry} {i j : Seat} (hi : ¬ s.roomBeside l i) (hj : s.roomBeside l j) :
    s.classOf j = .chair ∧ s.classOf i ≠ .chair := by
  obtain ⟨short, own⟩ := hj
  have stuck : ¬ (s.classOf i = .chair ∨ (l.filter fun e => s.classOf e.seat ≠ .chair).length < s.floor.maxOpen) := fun k => hi ⟨short, k⟩
  rw [not_or] at stuck
  exact ⟨own.resolve_right stuck.2, stuck.1⟩

theorem State.VoiceGrants.next (h : s.VoiceGrants u done granted) (hb : ∀ j ∈ done, louder s.envelope j i)
    (hi : s.voiceAsks i = true → ¬ s.roomBeside u.floor.openList i) : s.VoiceGrants u (done ++ [i]) granted where
  facts := h.facts
  cal := h.cal
  action := h.action
  within j hj := List.mem_append_left _ (h.within j hj)
  asks := h.asks
  ordered := h.ordered
  full j hj asks out := by
    rcases List.mem_append.1 hj with hj | hj
    · exact h.full j hj asks out
    · rw [List.mem_singleton.1 hj] at asks ⊢
      exact ⟨hi asks, fun g hg first => (louder_asymm _ (hb g (h.within g hg)) first).elim⟩

theorem State.VoiceFacts.grant (h : s.VoiceFacts u granted) (i : Seat) :
    s.VoiceFacts (u.grantSeat i .voice) (granted ++ [i]) where
  classes := State.sameClasses_trans h.classes (u.grantSeat_limits i .voice).classes
  bookings := by simpa using h.bookings
  pos := by simpa using h.pos
  store := by simpa using h.store
  clock := by simpa using h.clock
  blocked := by rw [u.grantSeat_floor]; exact h.blocked
  maxOpen := by rw [u.grantSeat_floor]; exact h.maxOpen
  openList := by
    rw [u.grantSeat_floor]
    simp [h.openList, h.clock]

/-- One more seat is considered in IN_SESSION. -/
theorem State.VoiceGrants.step (hh : s.store.halted = false) (hs : s.cal.session = .inSession) (seen : Seat → Bool)
    (hv : s.voiceStart i = true) (hb : ∀ j ∈ done, louder s.envelope j i) (h : s.VoiceGrants u done granted) :
    ∃ granted, s.VoiceGrants (State.voiceTry seen u i) (done ++ [i]) granted := by
  have fresh : i ∉ granted := fun k => louder_asymm _ (hb i (h.within i k)) (hb i (h.within i k))
  have room : s.roomBeside u.floor.openList i ↔ u.room i = true := by
    rw [← State.roomBeside_same h.facts.classes h.facts.maxOpen]
    exact u.roomBeside_iff _ i rfl
  cases ha : s.voiceAsks i with
  | false =>
    rw [h.facts.declined hh hv fresh seen ha]
    exact ⟨granted, h.next hb fun k => by rw [ha] at k; cases k⟩
  | true =>
    rw [h.facts.considered hh hv fresh seen ha (by rw [h.cal]; exact hs)]
    cases hr : u.room i with
    | false => exact ⟨granted, h.next hb fun _ k => by rw [room, hr] at k; cases k⟩
    | true =>
      have found := room.2 hr
      have longer : (u.grantSeat i .voice).floor.openList = u.floor.openList ++ [⟨i, u.clock.now, .voice⟩] := by
        rw [u.grantSeat_floor]
      refine ⟨granted ++ [i], h.facts.grant i, by simpa using h.cal, (u.grantSeat_limits i .voice).limitAction.trans h.action,
        fun j hj => ?_, fun j hj => ?_, ?_, fun j hj asks out => ?_⟩
      · exact (List.mem_append.1 hj).elim (fun k => List.mem_append_left _ (h.within j k)) (List.mem_append_right _)
      · rcases List.mem_append.1 hj with hj | hj
        · exact h.asks j hj
        · rw [List.mem_singleton.1 hj]
          exact ha
      · exact List.pairwise_append.2 ⟨h.ordered, List.pairwise_singleton _ _, fun g hg x hx => by
          rw [List.mem_singleton.1 hx]
          exact hb g (h.within g hg)⟩
      · rw [List.mem_append, List.mem_singleton, not_or] at out
        obtain ⟨stuck, chairs⟩ := h.full j ((List.mem_append.1 hj).resolve_right fun k => out.2 (List.mem_singleton.1 k)) asks out.1
        refine ⟨fun k => stuck (State.roomBeside_sublist (longer ▸ List.sublist_append_left _ _) k), fun g hg first => ?_⟩
        rcases List.mem_append.1 hg with hg | hg
        · exact chairs g hg first
        · rw [List.mem_singleton.1 hg]
          exact State.roomBeside_chair stuck found

theorem State.voicesTried_inSession (hh : s.store.halted = false) (hs : s.cal.session = .inSession) :
    ∃ granted, s.VoiceGrants s.voicesTried s.startingVoices granted := by
  rw [State.voicesTried, State.voicesOut_eq (.inl (by rw [hs]; decide))]
  exact foldl_ordered (P := fun u done => ∃ granted, s.VoiceGrants u done granted)
    (fun _ _ _ hi hb ⟨_, h⟩ => h.step hh hs _ (State.mem_startingVoices.1 hi) hb) s.startingVoices_ordered.2 ⟨[], .start s⟩

/-- At a halted table nobody is considered. -/
theorem State.voicesTried_halted (hh : s.store.halted = true) (hs : s.cal.session ≠ .grace) :
    s.voicesTried = s.removeAll s.idleVoices .voiceIdle := by
  rw [State.voicesTried, State.voicesOut_eq (.inl hs)]
  have halted : (s.removeAll s.idleVoices .voiceIdle).store.halted = true := by simpa using hh
  refine List.foldl_fixed' (fun i => ?_) _
  rw [State.voiceTry, halted, Bool.or_true, if_pos rfl]

end Grants

/-! ## The refusals of voice operation in GRACE (04 R80) -/

section Refusals
variable {s u : State} {done : List Seat} {i : Seat}

/-- The seat asks in the first cycle of its run. -/
def State.voiceNew (s : State) (i : Seat) : Bool := s.voiceAsks i && !s.floor.seen[i]

/-- The tally after `n` refusals with SESSION_ENDING. -/
def State.tallied (s : State) (n : Nat) : Vector Nat 8 :=
  s.cal.tally.set 6 (if n = 0 then s.cal.tally[6] else min 65535 (s.cal.tally[6] + n))

theorem State.tallied_succ (s : State) (n : Nat) :
    (s.tallied n).set 6 (min 65535 ((s.tallied n)[6] + 1)) = s.tallied (n + 1) := by
  rw [State.tallied, State.tallied, Vector.set_set, Vector.getElem_set_self, if_neg (Nat.succ_ne_zero n)]
  congr 1
  split <;> omega

/-- The seats of `done` have been considered in GRACE, where the session goes on. -/
structure State.VoiceRefusals (s u : State) (done : List Seat) : Prop where
  facts : s.VoiceFacts u []
  cal : u.cal = { s.cal with tally := s.tallied (done.countP s.voiceNew) }
  action : u.mic.limitAction = s.mic.limitAction
  flash : ∀ i ∈ done, s.voiceNew i = true → (u.micOf i).flash = 2000

theorem State.VoiceRefusals.start (s : State) : s.VoiceRefusals (s.removeAll s.idleVoices .voiceIdle) [] where
  facts := .start s
  cal := by
    rw [List.countP_nil, State.tallied, if_pos rfl, Vector.set_getElem_self]
    simp
  action := (State.removeAll_limits _ _ _).limitAction
  flash _ h := absurd h List.not_mem_nil

theorem State.VoiceRefusals.next (h : s.VoiceRefusals u done) (hi : s.voiceNew i = false) : s.VoiceRefusals u (done ++ [i]) where
  facts := h.facts
  cal := by rw [List.countP_append, List.countP_singleton, hi, h.cal]; rfl
  action := h.action
  flash j hj new := h.flash j ((List.mem_append.1 hj).resolve_right fun k => by
    rw [List.mem_singleton.1 k, hi] at new; cases new) new

theorem State.VoiceFacts.refuse (h : s.VoiceFacts u []) (i : Seat) (r : Refuse) (k : PressKind) : s.VoiceFacts (u.refuse i r k) [] where
  classes := State.sameClasses_trans h.classes (State.sameClasses_of (by simp) rfl)
  bookings := h.bookings
  pos := by simpa using h.pos
  store := by simpa using h.store
  clock := by simpa using h.clock
  blocked := by simpa using h.blocked
  maxOpen := by simpa using h.maxOpen
  openList := by simpa using h.openList

/-- One more seat is considered in GRACE. -/
theorem State.VoiceRefusals.step (hh : s.store.halted = false) (hs : s.cal.session = .grace) (hv : s.voiceStart i = true)
    (h : s.VoiceRefusals u done) : s.VoiceRefusals (State.voiceTry (fun i => s.floor.seen[i]) u i) (done ++ [i]) := by
  cases ha : s.voiceAsks i with
  | false =>
    rw [h.facts.declined hh hv List.not_mem_nil _ ha]
    exact h.next (by rw [State.voiceNew, ha]; rfl)
  | true =>
    rw [h.facts.refused hh hv List.not_mem_nil _ ha (by rw [h.cal]; exact hs)]
    cases hn : s.floor.seen[i] with
    | true => exact h.next (by rw [State.voiceNew, ha, hn]; rfl)
    | false =>
      have new : s.voiceNew i = true := by rw [State.voiceNew, ha, hn]; rfl
      rw [if_neg (by decide)]
      refine ⟨h.facts.refuse i _ _, ?_, h.action, fun j hj _ => ?_⟩
      · rw [u.refuse_cal, h.cal, List.countP_append, List.countP_singleton, new]
        exact congrArg (fun t : Vector Nat 8 => { s.cal with tally := t }) (s.tallied_succ _)
      · rw [u.refuse_micOf]
        split
        · rfl
        · next other =>
          exact h.flash j ((List.mem_append.1 hj).resolve_right fun k => other (List.mem_singleton.1 k)) (by assumption)

theorem State.voicesTried_grace (hh : s.store.halted = false) (hs : s.cal.session = .grace)
    (hk : s.keptVoices ≠ [] ∨ s.floor.openList = []) : s.VoiceRefusals s.voicesTried s.startingVoices := by
  rw [State.voicesTried, State.voicesOut_eq (.inr hk)]
  exact foldl_ordered (P := fun u done => s.VoiceRefusals u done)
    (fun _ _ _ hi _ h => h.step hh hs (State.mem_startingVoices.1 hi)) s.startingVoices_ordered.2 (.start s)

/-- The refusals counted are those of the seats that ask in the first cycle of their run. -/
theorem State.startingVoices_count (s : State) :
    s.startingVoices.countP s.voiceNew = ((numbers 64).filter s.voiceNew).length := by
  rw [s.startingVoices_ordered.1.countP_eq, List.countP_filter, List.countP_eq_length_filter]
  congr 1
  refine List.filter_congr fun i _ => ?_
  cases hn : s.voiceNew i with
  | false => rfl
  | true =>
    have asks : s.voiceAsks i = true := by
      rw [State.voiceNew, Bool.and_eq_true] at hn
      exact hn.1
    rw [State.voiceAsks, decide_eq_true_eq] at asks
    rw [asks.1]
    rfl

end Refusals

/-! ## The list that voice-idle empties in GRACE (04 R71) -/

section Emptied
variable {s u : State} {i : Seat}

/-- CLOSING has begun and completed within the voice removals, and the calendar has moved on: nobody waits, and no microphone
is OPEN. -/
structure State.VoiceRestarted (u : State) : Prop where
  queue : u.floor.queue = []
  settled : u.cal.session.settled
  report : u.cal.lastReport.map (·.cause) = some .floorEmpty
  still : ∀ i, (u.micOf i).state ≠ .opened

theorem State.VoiceRestarted.step (h : u.VoiceRestarted) (seen : Seat → Bool) (i : Seat) : (State.voiceTry seen u i).VoiceRestarted := by
  unfold State.voiceTry
  split
  · exact h
  · split
    · split
      · refine ⟨?_, by simpa using h.settled, by simpa using h.report, fun j => ?_⟩
        · rw [u.grantSeat_floor, h.queue]
          rfl
        · rw [u.grantSeat_micOf]
          split
          · simp
          · exact h.still j
      · exact h
    · next grace => exact absurd grace h.settled.1
    · exact h

/-- In CLOSING nobody is considered. -/
theorem State.voiceTry_closing (hs : u.cal.session = .closing) (seen : Seat → Bool) (i : Seat) : State.voiceTry seen u i = u := by
  unfold State.voiceTry
  rw [hs]
  split <;> rfl

/-- The removals of voice-idle, before CLOSING begins. -/
def State.voicesGone (s : State) : State := s.removeAll s.idleVoices .voiceIdle

theorem State.voicesGone_openList (hk : s.keptVoices = []) : s.voicesGone.floor.openList = [] := s.removeAll_idle.trans hk

/-- Where a microphone is still in its close gap CLOSING stays; otherwise it completes within the cycle's end. -/
theorem State.voicesTried_emptied (hg : s.cal.session = .grace) (hk : s.keptVoices = []) (ho : s.floor.openList ≠ []) :
    s.voicesTried = s.voicesGone.closingBegun .floorEmpty ∨
      ((∀ i, (s.voicesGone.micOf i).state = .closed) ∧ s.voicesTried.VoiceRestarted) := by
  have out : s.voicesOut = (s.voicesGone.closingBegun .floorEmpty).reportClosed :=
    (State.voicesOut_emptied hg hk ho).trans (State.startClosing_eq _ _)
  obtain ⟨report, cal, cause, -⟩ := s.voicesGone.closingBegun_cal .floorEmpty
  rcases (s.voicesGone.closingBegun .floorEmpty).reportClosed_cases with same | ⟨-, all, complete⟩
  · rw [State.voicesTried, out, same]
    exact .inl (List.foldl_fixed' (fun i => State.voiceTry_closing (by rw [cal]) _ i) _)
  · refine .inr ⟨fun i => (s.voicesGone.closingBegun_closed .floorEmpty i).1 (all i), ?_⟩
    have rests := (s.voicesGone.closingBegun .floorEmpty).reportClosed_rests
    rw [State.voicesTried, out]
    refine List.foldlRecOn _ _ ⟨?_, ?_, ?_, fun i => ?_⟩ fun u h i _ => h.step _ i
    · rw [rests.queue]
      exact (s.voicesGone.closingBegun_floor .floorEmpty).2.1
    · rw [complete]
      exact State.completeClosing_settled _
    · rw [rests.report, cal]
      exact congrArg some cause
    · rw [State.micOf, rests.recs]
      have closed : ((s.voicesGone.closingBegun .floorEmpty).micOf i).state = .closed := all i
      exact fun k => by rw [State.micOf] at closed; rw [closed] at k; cases k

/-- A holder that voice-idle takes off the floor goes through its close gap (05 R100). -/
theorem State.voicesGone_closing (hk : s.keptVoices = []) (hm : s.MicOk) {e : OpenEntry} (he : e ∈ s.floor.openList) :
    (s.voicesGone.micOf e.seat).state = .closing ∧ (s.voicesGone.micOf e.seat).gap = s.cfg.closeGap := by
  have holds : s.holds e.seat = true := (s.holds_iff _).2 ⟨e, he, rfl⟩
  have on := (hm e.seat).1 holds
  have idle : e ∈ s.idleVoices := by
    refine List.mem_filter.2 ⟨he, ?_⟩
    by_contra stays
    have kept : e ∈ s.keptVoices := List.mem_filter.2 ⟨he, by simpa using stays⟩
    rw [hk] at kept
    cases kept
  have closing : (s.voicesGone.micOf e.seat).state = .closing :=
    (State.removeAll_state s.idleVoices (r := .voiceIdle) rfl s e.seat).trans (if_pos ⟨⟨e, idle, rfl⟩, holds, on⟩)
  exact ⟨closing, State.removeAll_gap _ rfl s on closing⟩

end Emptied

end Sys2Proof.Machine

namespace Sys2Proof.Machine

/-! ## A cycle with voice operation -/

section Cycle
variable {s : State} {i : Seat}

/-- CHAIN_CYCLE finds nothing of the cycle to take, no end of a pass and no end of a tenth, and the session's limits warn. -/
structure State.VoiceOnly (s : State) : Prop where
  slots : ∀ p : Pos, s.pos[p].answer = none ∧ s.pos[p].event = none
  noPass : s.wingA.passEnds = false ∧ s.wingB.passEnds = false
  cycles : s.clock.cycles < 199
  warn : s.mic.limitAction = .warn

/-- After the voice operation of the cycle neither the floor nor the calendar moves. -/
structure State.CycleKeeps (v t : State) : Prop where
  cal : t.cal = v.cal
  floor : t.floor = v.floor
  flash : ∀ i, (t.micOf i).flash = (v.micOf i).flash - 1

/-- After the voice operation of the cycle the last close gap of CLOSING ends, and the calendar moves on. -/
structure State.CycleEnds (v t : State) : Prop where
  closing : v.cal.session = .closing
  openList : t.floor.openList = v.floor.openList
  queue : t.floor.queue = v.floor.queue
  seen : t.floor.seen = v.floor.seen
  report : t.cal.lastReport = v.cal.lastReport
  settled : t.cal.session.settled
  due : ∀ i, (v.micOf i).state ≠ .closed → (v.micOf i).gapDue = true ∨ (v.micOf i).turnDue = true

/-- The end of the cycle leads to the boundary with the wings and the tables alone moved. -/
theorem State.VoiceOnly.atBoundary (h : s.VoiceOnly) : s.voiceCycle.keeps s.atBoundary [.wings, .tables] := by
  have ends := s.endCycle_noPass h.noPass.1 h.noPass.2
  rw [State.takeSlots_none h.slots] at ends
  rw [State.atBoundary, ends]
  exact State.keeps_trans (State.keeps_mono (State.moveScan_keeps _) (by decide))
    (State.keeps_mono (State.transferDue_keeps _) (by decide))

theorem State.VoiceOnly.cycled (h : s.VoiceOnly)
    (hw : s.voiceCycle.mic.limitAction = .warn ∨ ∀ i, (s.voiceCycle.micOf i).state ≠ .opened) :
    s.voiceCycle.CycleKeeps s.cycled ∨ s.voiceCycle.CycleEnds s.cycled := by
  have lead := h.atBoundary
  have bcal : s.atBoundary.cal = s.voiceCycle.cal := lead .cal (by decide)
  have bfloor : s.atBoundary.floor = s.voiceCycle.floor := lead .floor (by decide)
  have bmic : s.atBoundary.mic = s.voiceCycle.mic := lead .mic (by decide)
  have bmics : ∀ i, s.atBoundary.micOf i = s.voiceCycle.micOf i := State.micOf_congr bmic
  have after := s.cycled_from_mics (.inl h.cycles)
  have cal : s.cycled.cal = s.atBoundary.micBoundary.cal := after .cal (by decide)
  have floor : s.cycled.floor = s.atBoundary.micBoundary.floor := after .floor (by decide)
  rcases State.micBoundary_outcome (s := s.atBoundary) (hw.imp (by rw [bmic]; exact id) fun k i => by rw [bmics]; exact k i)
    with keep | ends
  · refine .inl ⟨cal.trans (keep.cal.trans bcal), floor.trans (keep.floor.trans bfloor), fun i => ?_⟩
    obtain ⟨-, -, -, -, -, -, flash, -⟩ := MicRec.of_latched (s.cycled_mics (.inl h.cycles) i)
    rw [flash, ← bmics]
    exact keep.flash i
  · refine .inr ⟨by rw [← bcal]; exact ends.closing, by rw [floor, ends.openList, bfloor], by rw [floor, ends.queue, bfloor],
      by rw [floor, ends.seen, bfloor], by rw [cal, ends.report, bcal], by rw [cal]; exact ends.settled, fun i hi => ?_⟩
    have due := ((s.atBoundary.mem_micDue i).1 (ends.due i (by rw [bmics]; exact hi))).2
    rwa [bmics] at due

/-- Outside CLOSING the rest of the cycle moves neither the floor nor the calendar. -/
theorem State.VoiceOnly.cycled_keeps (h : s.VoiceOnly)
    (hw : s.voiceCycle.mic.limitAction = .warn ∨ ∀ i, (s.voiceCycle.micOf i).state ≠ .opened)
    (hc : s.voiceCycle.cal.session ≠ .closing) : s.voiceCycle.CycleKeeps s.cycled :=
  (h.cycled hw).resolve_right fun ends => hc ends.closing

/-- The voice-seen marks are a part of the floor alone. -/
theorem State.setSeen (s : State) (marks : Vector Bool 64) :
    let v := s.setFloor fun f => { f with seen := marks }
    v.cal = s.cal ∧ v.mic = s.mic ∧ v.floor.openList = s.floor.openList ∧ v.floor.queue = s.floor.queue ∧
      v.floor.blocked = s.floor.blocked := ⟨rfl, rfl, rfl, rfl, rfl⟩

theorem State.VoiceOnly.off (hm : s.floor.mode ≠ .voice) : s.voiceCycle.cal = s.cal ∧ s.voiceCycle.mic = s.mic ∧
    s.voiceCycle.floor.openList = s.floor.openList ∧ s.voiceCycle.floor.queue = s.floor.queue ∧
      s.voiceCycle.floor.blocked = s.floor.blocked := by
  rw [State.voiceCycle_off hm]
  exact s.setSeen _

theorem State.VoiceOnly.on (hm : s.floor.mode = .voice) : s.voiceCycle.cal = s.voicesTried.cal ∧
    s.voiceCycle.mic = s.voicesTried.mic ∧ s.voiceCycle.floor.openList = s.voicesTried.floor.openList ∧
      s.voiceCycle.floor.queue = s.voicesTried.floor.queue ∧ s.voiceCycle.floor.blocked = s.voicesTried.floor.blocked := by
  rw [State.voiceCycle_on hm]
  exact s.voicesTried.setSeen _

/-- In other modes the conditions move nothing. -/
theorem State.VoiceOnly.otherMode (h : s.VoiceOnly) (hm : s.floor.mode ≠ .voice) :
    s.cycled.floor.openList = s.floor.openList ∧ s.cycled.floor.queue = s.floor.queue ∧
      s.cycled.floor.seen = s.voiceCycle.floor.seen ∧
      (s.cal.session ≠ .closing → s.cycled.floor.blocked = s.floor.blocked ∧ s.cycled.cal.tally = s.cal.tally) := by
  obtain ⟨cal, mic, openList, queue, blocked⟩ := State.VoiceOnly.off hm
  have warn : s.voiceCycle.mic.limitAction = .warn := by rw [mic]; exact h.warn
  refine ⟨?_, ?_, ?_, fun hc => ?_⟩
  · rcases h.cycled (.inl warn) with k | k
    · rw [k.floor, openList]
    · rw [k.openList, openList]
  · rcases h.cycled (.inl warn) with k | k
    · rw [k.floor, queue]
    · rw [k.queue, queue]
  · rcases h.cycled (.inl warn) with k | k
    · rw [k.floor]
    · exact k.seen
  · have k := h.cycled_keeps (.inl warn) (by rw [cal]; exact hc)
    rw [k.floor, k.cal, blocked, cal]
    exact ⟨rfl, rfl⟩

/-- VOICE mode in IN_SESSION at a halted table: the removals alone. -/
theorem State.VoiceOnly.halted (h : s.VoiceOnly) (hm : s.floor.mode = .voice) (hh : s.store.halted = true)
    (hs : s.cal.session = .inSession) : s.voiceCycle.CycleKeeps s.cycled ∧ s.cycled.floor.openList = s.keptVoices := by
  obtain ⟨cal, mic, openList, queue, blocked⟩ := State.VoiceOnly.on hm
  have tried := State.voicesTried_halted hh (by rw [hs]; decide)
  have tcal : s.voicesTried.cal = s.cal := by rw [tried]; simp
  have k := h.cycled_keeps (.inl (by rw [mic, tried]; exact (State.removeAll_limits _ _ _).limitAction.trans h.warn))
    (by rw [cal, tcal, hs]; decide)
  refine ⟨k, ?_⟩
  rw [k.floor, openList, tried]
  exact s.removeAll_idle

/-- VOICE mode in IN_SESSION: the removals, then the grants. -/
theorem State.VoiceOnly.inSession (h : s.VoiceOnly) (hm : s.floor.mode = .voice) (hh : s.store.halted = false)
    (hs : s.cal.session = .inSession) : s.voiceCycle.CycleKeeps s.cycled ∧ s.cycled.cal = s.cal ∧
      s.cycled.floor.blocked = s.floor.blocked ∧ ∃ granted, s.VoiceGrants s.voicesTried s.startingVoices granted ∧
        s.cycled.floor.openList = s.keptVoices ++ granted.map fun i => ⟨i, s.clock.now, .voice⟩ := by
  obtain ⟨cal, mic, openList, queue, blocked⟩ := State.VoiceOnly.on hm
  obtain ⟨granted, g⟩ := State.voicesTried_inSession hh hs
  have k := h.cycled_keeps (.inl (by rw [mic, g.action]; exact h.warn)) (by rw [cal, g.cal, hs]; decide)
  refine ⟨k, by rw [k.cal, cal, g.cal], ?_, granted, g, ?_⟩
  · rw [k.floor, blocked]
    exact g.facts.blocked
  · rw [k.floor, openList]
    exact g.facts.openList

/-- VOICE mode in GRACE, where the session goes on: the removals, then the refusals. -/
theorem State.VoiceOnly.inGrace (h : s.VoiceOnly) (hm : s.floor.mode = .voice) (hh : s.store.halted = false)
    (hs : s.cal.session = .grace) (hk : s.keptVoices ≠ [] ∨ s.floor.openList = []) :
    s.voiceCycle.CycleKeeps s.cycled ∧ s.cycled.floor.openList = s.keptVoices ∧ s.cycled.floor.blocked = s.floor.blocked ∧
      s.cycled.cal = { s.cal with tally := s.tallied ((numbers 64).filter s.voiceNew).length } ∧
      ∀ i, s.voiceNew i = true → (s.cycled.micOf i).flash = 1999 := by
  obtain ⟨cal, mic, openList, queue, blocked⟩ := State.VoiceOnly.on hm
  have r := State.voicesTried_grace hh hs hk
  have k := h.cycled_keeps (.inl (by rw [mic, r.action]; exact h.warn)) (by rw [cal, r.cal, hs]; decide)
  refine ⟨k, ?_, ?_, ?_, fun i hi => ?_⟩
  · rw [k.floor, openList]
    exact r.facts.openList.trans (List.append_nil _)
  · rw [k.floor, blocked]
    exact r.facts.blocked
  · rw [k.cal, cal, r.cal, s.startingVoices_count]
  · have asks : s.voiceAsks i = true := by
      rw [State.voiceNew, Bool.and_eq_true] at hi
      exact hi.1
    rw [State.voiceAsks, decide_eq_true_eq] at asks
    rw [k.flash, State.micOf_congr mic, r.flash i (State.mem_startingVoices.2 asks.1) hi]

/-- VOICE mode in GRACE, where voice-idle empties the list: CLOSING begins. -/
theorem State.VoiceOnly.emptied (h : s.VoiceOnly) (hm : s.floor.mode = .voice)
    (hs : s.cal.session = .grace) (hk : s.keptVoices = []) (ho : s.floor.openList ≠ []) :
    s.cycled.floor.seen = s.voiceCycle.floor.seen ∧ s.cycled.floor.queue = [] ∧ s.cycled.cal.session ≠ .grace ∧
      s.cycled.cal.lastReport.map (·.cause) = some .floorEmpty ∧
      (s.MicOk → s.cycled.floor.openList = [] ∧
        (2 ≤ s.cfg.closeGap → s.cycled.cal.session = .closing ∧ s.cycled.floor.blocked = s.floor.blocked)) := by
  obtain ⟨cal, mic, openList, queue, blocked⟩ := State.VoiceOnly.on hm
  obtain ⟨report, bcal, cause, -⟩ := s.voicesGone.closingBegun_cal .floorEmpty
  have bsession : (s.voicesGone.closingBegun .floorEmpty).cal.session = .closing := by rw [bcal]
  have breport : (s.voicesGone.closingBegun .floorEmpty).cal.lastReport.map (·.cause) = some .floorEmpty := by
    rw [bcal]
    exact congrArg some cause
  obtain ⟨bopen, bqueue, -⟩ := s.voicesGone.closingBegun_floor .floorEmpty
  rcases State.voicesTried_emptied hs hk ho with begun | ⟨closed, restarted⟩
  · rw [begun] at cal mic openList queue blocked
    have warn : s.voiceCycle.mic.limitAction = .warn := by
      rw [mic, State.closingBegun_limitAction]
      exact (State.removeAll_limits _ _ _).limitAction.trans h.warn
    rcases h.cycled (.inl warn) with k | k
    · refine ⟨by rw [k.floor], by rw [k.floor, queue]; exact bqueue, by rw [k.cal, cal, bsession]; decide,
        by rw [k.cal, cal]; exact breport, fun _ => ⟨?_, fun _ => ⟨?_, ?_⟩⟩⟩
      · rw [k.floor, openList]
        exact bopen
      · rw [k.cal, cal]
        exact bsession
      · rw [k.floor, blocked]
        exact (s.voicesGone.closingBegun_blocked .floorEmpty (State.voicesGone_openList hk)).trans (State.removeAll_blocked _ rfl s)
    · refine ⟨k.seen, by rw [k.queue, queue]; exact bqueue, k.settled.1, by rw [k.report, cal]; exact breport,
        fun ok => ⟨by rw [k.openList, openList]; exact bopen, fun long => ?_⟩⟩
      -- the close gap of a seat that left runs on past this boundary
      obtain ⟨e, he⟩ := List.exists_mem_of_ne_nil _ ho
      obtain ⟨closing, gap⟩ := State.voicesGone_closing hk ok he
      have own : (s.voiceCycle.micOf e.seat).state = .closing ∧ (s.voiceCycle.micOf e.seat).gap = s.cfg.closeGap := by
        rw [State.micOf_congr mic, s.voicesGone.closingBegun_micOf .floorEmpty (State.voicesGone_openList hk)]
        split <;> exact ⟨closing, gap⟩
      have due := k.due e.seat (by rw [own.1]; decide)
      rw [MicRec.gapDue_iff, MicRec.turnDue_iff, own.1, own.2] at due
      rcases due with ⟨-, short⟩ | ⟨opened, -⟩
      · omega
      · cases opened
  · have still : ∀ i, (s.voiceCycle.micOf i).state ≠ .opened := fun i => by
      rw [State.micOf_congr mic]
      exact restarted.still i
    have k := h.cycled_keeps (.inr still) (by rw [cal]; exact restarted.settled.2)
    refine ⟨by rw [k.floor], by rw [k.floor, queue]; exact restarted.queue, by rw [k.cal, cal]; exact restarted.settled.1,
      by rw [k.cal, cal]; exact restarted.report, fun ok => ?_⟩
    obtain ⟨e, he⟩ := List.exists_mem_of_ne_nil _ ho
    obtain ⟨closing, -⟩ := State.voicesGone_closing hk ok he
    rw [closed e.seat] at closing
    cases closing

end Cycle

end Sys2Proof.Machine

namespace Sys2Proof.Machine

/-! ## Voice operation, clause by clause (04 R71, R75, R80, R81) -/

section VoiceClauses
variable {s : State}

/-- The tally counts each refusal of this cycle. -/
theorem State.tallied_asks (s : State) : s.tallied ((numbers 64).filter s.voiceNew).length =
    s.cal.tally.set 6 (if (∃ i : Seat, s.voiceAsks i = true ∧ s.floor.seen[i] = false) then
      min 65535 (s.cal.tally[6] + ((numbers 64).filter fun i => s.voiceAsks i && !s.floor.seen[i]).length)
      else s.cal.tally[6]) := by
  have new : ∀ i, s.voiceNew i = true ↔ s.voiceAsks i = true ∧ s.floor.seen[i] = false := fun i => by
    rw [State.voiceNew, Bool.and_eq_true, Bool.not_eq_true']
  rw [State.tallied]
  by_cases some : ∃ i : Seat, s.voiceAsks i = true ∧ s.floor.seen[i] = false
  · obtain ⟨i, hi⟩ := id some
    have counted : ((numbers 64).filter s.voiceNew).length ≠ 0 :=
      (List.length_pos_of_mem (List.mem_filter.2 ⟨List.mem_finRange i, (new i).2 hi⟩)).ne'
    rw [if_pos some, if_neg counted]
    rfl
  · have none : ((numbers 64).filter s.voiceNew).length = 0 := by
      rw [List.length_eq_zero_iff, List.filter_eq_nil_iff]
      exact fun i _ k => some ⟨i, (new i).1 k⟩
    rw [if_neg some, if_pos none]

/-- What the grants of a cycle come to. -/
theorem State.VoiceGrants.outcome {u t : State} {granted : List Seat} (g : s.VoiceGrants u s.startingVoices granted)
    (ht : t.floor.openList = s.keptVoices ++ granted.map fun i => ⟨i, s.clock.now, .voice⟩) :
    s.keptVoices <+: t.floor.openList ∧
      (∀ e ∈ t.floor.openList.drop s.keptVoices.length, e.time = s.clock.now ∧ e.source = .voice ∧ s.voiceAsks e.seat = true) ∧
      ((t.floor.openList.drop s.keptVoices.length).map (·.seat)).Pairwise (louder s.envelope) ∧
      ∀ i : Seat, s.voiceAsks i = true → i ∉ (t.floor.openList.drop s.keptVoices.length).map (·.seat) →
        (8 ≤ t.floor.openList.length ∨ (s.classOf i ≠ .chair ∧
          s.floor.maxOpen ≤ (t.floor.openList.filter fun e => s.classOf e.seat ≠ .chair).length)) ∧
        ∀ j ∈ (t.floor.openList.drop s.keptVoices.length).map (·.seat), louder s.envelope i j →
          s.classOf j = .chair ∧ s.classOf i ≠ .chair := by
  have added : t.floor.openList.drop s.keptVoices.length = granted.map fun i => ⟨i, s.clock.now, .voice⟩ := by
    rw [ht]
    exact List.drop_left
  have seats : (t.floor.openList.drop s.keptVoices.length).map (·.seat) = granted := by
    rw [added, List.map_map]
    exact List.map_id _
  rw [seats, added]
  refine ⟨⟨_, ht.symm⟩, fun e he => ?_, g.ordered, fun i asks out => ?_⟩
  · obtain ⟨i, hi, rfl⟩ := List.mem_map.1 he
    exact ⟨rfl, rfl, g.asks i hi⟩
  · have starts : s.voiceStart i = true := by
      have := asks
      rw [State.voiceAsks, decide_eq_true_eq] at this
      exact this.1
    obtain ⟨stuck, chairs⟩ := g.full i (State.mem_startingVoices.2 starts) asks out
    rw [g.facts.openList, ← ht, State.roomBeside, not_and_or, not_or, not_lt, not_lt] at stuck
    exact ⟨stuck, chairs⟩

/-- Considering a seat leaves the limit action of the session. -/
theorem State.voiceTry_limitAction (u : State) (seen : Seat → Bool) (i : Seat) :
    (State.voiceTry seen u i).mic.limitAction = u.mic.limitAction := by
  unfold State.voiceTry
  split
  · rfl
  · split
    · split
      · exact (u.grantSeat_limits i .voice).limitAction
      · rfl
    · split <;> rfl
    · rfl

/-- The voice-seen marks that the cycle sets stand at its end. -/
theorem State.VoiceOnly.seen (h : s.VoiceOnly) : s.cycled.floor.seen = s.voiceCycle.floor.seen := by
  by_cases hm : s.floor.mode = .voice
  · by_cases he : s.cal.session = .grace ∧ s.keptVoices = [] ∧ s.floor.openList ≠ []
    · obtain ⟨hs, hk, ho⟩ := he
      exact (h.emptied hm hs hk ho).1
    · have goes : s.cal.session ≠ .grace ∨ s.keptVoices ≠ [] ∨ s.floor.openList = [] := by
        rw [not_and_or, not_and_or, not_not] at he
        exact he
      have tried : s.voicesTried.mic.limitAction = .warn := by
        rw [State.voicesTried, State.voicesOut_eq goes]
        exact List.foldlRecOn (motive := fun u : State => u.mic.limitAction = .warn) _ _
          ((State.removeAll_limits _ _ _).limitAction.trans h.warn) fun u k i _ => (u.voiceTry_limitAction _ i).trans k
      rcases h.cycled (.inl (by rw [(State.VoiceOnly.on hm).2.1]; exact tried)) with k | k
      · rw [k.floor]
      · exact k.seen
  · exact (h.otherMode hm).2.2.1

/-- The first clause of O56. -/
theorem chainCycle_voices (hp : s.powered = true) (hr : s.mgmt.restart = .none) (h : s.VoiceOnly) :
    ∃ t, exec .chainCycle s = .next t ∧ (∀ i : Seat, t.floor.seen[i] = s.voiceStart i) ∧
      (s.floor.mode ≠ .voice → t.floor.openList = s.floor.openList ∧ t.floor.queue = s.floor.queue ∧
        (s.cal.session ≠ .closing → t.floor.blocked = s.floor.blocked ∧ t.cal.tally = s.cal.tally)) ∧
      (s.floor.mode = .voice → s.store.halted = true → s.cal.session = .inSession → t.floor.openList = s.keptVoices) ∧
      (s.floor.mode = .voice → s.store.halted = false → s.cal.session = .inSession →
        t.floor.blocked = s.floor.blocked ∧ t.cal.tally = s.cal.tally ∧ s.keptVoices <+: t.floor.openList ∧
        let granted := (t.floor.openList.drop s.keptVoices.length).map (·.seat)
        (∀ e ∈ t.floor.openList.drop s.keptVoices.length, e.time = s.clock.now ∧ e.source = .voice ∧ s.voiceAsks e.seat = true) ∧
        granted.Pairwise (louder s.envelope) ∧
        (∀ i : Seat, s.voiceAsks i = true → i ∉ granted →
          (8 ≤ t.floor.openList.length ∨ (s.classOf i ≠ .chair ∧
            s.floor.maxOpen ≤ (t.floor.openList.filter fun e => s.classOf e.seat ≠ .chair).length)) ∧
          ∀ j ∈ granted, louder s.envelope i j → s.classOf j = .chair ∧ s.classOf i ≠ .chair)) ∧
      (s.floor.mode = .voice → s.store.halted = false → s.cal.session = .grace →
        (s.MicOk → t.floor.openList = s.keptVoices) ∧
        (s.keptVoices ≠ [] ∨ s.floor.openList = [] →
          t.cal.session = .grace ∧ t.floor.blocked = s.floor.blocked ∧
          (∀ i : Seat, s.voiceAsks i = true → s.floor.seen[i] = false → (t.micOf i).flash = 1999) ∧
          t.cal.tally = s.cal.tally.set 6 (if (∃ i : Seat, s.voiceAsks i = true ∧ s.floor.seen[i] = false) then
            min 65535 (s.cal.tally[6] + ((numbers 64).filter fun i => s.voiceAsks i && !s.floor.seen[i]).length)
            else s.cal.tally[6])) ∧
        (s.keptVoices = [] → s.floor.openList ≠ [] → t.floor.queue = [] ∧ t.cal.session ≠ .grace ∧
          (t.cal.lastReport.map (·.cause)) = some .floorEmpty ∧
          (s.MicOk → 2 ≤ s.cfg.closeGap → t.cal.session = .closing ∧ t.floor.blocked = s.floor.blocked))) := by
  have marks : ∀ i : Seat, s.cycled.floor.seen[i] = s.voiceStart i := fun i => by
    rw [← s.voiceCycle_seen i]
    simp only [h.seen]
  refine ⟨s.cycled, exec_chainCycle_next hp hr, marks, fun hm => ?_, fun hm hh hs => (h.halted hm hh hs).2, fun hm hh hs => ?_,
    fun hm hh hs => ⟨fun ok => ?_, fun hk => ?_, fun hk ho => ?_⟩⟩
  · obtain ⟨openList, queue, -, rest⟩ := h.otherMode hm
    exact ⟨openList, queue, rest⟩
  · obtain ⟨-, cal, blocked, granted, grants, openList⟩ := h.inSession hm hh hs
    exact ⟨blocked, by rw [cal], grants.outcome openList⟩
  · by_cases hk : s.keptVoices = []
    · by_cases ho : s.floor.openList = []
      · obtain ⟨-, openList, -⟩ := h.inGrace hm hh hs (.inr ho)
        exact openList
      · obtain ⟨-, -, -, -, closes⟩ := h.emptied hm hs hk ho
        exact (closes ok).1.trans hk.symm
    · obtain ⟨-, openList, -⟩ := h.inGrace hm hh hs (.inl hk)
      exact openList
  · obtain ⟨-, -, blocked, cal, flash⟩ := h.inGrace hm hh hs hk
    refine ⟨by rw [cal]; exact hs, blocked, fun i asks new => flash i ?_, ?_⟩
    · rw [State.voiceNew, asks, new]
      rfl
    · rw [cal]
      exact s.tallied_asks
  · obtain ⟨-, queue, session, report, closes⟩ := h.emptied hm hs hk ho
    exact ⟨queue, session, report, fun ok => (closes ok).2⟩

/-- The second clause of O56: in VOICE mode a press clears the blocked mark. -/
theorem button_voice (seat : Seat) (hb : s.heard seat .button) (ha : s.mayAsk seat) (hm : s.floor.mode = .voice)
    (hh : s.holds seat = false) (hq : s.queued seat = false) :
    ∃ t, exec (.button (s.phys seat)) s = .next t ∧ s.keeps t ([.pos, .floor] ++ screenPieces) ∧ s.pressTaken t seat ∧
      t.floor = { s.floor with blocked := s.floor.blocked.set seat false } := by
  set u := s.setPos (s.phys seat) fun r => { r with event := none } with hu
  have passes : u.pressRefusal seat = none := by
    have same : ∀ p : Pos, u.pos[p].presence = s.pos[p].presence ∧ u.pos[p].statusValid = s.pos[p].statusValid ∧
        u.pos[p].card = s.pos[p].card := fun p => by
      rw [hu, State.setPos_pos, modify_get]
      split <;> exact ⟨rfl, rfl, rfl⟩
    obtain ⟨halted, session, present, valid, speaker, permitted⟩ := ha
    rw [State.pressRefusal_congr (s := s) (t := u) rfl rfl rfl rfl same, s.pressRefusal_eq seat present, valid]
    simp [halted, session, speaker, permitted]
  have press : u.press seat = u.setFloor fun f => { f with blocked := f.blocked.set seat false } := by
    have holds : u.holds seat = false := hh
    set v := u.setFloor fun f => { f with blocked := f.blocked.set seat false } with hv
    have queued : v.queued seat = false := hq
    have mode : v.floor.mode = .voice := hm
    simp only [State.press, passes, holds, Bool.false_eq_true, if_false, ← hv, queued, mode]
  refine ⟨_, exec_button_heard hb, ?_⟩
  rw [← hu, press]
  have keeps : s.keeps (u.setFloor fun f => { f with blocked := f.blocked.set seat false }) ([.pos, .floor] ++ screenPieces) :=
    State.keeps_trans (State.keeps_mono (s.setPos_keeps _ _) (by decide)) (State.keeps_mono (u.setFloor_keeps _) (by decide))
  refine ⟨State.keeps_ended keeps (by decide), ?_, ?_⟩
  · simp only [State.pressTaken, State.ended_frame]
    rfl
  · exact State.ended_keeps _ .floor (by decide)

/-- Settles O56: the removals, the seats considered in order of envelope, and a boundary that can complete CLOSING. -/
theorem voiceConditionsMoveTheFloor : Obligations.VoiceConditionsMoveTheFloor :=
  ⟨fun _ hp hr hslots ha hb hn hw => chainCycle_voices hp hr ⟨hslots, ⟨ha, hb⟩, hn, hw⟩,
    fun _ seat hb ha hm hh hq => button_voice seat hb ha hm hh hq⟩

end VoiceClauses

end Sys2Proof.Machine
